-- ==== Sys2Proof/Word.lean ====
section
/-! DEFINITION. The word types of the part: bytes, 16-bit and 32-bit words (12_formats.md). -/
namespace Sys2Proof

/-- One byte of the shared region or one head link character's data. -/
abbrev Byte := BitVec 8

/-- A two-byte field. -/
abbrev Half := BitVec 16

/-- A 32-bit word: registers, chainages, run times, take indices, operands. -/
abbrev Word := BitVec 32

end Sys2Proof
end

