-- ==== Sys2Proof/Syntax.lean ====
section
/-! DEFINITION. The commands: one constructor per row of spec/opcode_table.json, with what each brings from outside. -/
namespace Sys2Proof

/-- The two sides of the screed: code 0 LEFT, 1 RIGHT (12.4). -/
inductive Side
  | left
  | right
  deriving DecidableEq, Repr

/-- The level of the HALT input (R1). -/
inductive HaltLevel
  | released
  | asserted
  deriving DecidableEq, Repr

/-- Writes of the host to the shared region: (offset from REGION_BASE, byte). A read completion carries those that
became visible since the command before it, in the host's order (log 5). -/
abbrev HostWrites := List (Nat × Byte)

/-- A good frame of the machine bus (R62, R66): identifier in 11 or 29 bits, the extended flag, the remote flag, the
length code 0..15 and the data bytes received. -/
structure Frame where
  identifier : BitVec 29
  extended   : Bool
  remote     : Bool
  lengthCode : Nat
  data       : List Byte
  deriving DecidableEq, Repr

/-- A character received on the head link (R77): its eight data bits, its parity bit, and whether its stop bit was there. -/
structure LinkChar where
  data   : Byte
  parity : Bool
  stop   : Bool
  deriving DecidableEq, Repr

/-- The register writes that R167 says are ignored: any write to IDENT, and a CONTROL write of RUN. -/
inductive IgnoredWrite
  | ident (value : Word)
  | run (value : Bool)
  deriving DecidableEq, Repr

/-- A command of the part. An order's operands stand in the Board Reader's copy of the order (R36); a hand-off's
value stands in the hand-off. What a constructor carries comes from outside the part at that event. -/
inductive Instr
  -- registers and reset (R167, R32, R26, R171)
  | powerOnReset
  | softReset (value : Word)
  | runStart
  | orderlyStop
  | resume
  | sweep (value : Word)
  | regionBaseWrite (value : Word)
  | attentionClear (value : Word)
  | attentionEnableWrite (value : Word)
  | ignoredRegisterWrite (write : IgnoredWrite)
  -- the region interface (R168, R169, R170, R172) and the start-up pass (R41)
  | layoutReadDone (host : HostWrites)
  | startupSlotReadDone (host : HostWrites)
  | startupWriteDone
  | stopComplete
  | noteReadIndexDone (host : HostWrites)
  | noteWriteDone
  | summaryWriteDone
  -- the HALT input (R11)
  | haltAsserted
  | haltReleased
  -- the board (02)
  | sweepTimerExpiry
  | slotReadDone (host : HostWrites)
  | stagedWriteDone
  | outcomeWriteDone
  | withdrawnWriteDone
  | chainageReportAtBdr
  | runStatusAtBdr
  -- machine state and modes (01); `halt` is the input's level at the moment of execution
  | setState (halt : HaltLevel)
  | clearSafe (halt : HaltLevel)
  | autoPauseTimerExpiry
  | chainageAdvanceAtMsc
  | travelStatusAtMsc
  | referenceStatusAtMsc
  | runStatusAtMsc (halt : HaltLevel)
  | setSide
  | setFeed
  -- settings and pages (03)
  | setValue
  | adjustValue
  | swapValue
  | readValue
  | loadPage
  | imageReadDone (host : HostWrites)
  | patchPage
  | confirmPage
  | paveEntryAtSps
  -- travel and the machine bus (04)
  | goodFrame (frame : Frame)
  | busError
  | travelTimerExpiry
  | rearmBus
  | setChainage
  | machineStateAtTrm
  | runStatusAtTrm
  | filterHandoff
  -- the head link (05); `received` holds the characters received, the answer first
  | quietIntervalEnd
  | characterTimeout
  | housekeepingEnd (received : List LinkChar)
  | junctionProbeEnd (received : List LinkChar)
  | headProbeEnd (received : List LinkChar)
  | headTransactionEnd (received : List LinkChar)
  | roundTimerExpiry
  | strokeTimerExpiry
  | probeTimerExpiry
  | scannerRequest
  | headMapNewlyInForce
  | headMapWithdrawn
  | runStatusAtHlc
  | modeHandoffAtHlc
  | clearFaultJunction
  | clearFaultHead
  -- geometry (06)
  | strokeHeadStateChange (side : Side)
  | strokePollHandoff (side : Side)
  | headTableRebuildAtGeu
  | geometryPageHandoff
  | liveStrokeHandoff
  -- levelling (07)
  | roundMemberDelivery
  | sideModeHandoff (side : Side)
  | pulseEnd (side : Side)
  | headTableRebuildAtLvc
  | headStateChangeAtLvc
  | capture
  | jog
  -- heating (08); temperatures in 0.1 °C, currents in ‰ of the zone's rated current
  | zoneSample (zone : Fin 24) (temperature : Int) (current : Nat)
  | confirmTimerExpiry (zone : Fin 24) (current : Nat)
  | maxOnExpiry (zone : Fin 24)
  | arbiterTimerExpiry
  | reportAgeExpiry
  | generatorReport
  | generatorAbsence
  | budgetSettingHandoff
  | heatingLevelHandoff
  | geometryAtHtc
  | zoneMapNewlyInForce
  | zoneMapWithdrawn
  | runStatusAtHtc
  | setZone
  | clearFaultZone
  -- feed (09); a sample in ‰ of the sensor's supply
  | feedModeHandoff (channel : Fin 4)
  | machineStateAtFdc
  | sensePeriodExpiry (channel : Fin 4)
  | onTimeEnd (channel : Fin 4) (sample : Nat)
  | graceExpiry (channel : Fin 4)
  | stallExpiry (channel : Fin 4)
  | speedPulse (channel : Fin 4)
  | speedHandoff
  | geometryAtFdc
  | clearFaultChannel
  -- records (10)
  | pauseStartAtMru
  | pauseEndAtMru
  | recordsModeHandoff
  | chainageAdvanceAtMru
  | travelStatusAtMru
  | fallbackTimerExpiry
  | consoleMarkAtMru
  | geometryAtMru
  | scannerResult
  | scannerStateAtMru
  | exposureTimerExpiry
  | referenceTimerExpiry
  | cycleTimerExpiry
  | sweepExpiryAtMru
  | runStatusAtMru
  | pageSearchReadDone (host : HostWrites)
  | entryWriteDone
  | pageCloseDone
  | mark
  | flushRecords
  | withdraw
  deriving DecidableEq, Repr

/-- The host's writes to the region that a command brings with it: read completions alone bring any. -/
def Instr.hostWrites : Instr → HostWrites
  | .layoutReadDone h | .startupSlotReadDone h | .noteReadIndexDone h | .slotReadDone h
  | .imageReadDone h | .pageSearchReadDone h => h
  | _ => []

end Sys2Proof
end

