-- ==== Sys2Proof/Decode.lean ====
section
/-! DEFINITION. Table words: no row of spec/opcode_table.json gives bits, so no word spells a command. -/
namespace Sys2Proof

/-- The command that a word of `nbits` bits spells by the table's bits. Every row's field list is empty and none has a
match or mask, so there is none. -/
def decodeTableWord (_nbits _w : Nat) : Option Instr := none

end Sys2Proof
end

