-- ==== Sys2Proof/Config.lean ====
section
/-! DEFINITION. What an implementation fixes, and the free values: constants with no body, which nothing can evaluate. -/
namespace Sys2Proof

/-- The machine bus rates the BUS_RATE strap pin chooses between (00 port summary, 04). -/
inductive BusRate
  | kbit250
  | kbit500
  deriving DecidableEq, Repr, Inhabited

/-- The level of the BUS_RATE strap pin, fixed by the board (R62). No command depends on it: a wrong strap shows
as bus errors, which are commands. -/
opaque Config.busRate : BusRate

/-- FREE VALUE (log 13). What a signed 32-bit field holds when the value a rule computes for it lies outside
−2^31..2^31−1: the spec states no result there. -/
opaque Config.unstated32 : Int → Word

end Sys2Proof
end

