-- ==== Sys2Proof/Machine/Settings.lean ====
section
/-! DEFINITION. The setting table of R44: names, limits, reset values, apply classes and soft bands. -/
namespace Sys2Proof.Machine

/-- The apply class of a setting (R43, R45). -/
inductive ApplyClass
  | atOnce
  | atPave
  | standbyOnly
  deriving DecidableEq, Repr

/-- The fixed part of an entry of the setting table (R43). -/
structure SettingSpec where
  low        : Int
  high       : Int
  resetValue : Int
  applyClass : ApplyClass
  softBand   : Option (Int × Int)
  deriving DecidableEq, Repr

/-- A setting's index, 0..46, the subject by which orders name it (R43). -/
abbrev SettingId := Fin 47

/-- GRADE_SET_L, index 0 (R44). -/
abbrev Setting.gradeSetL : SettingId := 0
/-- GRADE_SET_R, index 1 (R44). -/
abbrev Setting.gradeSetR : SettingId := 1
/-- SLOPE_SET, index 2 (R44). -/
abbrev Setting.slopeSet : SettingId := 2
/-- GRADE_DEADBAND, index 3 (R44). -/
abbrev Setting.gradeDeadband : SettingId := 3
/-- SLOPE_DEADBAND, index 4 (R44). -/
abbrev Setting.slopeDeadband : SettingId := 4
/-- GRADE_GAIN, index 5 (R44). -/
abbrev Setting.gradeGain : SettingId := 5
/-- SLOPE_GAIN, index 6 (R44). -/
abbrev Setting.slopeGain : SettingId := 6
/-- PULSE_MIN, index 7 (R44). -/
abbrev Setting.pulseMin : SettingId := 7
/-- PULSE_MAX, index 8 (R44). -/
abbrev Setting.pulseMax : SettingId := 8
/-- REVERSAL_GAP, index 9 (R44). -/
abbrev Setting.reversalGap : SettingId := 9
/-- ROUND_PERIOD, index 10 (R44). -/
abbrev Setting.roundPeriod : SettingId := 10
/-- MIN_HEADS, index 11 (R44). -/
abbrev Setting.minHeads : SettingId := 11
/-- ZONE_SET_MAIN, index 12 (R44). -/
abbrev Setting.zoneSetMain : SettingId := 12
/-- ZONE_SET_EXT, index 13 (R44). -/
abbrev Setting.zoneSetExt : SettingId := 13
/-- HYSTERESIS, index 14 (R44). -/
abbrev Setting.hysteresis : SettingId := 14
/-- HOLD_OFFSET, index 15 (R44). -/
abbrev Setting.holdOffset : SettingId := 15
/-- BUDGET_HOST, index 16 (R44). -/
abbrev Setting.budgetHost : SettingId := 16
/-- FALLBACK_PERCENT, index 17 (R44). -/
abbrev Setting.fallbackPercent : SettingId := 17
/-- MAX_ON, index 18 (R44). -/
abbrev Setting.maxOn : SettingId := 18
/-- CONFIRM_TIME, index 19 (R44). -/
abbrev Setting.confirmTime : SettingId := 19
/-- GEN_TIMEOUT, index 20 (R44). -/
abbrev Setting.genTimeout : SettingId := 20
/-- LEVEL_SET_C0, index 21 (R44). -/
abbrev Setting.levelSetC0 : SettingId := 21
/-- LEVEL_SET_C1, index 22 (R44). -/
abbrev Setting.levelSetC1 : SettingId := 22
/-- LEVEL_SET_C2, index 23 (R44). -/
abbrev Setting.levelSetC2 : SettingId := 23
/-- LEVEL_SET_C3, index 24 (R44). -/
abbrev Setting.levelSetC3 : SettingId := 24
/-- FEED_BASE, index 25 (R44). -/
abbrev Setting.feedBase : SettingId := 25
/-- LEVEL_GAIN, index 26 (R44). -/
abbrev Setting.levelGain : SettingId := 26
/-- FLOW_FACTOR, index 27 (R44). -/
abbrev Setting.flowFactor : SettingId := 27
/-- STALL_TIME, index 28 (R44). -/
abbrev Setting.stallTime : SettingId := 28
/-- SENSE_ON, index 29 (R44). -/
abbrev Setting.senseOn : SettingId := 29
/-- SENSOR_GRACE, index 30 (R44). -/
abbrev Setting.sensorGrace : SettingId := 30
/-- LINE_SPACING, index 31 (R44). -/
abbrev Setting.lineSpacing : SettingId := 31
/-- COLD_LIMIT, index 32 (R44). -/
abbrev Setting.coldLimit : SettingId := 32
/-- SPREAD_LIMIT, index 33 (R44). -/
abbrev Setting.spreadLimit : SettingId := 33
/-- RUN_COUNT, index 34 (R44). -/
abbrev Setting.runCount : SettingId := 34
/-- FALLBACK_INTERVAL, index 35 (R44). -/
abbrev Setting.fallbackInterval : SettingId := 35
/-- REFERENCE_INTERVAL, index 36 (R44). -/
abbrev Setting.referenceInterval : SettingId := 36
/-- PAUSE_DELAY, index 37 (R44). -/
abbrev Setting.pauseDelay : SettingId := 37
/-- TRAVEL_TIMEOUT, index 38 (R44). -/
abbrev Setting.travelTimeout : SettingId := 38
/-- MAX_STEP, index 39 (R44). -/
abbrev Setting.maxStep : SettingId := 39
/-- LIVE_STROKE, index 40 (R44). -/
abbrev Setting.liveStroke : SettingId := 40
/-- GEOMETRY_STEP, index 41 (R44). -/
abbrev Setting.geometryStep : SettingId := 41
/-- SWEEP_PERIOD, index 42 (R44). -/
abbrev Setting.sweepPeriod : SettingId := 42
/-- LINK_CHECKED, index 43 (R44). -/
abbrev Setting.linkChecked : SettingId := 43
/-- SONIC_WINDOW, index 44 (R44). -/
abbrev Setting.sonicWindow : SettingId := 44
/-- JAM_DEMAND, index 45 (R44). -/
abbrev Setting.jamDemand : SettingId := 45
/-- PROBE_INTERVAL, index 46 (R44). -/
abbrev Setting.probeInterval : SettingId := 46

/-- R44, entries 0 to 11: low, high, reset, class, soft band. -/
def settingRows0 : List SettingSpec :=
  [ ⟨-2000, 2000, 0, .atOnce, some (-500, 500)⟩  -- GRADE_SET_L
  , ⟨-2000, 2000, 0, .atOnce, some (-500, 500)⟩  -- GRADE_SET_R
  , ⟨-1000, 1000, 0, .atOnce, some (-400, 400)⟩  -- SLOPE_SET
  , ⟨5, 100, 20, .atOnce, none⟩  -- GRADE_DEADBAND
  , ⟨2, 50, 5, .atOnce, none⟩  -- SLOPE_DEADBAND
  , ⟨1, 50, 4, .atOnce, none⟩  -- GRADE_GAIN
  , ⟨1, 50, 4, .atOnce, none⟩  -- SLOPE_GAIN
  , ⟨10, 100, 30, .atOnce, none⟩  -- PULSE_MIN
  , ⟨50, 500, 250, .atOnce, none⟩  -- PULSE_MAX
  , ⟨20, 200, 60, .atOnce, none⟩  -- REVERSAL_GAP
  , ⟨20, 200, 50, .atPave, none⟩  -- ROUND_PERIOD
  , ⟨1, 5, 2, .atOnce, none⟩  -- MIN_HEADS
  ]

/-- R44, entries 12 to 23: low, high, reset, class, soft band. -/
def settingRows1 : List SettingSpec :=
  [ ⟨800, 1800, 1300, .atOnce, some (1100, 1600)⟩  -- ZONE_SET_MAIN
  , ⟨800, 1800, 1300, .atOnce, some (1100, 1600)⟩  -- ZONE_SET_EXT
  , ⟨20, 200, 50, .atOnce, none⟩  -- HYSTERESIS
  , ⟨0, 600, 300, .atOnce, none⟩  -- HOLD_OFFSET
  , ⟨0, 800, 0, .atOnce, none⟩  -- BUDGET_HOST
  , ⟨0, 100, 50, .atOnce, none⟩  -- FALLBACK_PERCENT
  , ⟨5000, 60000, 20000, .atOnce, none⟩  -- MAX_ON
  , ⟨100, 1000, 300, .standbyOnly, none⟩  -- CONFIRM_TIME
  , ⟨200, 5000, 1000, .atOnce, none⟩  -- GEN_TIMEOUT
  , ⟨100, 900, 500, .atOnce, some (300, 800)⟩  -- LEVEL_SET_C0
  , ⟨100, 900, 500, .atOnce, some (300, 800)⟩  -- LEVEL_SET_C1
  , ⟨100, 900, 500, .atOnce, some (300, 800)⟩  -- LEVEL_SET_C2
  ]

/-- R44, entries 24 to 35: low, high, reset, class, soft band. -/
def settingRows2 : List SettingSpec :=
  [ ⟨100, 900, 500, .atOnce, some (300, 800)⟩  -- LEVEL_SET_C3
  , ⟨0, 500, 300, .atOnce, none⟩  -- FEED_BASE
  , ⟨1, 100, 20, .atOnce, none⟩  -- LEVEL_GAIN
  , ⟨0, 1000, 150, .atPave, none⟩  -- FLOW_FACTOR
  , ⟨500, 5000, 2000, .atOnce, none⟩  -- STALL_TIME
  , ⟨1, 20, 5, .atOnce, none⟩  -- SENSE_ON
  , ⟨1000, 10000, 3000, .atOnce, none⟩  -- SENSOR_GRACE
  , ⟨100, 1000, 250, .atPave, none⟩  -- LINE_SPACING
  , ⟨500, 1600, 1200, .atOnce, none⟩  -- COLD_LIMIT
  , ⟨50, 500, 250, .atOnce, none⟩  -- SPREAD_LIMIT
  , ⟨2, 50, 8, .atOnce, none⟩  -- RUN_COUNT
  , ⟨500, 5000, 1000, .atOnce, none⟩  -- FALLBACK_INTERVAL
  ]

/-- R44, entries 36 to 46: low, high, reset, class, soft band. -/
def settingRows3 : List SettingSpec :=
  [ ⟨60, 600, 300, .standbyOnly, none⟩  -- REFERENCE_INTERVAL
  , ⟨1000, 30000, 3000, .atOnce, none⟩  -- PAUSE_DELAY
  , ⟨100, 2000, 300, .atOnce, none⟩  -- TRAVEL_TIMEOUT
  , ⟨100, 2000, 1000, .atOnce, none⟩  -- MAX_STEP
  , ⟨50, 500, 200, .atPave, none⟩  -- LIVE_STROKE
  , ⟨10, 200, 50, .atOnce, none⟩  -- GEOMETRY_STEP
  , ⟨5, 100, 20, .atOnce, none⟩  -- SWEEP_PERIOD
  , ⟨0, 1, 1, .standbyOnly, none⟩  -- LINK_CHECKED
  , ⟨10, 2000, 300, .atOnce, none⟩  -- SONIC_WINDOW
  , ⟨100, 500, 200, .atOnce, none⟩  -- JAM_DEMAND
  , ⟨200, 5000, 1000, .atOnce, none⟩  -- PROBE_INTERVAL
  ]

/-- The setting table of R44, in index order. -/
def settingTable : List SettingSpec := settingRows0 ++ settingRows1 ++ settingRows2 ++ settingRows3

/-- The fixed part of a setting. -/
def settingSpec (i : SettingId) : SettingSpec := settingTable.getD i.val ⟨0, 0, 0, .atOnce, none⟩

end Sys2Proof.Machine
end

