-- ==== Sys2Proof/Machine/State.lean ====
section
/-! DEFINITION. The state of the part: what each block owns (00 "Blocks"), the shared region, the hand-offs on their way,
the queue of commands, and the state after reset. -/
namespace Sys2Proof.Machine

/-! ## Names -/

/-- R1: the six machine states. -/
inductive MachineState
  | standby | heatup | pave | pause | transit | safe
  deriving DecidableEq, Repr

/-- R1: why the machine is in PAUSE. -/
inductive PauseCause
  | auto | order
  deriving DecidableEq, Repr

/-- R167: the run status. -/
inductive RunStatus
  | stopped | starting | running | stopping
  deriving DecidableEq, Repr

/-- R59: the travel status. -/
inductive TravelStatus
  | none | live | silent | lost
  deriving DecidableEq, Repr

/-- R59: the bus state. -/
inductive BusState
  | idle | listening | unreliable
  deriving DecidableEq, Repr

/-- R15, R18: a side's requested mode (HOLD is never requested) and effective mode. -/
inductive SideMode
  | off | manual | auto | hold
  deriving DecidableEq, Repr

/-- R16, R20: a feed channel's requested and effective mode. -/
inductive FeedMode
  | off | manual | autoLevel | autoFlow
  deriving DecidableEq, Repr

/-- R19: the effective heating level. -/
inductive HeatLevel
  | off | hold | full
  deriving DecidableEq, Repr

/-- R21: the effective records mode. -/
inductive RecordsMode
  | off | run | stopmark
  deriving DecidableEq, Repr

/-- R25: the board status. -/
inductive BoardStatus
  | running | held
  deriving DecidableEq, Repr

/-- R25: what the Board Reader is doing. -/
inductive Activity
  | idle | reading | executing
  deriving DecidableEq, Repr

/-- R23: the state of an order slot. -/
inductive SlotState
  | free | posted | taken | staged | done | refused | skipped | withdrawn
  deriving DecidableEq, Repr

/-- R30: the order kinds. -/
inductive OrderKind
  | setValue | adjustValue | swapValue | readValue | loadPage | patchPage | confirmPage | setState | clearSafe | setSide
  | capture | jog | setZone | setFeed | clearFault | setChainage | rearmBus | mark | flushRecords | withdraw
  deriving DecidableEq, Repr

/-- The reasons of 02 "Reasons". -/
inductive Reason
  | none | check | abandoned | stopped | badKind | badSubject | range | wrongState | pageInvalid | pageContent
  | stageFull | duplicateStage | duplicateStamp | notStaged | chain | haltActive | slopeTaken | queueFull
  | stagedPending | notFaulted
  deriving DecidableEq, Repr

/-- R52: the four configuration pages. -/
inductive PageKind
  | zoneMap | headMap | filter | geometry
  deriving DecidableEq, Repr

/-- The note kinds of 12.4. -/
inductive NoteKind
  | zoneFault | zoneShed | budgetLow | headSuspect | headDropped | headReadmitted | headMismatch | junctionDown
  | junctionRestored | busUnreliable | travelSilent | travelRestored | badStep | stateChanged | sideHold | sideRestored
  | feedJam | sensorLost | sensorRestored | thermalRun | referenceForced | recordLoss | halt
  deriving DecidableEq, Repr

/-- R171: the six attention causes. -/
inductive Cause
  | outcome | page | note | held | safe | layout
  deriving DecidableEq, Repr

/-- R87: the state of a head; ABSENT is `none` of an Option. -/
inductive HeadState
  | active | suspect | dropped | mismatch | unconfirmed
  deriving DecidableEq, Repr

/-- R87: the kind of a head. -/
inductive HeadKind
  | sonic | slope | stroke | scanner
  deriving DecidableEq, Repr

/-- R87: what a head's last reading was. -/
inductive ReadingStatus
  | none | valid | invalid
  deriving DecidableEq, Repr

/-- R78: the three junctions. -/
inductive JunctionId
  | left | right | centre
  deriving DecidableEq, Repr

/-- R81: the state of a junction. -/
inductive JunctionState
  | unknown | ready | latched | resync | down
  deriving DecidableEq, Repr

/-- R80: the mode of a junction. -/
inductive LinkMode
  | plain | checked
  deriving DecidableEq, Repr

/-- R79: the outcome of a head link transaction. -/
inductive TxOutcome
  | good | timeout | charError | modeMismatch | nakLatched | nakEmpty
  deriving DecidableEq, Repr

/-- R78: the head registers and junction commands. -/
inductive LinkCommand
  | reading | status | trigger | line | reference | clear | setMode | jstatus
  deriving DecidableEq, Repr

/-- R96: the six screed sections. -/
inductive Section
  | mainL | mainR | extL | extR | boltL | boltR
  deriving DecidableEq, Repr

/-- R96: whether the width can be trusted. -/
inductive WidthStatus
  | good | stale
  deriving DecidableEq, Repr

/-- R105: what a side is referenced to. -/
inductive ReferenceKind
  | grade | slope
  deriving DecidableEq, Repr

/-- R105: whether a side is referenced. -/
inductive ReferenceStatus
  | ok | lost
  deriving DecidableEq, Repr

/-- R105: the state of a side's valve. -/
inductive ValveState
  | idle | pulsingUp | pulsingDown | reversalGap
  deriving DecidableEq, Repr

/-- The two directions of a valve pulse (R118). -/
inductive Direction
  | up | down
  deriving DecidableEq, Repr

/-- R123: the state of a heating zone. -/
inductive ZoneState
  | disabled | locked | idle | waiting | closing | on | fault
  deriving DecidableEq, Repr

/-- R123: the kind of a zone's fault. -/
inductive ZoneFault
  | openElement | overcurrent | welded | sensor
  deriving DecidableEq, Repr

/-- R142: the run state of a feed channel. -/
inductive FeedState
  | idle | running | holding | sensorLost | jammed
  deriving DecidableEq, Repr

/-- R155: why lines are missing from the record. -/
inductive GapReason
  | queue | busy | spacing | reference | scanner
  deriving DecidableEq, Repr

/-- R158: the phase of a line in flight. -/
inductive LinePhase
  | triggerWait | exposing | lineWait
  deriving DecidableEq, Repr

/-- R165: the phase of the reference cycle. -/
inductive ReferencePhase
  | idle | pending | wait | busy
  deriving DecidableEq, Repr

/-- R162: why a record page was closed. -/
inductive ClosedBy
  | full | flush | state | stop
  deriving DecidableEq, Repr

/-- The six registers (00, 12.1). -/
inductive RegisterName
  | ident | regionBase | control | sweep | attention | attentionEnable
  deriving DecidableEq, Repr

/-- The blocks that follow the run status (R168 step list; SPS has nothing to do at a change). -/
inductive Follower
  | msc | bdr | trm | hlc | htc | mru
  deriving DecidableEq, Repr

/-! ## Shared shapes -/

/-- A timer: stopped, or running with the run time of its expiry (R1, R25, R59). -/
abbrev Timer := Option Word

/-- Two values, one per side. -/
structure PerSide (α : Type) where
  left  : α
  right : α
  deriving DecidableEq, Repr

/-- The value of a side. -/
def PerSide.get {α : Type} (p : PerSide α) : Side → α
  | .left => p.left
  | .right => p.right

/-- The pair with one side's value replaced. -/
def PerSide.set {α : Type} (p : PerSide α) (side : Side) (v : α) : PerSide α :=
  match side with
  | .left => { p with left := v }
  | .right => { p with right := v }

/-- The shared region and all memory the port can reach: bytes by address, in canonical form (log 6). -/
abbrev Memory := List Host.Cell

/-- R24: whose write the memory port carries: the Board Reader's, a note, the summary block, or a record page's. Each has at
most one with a completion event at a time. -/
inductive PortUser
  | board | note | summary | page
  deriving DecidableEq, Repr

/-- R24: a write issued and not yet visible: (address, bytes), the pieces in the order in which they become visible. -/
structure PortWrite where
  user   : PortUser
  pieces : List (Nat × List Byte)
  deriving DecidableEq, Repr

/-! ## Region Interface (11) -/

/-- R168: where the host has put the other areas, and how large they are. -/
structure Layout where
  boardOffset : Nat
  slotCount   : Nat
  pageCount   : Nat
  ringOffset  : Nat
  stripOffset : Nat
  deriving DecidableEq, Repr

/-- R172: a queued note request with the run time and chainage RIF attached. -/
structure NoteRequest where
  kind     : NoteKind
  subject  : Byte
  value    : Word
  runTime  : Word
  chainage : Word
  deriving DecidableEq, Repr

/-- R172: what the memory port is doing for the head note request. -/
inductive NoteOp
  | none | readIndex | write
  deriving DecidableEq, Repr

/-- R167: the interface record. -/
structure Rif where
  regionBase      : Word
  runStatus       : RunStatus
  layout          : Option Layout
  runTime         : Word
  noteWriteIndex  : Word
  readIndexSeen   : Word
  noteQueue       : List NoteRequest
  noteOp          : NoteOp
  outcomesWritten : Word
  pagesHanded     : Word
  notesLost       : Word
  boardQuiet      : Bool
  recordsQuiet    : Bool
  rewriteSequence : Word
  summaryWrite    : Option (List Byte)
  rewritePending  : Bool
  layoutRead      : Bool
  attention       : BitVec 6
  attentionEnable : BitVec 6
  deriving DecidableEq, Repr

/-! ## Board Reader (02) -/

/-- R33: the copy of an order: its slot, stamp, take index, station, kind byte, flags, subject and operands. -/
structure Order where
  slot           : Nat
  takeIndex      : Word
  stamp          : Half
  kind           : Byte
  strict         : Bool
  chained        : Bool
  stationPresent : Bool
  subject        : Byte
  operandA       : Word
  operandB       : Word
  station        : Word
  deriving DecidableEq, Repr

/-- R23: the four indicators of an outcome. -/
structure Indicators where
  limit   : Bool
  soft    : Bool
  late    : Bool
  pending : Bool
  deriving DecidableEq, Repr

/-- R23: the outcome fields of a slot, with the outcome's state. -/
structure SlotOutcome where
  state          : SlotState
  result         : Word
  indicators     : Indicators
  reason         : Reason
  finishChainage : Word
  finishRunTime  : Word
  deriving DecidableEq, Repr

/-- Where the order in execution stands: with its owner, in flight there (R39), or its outcome being written. -/
inductive ExecPhase
  | atOwner | inFlight | writing
  deriving DecidableEq, Repr

/-- R25: the order in execution. -/
structure Execution where
  order      : Order
  indicators : Indicators
  phase      : ExecPhase
  deriving DecidableEq, Repr

/-- R37: one entry of the outcome history. -/
structure HistoryEntry where
  takeIndex : Word
  state     : SlotState
  deriving DecidableEq, Repr

/-- The Board Reader's operation of the memory port in flight (R25, R27, R28, R33, R38, R40, R41, R42). -/
inductive BoardOp
  | none
  | slotRead (slot : Nat)
  | checkWrite (slot : Nat) (outcome : SlotOutcome)
  | stagedWrite (slot : Nat)
  | outcomeWrite (outcome : SlotOutcome)
  | withdrawnWrite (order : Order) (outcome : SlotOutcome)
  | stopWrite (order : Order) (outcome : SlotOutcome)
  | startupRead (slot : Nat)
  | startupWrite (slot : Nat) (outcome : SlotOutcome)
  deriving DecidableEq, Repr

/-- R25: the Board Reader record. -/
structure Bdr where
  cursor          : Nat
  status          : BoardStatus
  activity        : Activity
  sweepContinuing : Bool
  pendingSweep    : Bool
  nextTake        : Word
  execution       : Option Execution
  staging         : List Order
  history         : List HistoryEntry
  chainageSeen    : Word
  sweepTimer      : Timer
  runSeen         : RunStatus
  op              : BoardOp
  startupWrote    : Bool
  deriving DecidableEq, Repr

/-! ## Setting and Page Store (03) -/

/-- R43: the changing part of a setting. -/
structure SettingEntry where
  value   : Int
  pending : Option Int
  deriving DecidableEq, Repr

/-- R52: a page, in its image form without the closing CRC, and its VALID mark. -/
structure Page where
  bytes : List Byte
  valid : Bool
  deriving DecidableEq, Repr

/-- R52: the LOAD_PAGE whose image read is in flight. -/
structure LoadRecord where
  kind   : PageKind
  offset : Nat
  slot   : Nat
  deriving DecidableEq, Repr

/-- R43, R52: the setting and page store. -/
structure Sps where
  entries  : Vector SettingEntry 47
  zoneMap  : Page
  headMap  : Page
  filter   : Page
  geometry : Page
  load     : Option LoadRecord
  deriving DecidableEq, Repr

/-! ## Machine State Controller (01) -/

/-- R1, R15 to R21: the machine state record, and the modes of every job. -/
structure Msc where
  state         : MachineState
  pauseCause    : Option PauseCause
  haltSeen      : HaltLevel
  autoPause     : Timer
  travelSeen    : TravelStatus
  runSeen       : RunStatus
  sideRequested : PerSide SideMode
  sideEffective : PerSide SideMode
  feedRequested : Vector FeedMode 4
  feedEffective : Vector FeedMode 4
  heating       : HeatLevel
  records       : RecordsMode
  deriving DecidableEq, Repr

/-! ## Travel Monitor (04) -/

/-- R65, R66: one filter of the FILTER page; length absent is ANY, data mask absent is none. -/
structure Filter where
  enabled    : Bool
  identifier : Word
  mask       : Word
  extended   : Bool
  length     : Option Nat
  dataMask   : Option (List Byte)
  purpose    : Nat
  deriving DecidableEq, Repr

/-- R59, R72: the travel timer with the period it runs for. -/
structure TravelTimer where
  expiry : Word
  period : Nat
  deriving DecidableEq, Repr

/-- R59: a generator report, in 0.1 kW, with its arrival run time. -/
structure PowerReport where
  power   : Nat
  arrival : Word
  deriving DecidableEq, Repr

/-- R59: the travel monitor record. -/
structure Trm where
  busState        : BusState
  errorCounter    : Nat
  filterUse       : Option (List Filter)
  travel          : TravelStatus
  outageStart     : Option Word
  travelTimer     : Option TravelTimer
  lastCount       : Option Half
  badStepReported : Bool
  chainage        : Word
  speed           : Half
  machineSeen     : MachineState
  runSeen         : RunStatus
  generator       : Option PowerReport
  deriving DecidableEq, Repr

/-! ## Head Link Controller (05) -/

/-- R81: the housekeeping sequences. -/
inductive SequenceKind
  | recover | sync
  deriving DecidableEq, Repr

/-- R81: the steps of a sequence. -/
inductive SequenceStep
  | setMode | clear | jstatus
  deriving DecidableEq, Repr

/-- R81: a sequence in progress with its next step. -/
structure LinkSequence where
  kind : SequenceKind
  step : SequenceStep
  deriving DecidableEq, Repr

/-- R81: a junction record; mode seen absent is NOT_KNOWN. -/
structure Junction where
  state     : JunctionState
  failures  : Nat
  modeSeen  : Option LinkMode
  sequence  : Option LinkSequence
  downSince : Option Word
  deriving DecidableEq, Repr

/-- R87: a head record; side absent is NONE. -/
structure Head where
  junction      : JunctionId
  port          : Nat
  kind          : HeadKind
  side          : Option Side
  position      : Nat
  state         : HeadState
  counter       : Nat
  lastReading   : Half
  readingStatus : ReadingStatus
  deriving DecidableEq, Repr

/-- R95: what MRU asks of the scanner. -/
inductive ScannerAsk
  | trigger | line | reference
  deriving DecidableEq, Repr

/-- R92: the waiting requests of the five classes. A junction probe stands in class 1 (R86) or class 5 (R85);
`scannerStatus` is the STATUS read queued ahead of a scanner request (R95). -/
inductive LinkRequest
  | step (junction : JunctionId)
  | orderedProbe (junction : JunctionId)
  | member (head : Nat)
  | stroke (head : Nat)
  | scannerStatus (head : Nat)
  | scanner (head : Nat) (ask : ScannerAsk)
  | junctionProbe (junction : JunctionId)
  | headProbe (head : Nat)
  deriving DecidableEq, Repr

/-- R78: a transaction on the line: the request it serves, the round it belongs to, where it is addressed, its command,
the data the part sends, and the mode the part expects at its SELECT (R81, absent when NOT_KNOWN); `stale` when the head
table has been rebuilt since it was issued (log 17). -/
structure Transaction where
  request  : LinkRequest
  round    : Nat
  junction : JunctionId
  port     : Nat
  command  : LinkCommand
  payload  : List Byte
  expected : Option LinkMode
  stale    : Bool
  deriving DecidableEq, Repr

/-- R77, R92: the line is free, waits out the quiet interval before a chosen request, or carries a transaction. -/
inductive Line
  | free
  | quiet (request : LinkRequest)
  | busy (transaction : Transaction)
  deriving DecidableEq, Repr

/-- The three junction records. -/
structure Junctions where
  left   : Junction
  right  : Junction
  centre : Junction
  deriving DecidableEq, Repr

/-- R81, R87, R92, R93: the head link controller. -/
structure Hlc where
  junctions       : Junctions
  heads           : List Head
  mapInForce      : Bool
  runSeen         : RunStatus
  housekeeping    : List LinkRequest
  members         : List Nat
  strokes         : List Nat
  scanner         : List LinkRequest
  probes          : List LinkRequest
  line            : Line
  roundTimer      : Timer
  strokeTimer     : Timer
  probeTimer      : Timer
  roundNumber     : Nat
  roundInProgress : Bool
  sideModes       : PerSide SideMode
  recordsMode     : RecordsMode
  deriving DecidableEq, Repr

/-! ## Geometry Unit (06) -/

/-- R101: the live zone set. -/
structure LiveSet where
  mainL : Bool
  mainR : Bool
  extL  : Bool
  extR  : Bool
  boltL : Bool
  boltR : Bool
  deriving DecidableEq, Repr

/-- R103: what GEU hands its consumers. -/
structure GeometryRecord where
  halfLeft    : Nat
  halfRight   : Nat
  live        : LiveSet
  windowFirst : Nat
  windowCount : Nat
  width       : WidthStatus
  sequence    : Word
  deriving DecidableEq, Repr

/-- R96: the geometry record. -/
structure Geu where
  stroke   : PerSide Nat
  bolt     : PerSide Nat
  geometry : GeometryRecord
  headSeen : PerSide (Option HeadState)
  deriving DecidableEq, Repr

/-! ## Levelling Controller (07) -/

/-- R110: what a round brought for a member. -/
inductive DeliveryOutcome
  | reading (value : Half) (status : ReadingStatus)
  | failed
  | notPolled
  deriving DecidableEq, Repr

/-- R110: the delivery of a round member, with the head's state after the charge. -/
structure Delivery where
  round   : Nat
  head    : Nat
  outcome : DeliveryOutcome
  state   : HeadState
  deriving DecidableEq, Repr

/-- R110: the deliveries a side has received for a round. -/
structure Collection where
  round      : Nat
  deliveries : List Delivery
  deriving DecidableEq, Repr

/-- R118: a pulse. -/
structure Pulse where
  direction : Direction
  width     : Nat
  deriving DecidableEq, Repr

/-- R105: a side record. `roundBar` is R107's bar on old rounds. -/
structure SideRecord where
  kind        : ReferenceKind
  modeSeen    : SideMode
  zero        : Word
  rebase      : Word
  inUse       : List Nat
  lastAverage : Option Word
  status      : ReferenceStatus
  collections : List Collection
  valve       : ValveState
  pulseEnd    : Timer
  waiting     : Option Pulse
  roundBar    : Nat
  deriving DecidableEq, Repr

/-- R105: what LVC keeps of a head. -/
structure LvcHead where
  kind     : HeadKind
  side     : Option Side
  position : Nat
  state    : HeadState
  deriving DecidableEq, Repr

/-- R105: the levelling controller. -/
structure Lvc where
  sides        : PerSide SideRecord
  heads        : List LvcHead
  highestRound : Nat
  deriving DecidableEq, Repr

/-! ## Heating Controller (08) -/

/-- R123: a zone record. The contactor is CLOSED exactly in CLOSING and ON. -/
structure Zone where
  sect             : Section
  rating           : Nat
  temperatureInput : Nat
  currentInput     : Nat
  contactorOutput  : Nat
  state            : ZoneState
  faultKind        : Option ZoneFault
  temperature      : Option Int
  current          : Option Nat
  openSince        : Word
  grantTime        : Option Word
  onCount          : Nat
  confirmTimer     : Timer
  maxOnTimer       : Timer
  deriving DecidableEq, Repr

/-- R133: the generator report HTC holds. -/
structure HtcReport where
  power   : Nat
  arrival : Word
  fresh   : Bool
  deriving DecidableEq, Repr

/-- R123: the closing history: the closing clock times of the latest four closings, oldest first, and of each section's
latest closing, in section code order. -/
structure ClosingHistory where
  latest    : List Nat
  bySection : Vector (Option Nat) 6
  deriving DecidableEq, Repr

/-- R123: the heating controller. -/
structure Htc where
  zones      : List Zone
  enables    : Vector Bool 24
  waiting    : List Nat
  closings   : ClosingHistory
  clock      : Nat
  arbiter    : Option Nat
  levelSeen  : HeatLevel
  liveSeen   : LiveSet
  report     : Option HtcReport
  reportAge  : Timer
  budget     : Nat
  budgetLow  : Bool
  runSeen    : RunStatus
  deriving DecidableEq, Repr

/-! ## Feed Controller (09) -/

/-- R144: the sense timer's two phases; the on-time carries its own length. -/
inductive SenseTimer
  | stopped
  | period (expiry : Word)
  | onTime (expiry : Word) (length : Nat)
  deriving DecidableEq, Repr

/-- R142: a channel record with its level sensor record. -/
structure Channel where
  manual       : Nat
  modeSeen     : FeedMode
  run          : FeedState
  demand       : Nat
  speedCount   : Nat
  stallTimer   : Timer
  graceTimer   : Timer
  coupled      : Bool
  supplyClosed : Bool
  senseTimer   : SenseTimer
  lastSample   : Option Nat
  level        : Option Nat
  invalidCount : Nat
  validCount   : Nat
  deriving DecidableEq, Repr

/-- R142: the feed controller. -/
structure Fdc where
  channels    : Vector Channel 4
  machineSeen : MachineState
  speedSeen   : Nat
  halfLeft    : Nat
  halfRight   : Nat
  deriving DecidableEq, Repr

/-! ## Mat Record Unit (10) -/

/-- R158: what a trigger captures. -/
structure LineInFlight where
  chainage    : Word
  runTime     : Word
  windowFirst : Nat
  windowCount : Nat
  halfLeft    : Nat
  halfRight   : Nat
  sequence    : Word
  unplaced    : Bool
  stale       : Bool
  afterStop   : Bool
  phase       : LinePhase
  deriving DecidableEq, Repr

/-- R155, R159: a LINE entry. -/
structure LineEntry where
  line      : LineInFlight
  spread    : Bool
  cold      : Bool
  mean      : Int
  minIndex  : Nat
  maxIndex  : Nat
  coldCount : Nat
  points    : List Half
  deriving DecidableEq, Repr

/-- R161: a STOP entry; `ended` holds duration and cause once the pause has ended. -/
structure StopEntry where
  chainage : Word
  runTime  : Word
  ended    : Option (Word × PauseCause)
  deriving DecidableEq, Repr

/-- R155: where a mark came from. -/
inductive MarkSource
  | order (stamp : Half)
  | console
  deriving DecidableEq, Repr

/-- R155: a record entry. -/
inductive Entry
  | line (entry : LineEntry)
  | stop (entry : StopEntry)
  | mark (chainage runTime : Word) (code : Half) (source : MarkSource)
  | gap (chainage runTime : Word) (lost missed : Word) (reason : GapReason)
  deriving DecidableEq, Repr

/-- R160: a GAP that has not joined the queue. -/
structure PendingGap where
  lost   : Word
  missed : Word
  reason : GapReason
  deriving DecidableEq, Repr

/-- R164: what a records period leaves at its close mark when a later period begins before the writer has reached the mark:
its pending GAP, and the chainage seen and run time at its end (log 27, DEDUCED). -/
structure PeriodEnd where
  gap      : Option PendingGap
  chainage : Word
  runTime  : Word
  deriving DecidableEq, Repr

/-- The entry queue's items: entries, and the places of the line in flight (R160), of the pending stop (R161) and of close
marks (R164), which are no entries. The pending GAP is that of the period of a `closeMark`; a `closePast` is a close mark behind
which a later records period has begun, with what its own period left; a `closeDue` is one that the writer has reached and whose
GAP has joined. -/
inductive QueueItem
  | entry (entry : Entry)
  | linePlace
  | stopPlace
  | closeMark
  | closePast (left : PeriodEnd)
  | closeDue
  deriving DecidableEq, Repr

/-- R154: the open page; `area` holds the entry bytes written, so bytes used is its length (log 30). -/
structure OpenPage where
  ringIndex     : Nat
  pageSequence  : Word
  entryCount    : Nat
  area          : List Byte
  firstSequence : Word
  firstChainage : Word
  lastChainage  : Word
  deriving DecidableEq, Repr

/-- R162: MRU's operation of the memory port in flight. -/
inductive PageOp
  | none
  | search (ringIndex : Nat)
  | entryWrite (sequence : Word)
  | close (by_ : ClosedBy)
  deriving DecidableEq, Repr

/-- R154: the mat record unit. -/
structure Mru where
  recordsSeen     : RecordsMode
  chainageSeen    : Word
  travelSeen      : TravelStatus
  geometry        : GeometryRecord
  scannerSeen     : Option HeadState
  runSeen         : RunStatus
  nextTrigger     : Option Nat
  fallbackTimer   : Timer
  line            : Option LineInFlight
  exposureTimer   : Timer
  afterStop       : Bool
  thermalRun      : Nat
  thermalReported : Bool
  queue           : List QueueItem
  pendingGap      : Option PendingGap
  pendingStop     : Option StopEntry
  openPage        : Option OpenPage
  searchIndex     : Nat
  nextEntry       : Word
  nextPage        : Word
  lossReported    : Bool
  referenceTimer  : Timer
  postponeCount   : Nat
  referencePhase  : ReferencePhase
  cycleTimer      : Timer
  linesProduced   : Word
  linesWritten    : Word
  linesLost       : Word
  triggersMissed  : Word
  op              : PageOp
  flushing        : Bool
  deriving DecidableEq, Repr

/-! ## Hand-offs between blocks -/

/-- R53: a counted item of ZONE_MAP. -/
structure ZoneItem where
  sect             : Section
  rating           : Nat
  temperatureInput : Nat
  currentInput     : Nat
  contactorOutput  : Nat
  deriving DecidableEq, Repr

/-- R53: a counted item of HEAD_MAP. -/
structure HeadItem where
  junction : JunctionId
  port     : Nat
  kind     : HeadKind
  side     : Option Side
  position : Nat
  deriving DecidableEq, Repr

/-- R94: what a stroke poll brought. -/
inductive StrokeResult
  | reading (value : Half) (status : ReadingStatus)
  | failed
  deriving DecidableEq, Repr

/-- R91, R95: what HLC hands MRU of the scanner's transactions: the answer to a request, or the failure of a STATUS read,
which no request of MRU asked for. -/
inductive ScannerAnswer
  | completed (ask : ScannerAsk) (points : List Half)
  | failed
  | notIssued
  | statusFailed
  deriving DecidableEq, Repr

/-- A hand-off from one block to another, named for its receiver (00 "Blocks"; the rule of each is its taker's). -/
inductive Handoff
  | runStatus (follower : Follower) (status : RunStatus)
  | sweepExpiry
  | paveEntry
  | machineToTrm (state : MachineState)
  | machineToFdc (state : MachineState)
  | sideMode (side : Side) (mode : SideMode)
  | feedMode (channel : Fin 4) (mode : FeedMode)
  | heatingLevel (level : HeatLevel)
  | pauseStart (cause : PauseCause)
  | pauseEnd (cause : PauseCause) (mode : RecordsMode)
  | recordsMode (mode : RecordsMode)
  | sideModeToHlc (side : Side) (mode : SideMode)
  | recordsModeToHlc (mode : RecordsMode)
  | filterInForce (filters : List Filter)
  | filterWithdrawn
  | zoneMapInForce (items : List ZoneItem)
  | zoneMapWithdrawn
  | headMapInForce (items : List HeadItem)
  | headMapWithdrawn
  | geometryInForce (left right : Nat)
  | geometryWithdrawn
  | budgetSetting
  | liveStroke
  | chainageToBdr (chainage : Word)
  | advanceToMsc
  | advanceToMru (chainage : Word)
  | travelToMsc (status : TravelStatus)
  | travelToMru (status : TravelStatus)
  | speedToFdc (speed : Nat)
  | generatorReport (report : PowerReport)
  | generatorAbsence
  | consoleMark (code : Half) (runTime chainage : Word)
  | delivery (delivery : Delivery)
  | headStateToLvc (head : Nat) (state : HeadState)
  | headFailedToLvc (head : Nat) (state : HeadState)
  | rebuildToLvc (heads : List LvcHead)
  | strokeState (side : Side) (state : HeadState)
  | strokePoll (side : Side) (result : StrokeResult) (state : HeadState)
  | rebuildToGeu (left right : Option HeadState)
  | scannerAnswer (answer : ScannerAnswer) (state : Option HeadState)
  | scannerState (state : Option HeadState)
  | scannerRequest (ask : ScannerAsk)
  | geometryToHtc (geometry : GeometryRecord)
  | geometryToFdc (geometry : GeometryRecord)
  | geometryToMru (geometry : GeometryRecord)
  | referenceToMsc (side : Side)
  deriving DecidableEq, Repr

/-- A hand-off not yet taken. `afterPave` marks one made by a transition whose PAVE entry SPS takes first (R4, R5). -/
structure Waiting where
  afterPave : Bool
  handoff   : Handoff
  deriving DecidableEq, Repr

/-! ## The whole part -/

/-- The state of the part: the shared region, the memory port's writes not yet visible in the order of their issue (R24), the
eleven blocks, the hand-offs on their way and the commands waiting. -/
structure State where
  mem     : Memory
  port    : List PortWrite
  rif     : Rif
  bdr     : Bdr
  sps     : Sps
  msc     : Msc
  trm     : Trm
  hlc     : Hlc
  geu     : Geu
  lvc     : Lvc
  htc     : Htc
  fdc     : Fdc
  mru     : Mru
  inbox   : List Waiting
  pending : List Instr
  deriving DecidableEq, Repr

/-- Why a step would stop with a fault. The spec names no event that stops the part, so there is no reason: the type
is empty, no command raises one, and that is safe (it hides no effect). -/
inductive Fault
  deriving DecidableEq, Repr

/-- Why a command would have no meaning. -/
inductive Refusal
  /-- Raised by exec for a command whose meaning is not written yet; safe, since nothing can be proved of its effect.
  Every arm of exec has its meaning, so none raises it now. -/
  | notModelled (mnemonic : String)
  deriving DecidableEq, Repr

/-! ## Reset (R167 and the rule of each record) -/

/-- No indicator set. -/
def Indicators.clear : Indicators := ⟨false, false, false, false⟩

/-- R167: RIF after reset. -/
def Rif.reset : Rif where
  regionBase := 0
  runStatus := .stopped
  layout := none
  runTime := 0
  noteWriteIndex := 0
  readIndexSeen := 0
  noteQueue := []
  noteOp := .none
  outcomesWritten := 0
  pagesHanded := 0
  notesLost := 0
  boardQuiet := false
  recordsQuiet := false
  rewriteSequence := 0
  summaryWrite := none
  rewritePending := false
  layoutRead := false
  attention := 0
  attentionEnable := 0

/-- R25: BDR after reset. -/
def Bdr.reset : Bdr where
  cursor := 0
  status := .running
  activity := .idle
  sweepContinuing := false
  pendingSweep := false
  nextTake := 1
  execution := none
  staging := []
  history := []
  chainageSeen := 0
  sweepTimer := none
  runSeen := .stopped
  op := .none
  startupWrote := false

/-- R52: an empty page of a length: every byte 0, not VALID. -/
def Page.empty (length : Nat) : Page := ⟨List.replicate length 0, false⟩

/-- R43, R52: SPS after reset. The pages' lengths are those of 12.7 less the closing CRC. -/
def Sps.reset : Sps where
  entries := Vector.ofFn fun i => ⟨(settingSpec i).resetValue, none⟩
  zoneMap := .empty 196
  headMap := .empty 132
  filter := .empty 192
  geometry := .empty 4
  load := none

/-- R1, R15 to R21: MSC after reset. -/
def Msc.reset : Msc where
  state := .standby
  pauseCause := none
  haltSeen := .released
  autoPause := none
  travelSeen := .none
  runSeen := .stopped
  sideRequested := ⟨.off, .off⟩
  sideEffective := ⟨.off, .off⟩
  feedRequested := Vector.replicate 4 .off
  feedEffective := Vector.replicate 4 .off
  heating := .off
  records := .off

/-- R59: TRM after reset. -/
def Trm.reset : Trm where
  busState := .idle
  errorCounter := 0
  filterUse := none
  travel := .none
  outageStart := none
  travelTimer := none
  lastCount := none
  badStepReported := false
  chainage := 0
  speed := 0
  machineSeen := .standby
  runSeen := .stopped
  generator := none

/-- R81: a junction record after reset. -/
def Junction.reset : Junction := ⟨.unknown, 0, none, none, none⟩

/-- R81, R87, R92, R93: HLC after reset. -/
def Hlc.reset : Hlc where
  junctions := ⟨.reset, .reset, .reset⟩
  heads := []
  mapInForce := false
  runSeen := .stopped
  housekeeping := []
  members := []
  strokes := []
  scanner := []
  probes := []
  line := .free
  roundTimer := none
  strokeTimer := none
  probeTimer := none
  roundNumber := 0
  roundInProgress := false
  sideModes := ⟨.off, .off⟩
  recordsMode := .off

/-- R96: the live zone set after reset: MAIN_L and MAIN_R. -/
def LiveSet.main : LiveSet := ⟨true, true, false, false, false, false⟩

/-- R96: the geometry record after reset, as GEU and its consumers hold it. -/
def GeometryRecord.reset : GeometryRecord := ⟨1500, 1500, .main, 26, 12, .stale, 0⟩

/-- R96: GEU after reset. -/
def Geu.reset : Geu := ⟨⟨0, 0⟩, ⟨0, 0⟩, .reset, ⟨none, none⟩⟩

/-- R105: a side record after reset. -/
def SideRecord.reset : SideRecord where
  kind := .grade
  modeSeen := .off
  zero := 0
  rebase := 0
  inUse := []
  lastAverage := none
  status := .ok
  collections := []
  valve := .idle
  pulseEnd := none
  waiting := none
  roundBar := 0

/-- R105: LVC after reset. -/
def Lvc.reset : Lvc := ⟨⟨.reset, .reset⟩, [], 0⟩

/-- R123: HTC after reset. -/
def Htc.reset : Htc where
  zones := []
  enables := Vector.replicate 24 false
  waiting := []
  closings := ⟨[], Vector.replicate 6 none⟩
  clock := 0
  arbiter := none
  levelSeen := .off
  liveSeen := .main
  report := none
  reportAge := none
  budget := 0
  budgetLow := false
  runSeen := .stopped

/-- R142: a channel and its sensor after reset. -/
def Channel.reset : Channel where
  manual := 0
  modeSeen := .off
  run := .idle
  demand := 0
  speedCount := 0
  stallTimer := none
  graceTimer := none
  coupled := false
  supplyClosed := false
  senseTimer := .stopped
  lastSample := none
  level := none
  invalidCount := 0
  validCount := 0

/-- R142: FDC after reset. -/
def Fdc.reset : Fdc := ⟨Vector.replicate 4 .reset, .standby, 0, 1500, 1500⟩

/-- R154: MRU after reset. -/
def Mru.reset : Mru where
  recordsSeen := .off
  chainageSeen := 0
  travelSeen := .none
  geometry := .reset
  scannerSeen := none
  runSeen := .stopped
  nextTrigger := none
  fallbackTimer := none
  line := none
  exposureTimer := none
  afterStop := false
  thermalRun := 0
  thermalReported := false
  queue := []
  pendingGap := none
  pendingStop := none
  openPage := none
  searchIndex := 0
  nextEntry := 1
  nextPage := 1
  lossReported := false
  referenceTimer := none
  postponeCount := 0
  referencePhase := .idle
  cycleTimer := none
  linesProduced := 0
  linesWritten := 0
  linesLost := 0
  triggersMissed := 0
  op := .none
  flushing := false

/-- The part right after reset: every block's reset values, nothing listed in memory, no write issued, TRM's report of
chainage 0 on its way to BDR (R25, R59) and no command waiting. -/
def State.reset : State where
  mem := []
  port := []
  rif := .reset
  bdr := .reset
  sps := .reset
  msc := .reset
  trm := .reset
  hlc := .reset
  geu := .reset
  lvc := .reset
  htc := .reset
  fdc := .reset
  mru := .reset
  inbox := [⟨false, .chainageToBdr 0⟩]
  pending := []

end Sys2Proof.Machine
end

