-- ==== Sys2Proof/Machine/Codes.lean ====
section
/-! DEFINITION. The codes of 12_formats.md for every named thing the host or the head link sees. -/
namespace Sys2Proof.Machine

/-- 12.4 machine state. -/
def MachineState.code : MachineState → Nat
  | .standby => 0
  | .heatup => 1
  | .pave => 2
  | .pause => 3
  | .transit => 4
  | .safe => 5

/-- 12.4 machine state: the name a code stands for. -/
def MachineState.ofCode : Nat → Option MachineState
  | 0 => some .standby
  | 1 => some .heatup
  | 2 => some .pave
  | 3 => some .pause
  | 4 => some .transit
  | 5 => some .safe
  | _ => none

/-- 12.1 CONTROL bits 5 to 4. -/
def RunStatus.code : RunStatus → Nat
  | .stopped => 0
  | .starting => 1
  | .running => 2
  | .stopping => 3

/-- 12.4 travel status. -/
def TravelStatus.code : TravelStatus → Nat
  | .none => 0
  | .live => 1
  | .silent => 2
  | .lost => 3

/-- 12.4 bus state. -/
def BusState.code : BusState → Nat
  | .idle => 0
  | .listening => 1
  | .unreliable => 2

/-- 12.4 side mode. -/
def SideMode.code : SideMode → Nat
  | .off => 0
  | .manual => 1
  | .auto => 2
  | .hold => 3

/-- 12.4 feed mode. -/
def FeedMode.code : FeedMode → Nat
  | .off => 0
  | .manual => 1
  | .autoLevel => 2
  | .autoFlow => 3

/-- 12.4 heating level. -/
def HeatLevel.code : HeatLevel → Nat
  | .off => 0
  | .hold => 1
  | .full => 2

/-- 12.4 records mode. -/
def RecordsMode.code : RecordsMode → Nat
  | .off => 0
  | .run => 1
  | .stopmark => 2

/-- 12.2 board status. -/
def BoardStatus.code : BoardStatus → Nat
  | .running => 0
  | .held => 1

/-- 12.4 slot state. -/
def SlotState.code : SlotState → Nat
  | .free => 0
  | .posted => 1
  | .taken => 2
  | .staged => 3
  | .done => 4
  | .refused => 5
  | .skipped => 6
  | .withdrawn => 7

/-- 12.4 order kind. -/
def OrderKind.code : OrderKind → Nat
  | .setValue => 1
  | .adjustValue => 2
  | .swapValue => 3
  | .readValue => 4
  | .loadPage => 5
  | .patchPage => 6
  | .confirmPage => 7
  | .setState => 8
  | .clearSafe => 9
  | .setSide => 10
  | .capture => 11
  | .jog => 12
  | .setZone => 13
  | .setFeed => 14
  | .clearFault => 15
  | .setChainage => 16
  | .rearmBus => 17
  | .mark => 18
  | .flushRecords => 19
  | .withdraw => 20

/-- 12.4 order kind: the name a code stands for. -/
def OrderKind.ofCode : Nat → Option OrderKind
  | 1 => some .setValue
  | 2 => some .adjustValue
  | 3 => some .swapValue
  | 4 => some .readValue
  | 5 => some .loadPage
  | 6 => some .patchPage
  | 7 => some .confirmPage
  | 8 => some .setState
  | 9 => some .clearSafe
  | 10 => some .setSide
  | 11 => some .capture
  | 12 => some .jog
  | 13 => some .setZone
  | 14 => some .setFeed
  | 15 => some .clearFault
  | 16 => some .setChainage
  | 17 => some .rearmBus
  | 18 => some .mark
  | 19 => some .flushRecords
  | 20 => some .withdraw
  | _ => none

/-- 12.4 reason. -/
def Reason.code : Reason → Nat
  | .none => 0
  | .check => 1
  | .abandoned => 2
  | .stopped => 3
  | .badKind => 4
  | .badSubject => 5
  | .range => 6
  | .wrongState => 7
  | .pageInvalid => 8
  | .pageContent => 9
  | .stageFull => 10
  | .duplicateStage => 11
  | .duplicateStamp => 12
  | .notStaged => 13
  | .chain => 14
  | .haltActive => 15
  | .slopeTaken => 16
  | .queueFull => 17
  | .stagedPending => 18
  | .notFaulted => 19

/-- 03 section 3.3 page kind. -/
def PageKind.code : PageKind → Nat
  | .zoneMap => 0
  | .headMap => 1
  | .filter => 2
  | .geometry => 3

/-- 03 section 3.3 page kind: the name a code stands for. -/
def PageKind.ofCode : Nat → Option PageKind
  | 0 => some .zoneMap
  | 1 => some .headMap
  | 2 => some .filter
  | 3 => some .geometry
  | _ => none

/-- 12.4 note kind. -/
def NoteKind.code : NoteKind → Nat
  | .zoneFault => 1
  | .zoneShed => 2
  | .budgetLow => 3
  | .headSuspect => 4
  | .headDropped => 5
  | .headReadmitted => 6
  | .headMismatch => 7
  | .junctionDown => 8
  | .junctionRestored => 9
  | .busUnreliable => 10
  | .travelSilent => 11
  | .travelRestored => 12
  | .badStep => 13
  | .stateChanged => 14
  | .sideHold => 15
  | .sideRestored => 16
  | .feedJam => 17
  | .sensorLost => 18
  | .sensorRestored => 19
  | .thermalRun => 20
  | .referenceForced => 21
  | .recordLoss => 22
  | .halt => 23

/-- 12.4 head state (ABSENT is 0). -/
def HeadState.code : HeadState → Nat
  | .active => 1
  | .suspect => 2
  | .dropped => 3
  | .mismatch => 4
  | .unconfirmed => 5

/-- 12.4 head kind. -/
def HeadKind.code : HeadKind → Nat
  | .sonic => 1
  | .slope => 2
  | .stroke => 3
  | .scanner => 4

/-- 12.4 head kind: the name a code stands for. -/
def HeadKind.ofCode : Nat → Option HeadKind
  | 1 => some .sonic
  | 2 => some .slope
  | 3 => some .stroke
  | 4 => some .scanner
  | _ => none

/-- 12.4 junction. -/
def JunctionId.code : JunctionId → Nat
  | .left => 0
  | .right => 1
  | .centre => 2

/-- 12.4 junction: the name a code stands for. -/
def JunctionId.ofCode : Nat → Option JunctionId
  | 0 => some .left
  | 1 => some .right
  | 2 => some .centre
  | _ => none

/-- 12.4 section. -/
def Section.code : Section → Nat
  | .mainL => 0
  | .mainR => 1
  | .extL => 2
  | .extR => 3
  | .boltL => 4
  | .boltR => 5

/-- 12.4 section: the name a code stands for. -/
def Section.ofCode : Nat → Option Section
  | 0 => some .mainL
  | 1 => some .mainR
  | 2 => some .extL
  | 3 => some .extR
  | 4 => some .boltL
  | 5 => some .boltR
  | _ => none

/-- 12.4 zone state. -/
def ZoneState.code : ZoneState → Nat
  | .disabled => 0
  | .locked => 1
  | .idle => 2
  | .waiting => 3
  | .closing => 4
  | .on => 5
  | .fault => 6

/-- 12.4 fault kind. -/
def ZoneFault.code : ZoneFault → Nat
  | .openElement => 1
  | .overcurrent => 2
  | .welded => 3
  | .sensor => 4

/-- 12.4 transaction outcome. -/
def TxOutcome.code : TxOutcome → Nat
  | .good => 0
  | .timeout => 1
  | .charError => 2
  | .modeMismatch => 3
  | .nakLatched => 4
  | .nakEmpty => 5

/-- 12.8 SET_MODE data. -/
def LinkMode.code : LinkMode → Nat
  | .plain => 0
  | .checked => 1

/-- 12.2 pause cause (absent is 0). -/
def PauseCause.code : PauseCause → Nat
  | .auto => 1
  | .order => 2

/-- 12.6 GAP reason. -/
def GapReason.code : GapReason → Nat
  | .queue => 1
  | .busy => 2
  | .spacing => 3
  | .reference => 4
  | .scanner => 5

/-- 12.6 closed-by. -/
def ClosedBy.code : ClosedBy → Nat
  | .full => 1
  | .flush => 2
  | .state => 3
  | .stop => 4

/-- 12.8 command. -/
def LinkCommand.code : LinkCommand → Nat
  | .reading => 1
  | .status => 2
  | .trigger => 3
  | .line => 4
  | .reference => 5
  | .clear => 16
  | .setMode => 17
  | .jstatus => 18

/-- 12.4 side: 0 LEFT, 1 RIGHT. -/
def sideCode : Side → Nat
  | .left => 0
  | .right => 1

/-- 12.4 side: the side a code names. -/
def sideOfCode : Nat → Option Side
  | 0 => some .left
  | 1 => some .right
  | _ => none

/-- 12.2 HALT level. -/
def haltCode : HaltLevel → Nat
  | .released => 0
  | .asserted => 1

/-- 12.2 pause cause: 0 absent. -/
def pauseCode : Option PauseCause → Nat
  | none => 0
  | some c => c.code

/-- R171, 12.1: the bit of a cause in ATTENTION and ATTENTION_ENABLE. -/
def Cause.bit : Cause → Nat
  | .outcome => 0
  | .page => 1
  | .note => 2
  | .held => 3
  | .safe => 4
  | .layout => 5

end Sys2Proof.Machine
end

