-- ==== Sys2Proof/Machine/Bytes.lean ====
section
/-! DEFINITION. Little-endian fields, the two check codes of R173, and numbers narrowed to signed 32-bit fields. -/
namespace Sys2Proof.Machine

/-- A number in `n` bytes, least significant first (12: the region is little-endian). -/
def leBytes : Nat → Nat → List Byte
  | 0, _ => []
  | n + 1, v => BitVec.ofNat 8 (v % 256) :: leBytes n (v / 256)

/-- The number that bytes hold, least significant first. -/
def leNat : List Byte → Nat
  | [] => 0
  | b :: bs => b.toNat + 256 * leNat bs

/-- The unsigned field of `n` bytes at an offset. -/
def fieldAt (bs : List Byte) (offset n : Nat) : Nat := leNat ((bs.drop offset).take n)

/-- The bytes with those at an offset replaced. -/
def putAt (bs : List Byte) (offset : Nat) (new : List Byte) : List Byte :=
  bs.take offset ++ new ++ bs.drop (offset + new.length)

/-- R173: one bit of the CRC-16, polynomial 0x1021, most significant bit first. -/
def crc16Bit (c : Half) : Half := if c.msb then (c <<< 1) ^^^ 0x1021#16 else c <<< 1

/-- R173: `n` bits of the CRC-16. -/
def crc16Bits : Nat → Half → Half
  | 0, c => c
  | n + 1, c => crc16Bits n (crc16Bit c)

/-- R173: the CRC-16 carried over one byte. -/
def crc16Byte (c : Half) (b : Byte) : Half := crc16Bits 8 (c ^^^ (b.zeroExtend 16 <<< 8))

/-- R173: CRC-16, polynomial 0x1021, initial value 0xFFFF, no reflection, no final inversion. -/
def crc16 (bs : List Byte) : Half := bs.foldl crc16Byte 0xFFFF#16

/-- R173: one bit of the CRC-8, polynomial 0x07. -/
def crc8Bit (c : Byte) : Byte := if c.msb then (c <<< 1) ^^^ 0x07#8 else c <<< 1

/-- R173: `n` bits of the CRC-8. -/
def crc8Bits : Nat → Byte → Byte
  | 0, c => c
  | n + 1, c => crc8Bits n (crc8Bit c)

/-- R173: CRC-8, polynomial 0x07, initial value 0. -/
def crc8 (bs : List Byte) : Byte := bs.foldl (fun c b => crc8Bits 8 (c ^^^ b)) 0#8

/-- A value in a signed 32-bit field. Outside the field's range the spec states no result: a free value (log 13). -/
def to32 (x : Int) : Word :=
  if -(2 ^ 31) ≤ x ∧ x < 2 ^ 31 then BitVec.ofInt 32 x else Config.unstated32 x

/-- A number clamped to limits (R46). -/
def clamp (low high x : Int) : Int := if x < low then low else if high < x then high else x

end Sys2Proof.Machine
end

