-- ==== Sys2Proof/Machine/Flags.lean ====
section
/-! DEFINITION. Flag words: the attention causes and the interrupt output (R171), an outcome's indicators (12.3), the
flags of an order (12.3) and of a record entry (12.6). -/
namespace Sys2Proof.Machine

/-- The mask of a cause in ATTENTION and ATTENTION_ENABLE (12.1). -/
def Cause.mask (c : Cause) : BitVec 6 := BitVec.twoPow 6 c.bit

/-- R171: a cause is set, whatever its enable. -/
def Rif.setCause (c : Cause) (r : Rif) : Rif := { r with attention := r.attention ||| c.mask }

/-- Whether a cause is set. -/
def Rif.causeSet (c : Cause) (r : Rif) : Bool := r.attention.getLsbD c.bit

/-- Whether a cause is enabled. -/
def Rif.causeEnabled (c : Cause) (r : Rif) : Bool := r.attentionEnable.getLsbD c.bit

/-- R171: the interrupt output is asserted while any cause is set whose enable is set. -/
def Rif.interrupt (r : Rif) : Bool := (r.attention &&& r.attentionEnable) != 0

/-- R167, 12.1: RUN reads 1 while the run status is STARTING or RUNNING. -/
def Rif.runReads (r : Rif) : Bool := r.runStatus == .starting || r.runStatus == .running

/-- 12.3: the indicators byte. -/
def Indicators.byte (i : Indicators) : Byte :=
  BitVec.ofNat 8 (i.limit.toNat + 2 * i.soft.toNat + 4 * i.late.toNat + 8 * i.pending.toNat)

/-- 12.6: a LINE entry's flags, SPREAD, COLD, UNPLACED, STALE_WIDTH and AFTER_STOP, in bits 6 to 2 of its first byte; that they
stand there in the order in which 12.6 names them, SPREAD in bit 6, is log 47 (DEDUCED). -/
def LineEntry.flags (e : LineEntry) : Nat :=
  16 * e.spread.toNat + 8 * e.cold.toNat + 4 * e.line.unplaced.toNat + 2 * e.line.stale.toNat + e.line.afterStop.toNat

/-- 12.6: the first byte of an entry: kind in bits 1 to 0, flags in bits 6 to 2. -/
def entryFlagByte (kind flags : Nat) : Byte := BitVec.ofNat 8 (kind + 4 * flags)

end Sys2Proof.Machine
end

