-- ==== Sys2Proof/Machine/Ops.lean ====
section
/-! DEFINITION. The named operations every meaning is written over: block updates, memory, time, hand-offs, notes, the
summary block, and the answer to an order. -/
namespace Sys2Proof.Machine

/-! ## Block updates -/

/-- The state with RIF changed. -/
def State.modRif (s : State) (f : Rif → Rif) : State := { s with rif := f s.rif }
/-- The state with BDR changed. -/
def State.modBdr (s : State) (f : Bdr → Bdr) : State := { s with bdr := f s.bdr }
/-- The state with SPS changed. -/
def State.modSps (s : State) (f : Sps → Sps) : State := { s with sps := f s.sps }
/-- The state with MSC changed. -/
def State.modMsc (s : State) (f : Msc → Msc) : State := { s with msc := f s.msc }
/-- The state with TRM changed. -/
def State.modTrm (s : State) (f : Trm → Trm) : State := { s with trm := f s.trm }
/-- The state with HLC changed. -/
def State.modHlc (s : State) (f : Hlc → Hlc) : State := { s with hlc := f s.hlc }
/-- The state with GEU changed. -/
def State.modGeu (s : State) (f : Geu → Geu) : State := { s with geu := f s.geu }
/-- The state with LVC changed. -/
def State.modLvc (s : State) (f : Lvc → Lvc) : State := { s with lvc := f s.lvc }
/-- The state with HTC changed. -/
def State.modHtc (s : State) (f : Htc → Htc) : State := { s with htc := f s.htc }
/-- The state with FDC changed. -/
def State.modFdc (s : State) (f : Fdc → Fdc) : State := { s with fdc := f s.fdc }
/-- The state with MRU changed. -/
def State.modMru (s : State) (f : Mru → Mru) : State := { s with mru := f s.mru }
/-- The state with the shared region changed. -/
def State.modMem (s : State) (f : Memory → Memory) : State := { s with mem := f s.mem }
/-- The state with the memory port changed. -/
def State.modPort (s : State) (f : List PortWrite → List PortWrite) : State := { s with port := f s.port }
/-- The state with the hand-offs changed. -/
def State.modInbox (s : State) (f : List Waiting → List Waiting) : State := { s with inbox := f s.inbox }

/-! ## Memory (00: one region; log 6, log 7) -/

/-- DESIGN CHOICE (log 6): what an unlisted byte of memory reads as. -/
def Memory.unlisted : Byte := 0

/-- The byte at an address. -/
def Memory.read : Memory → Nat → Byte
  | [], _ => Memory.unlisted
  | (a, b) :: rest, x => if x = a then b else Memory.read rest x

/-- Memory with one byte written, in canonical form again. -/
def Memory.write : Memory → Nat → Byte → Memory
  | [], x, v => if v = Memory.unlisted then [] else [(x, v)]
  | (a, b) :: rest, x, v =>
    if x < a then (if v = Memory.unlisted then (a, b) :: rest else (x, v) :: (a, b) :: rest)
    else if x = a then (if v = Memory.unlisted then rest else (x, v) :: rest)
    else (a, b) :: Memory.write rest x v

/-- The canonical form: addresses strictly rising, and no entry equal to what an unlisted address reads as. -/
def Memory.wf : Memory → Bool
  | [] => true
  | [(_, b)] => decide (b ≠ Memory.unlisted)
  | (a, b) :: (a', b') :: rest => decide (b ≠ Memory.unlisted) && decide (a < a') && Memory.wf ((a', b') :: rest)

/-- `n` bytes from an address up. -/
def Memory.readBytes (m : Memory) (a : Nat) : Nat → List Byte
  | 0 => []
  | n + 1 => m.read a :: Memory.readBytes m (a + 1) n

/-- Memory with bytes written from an address up. -/
def Memory.writeBytes (m : Memory) (a : Nat) : List Byte → Memory
  | [] => m
  | b :: bs => Memory.writeBytes (m.write a b) (a + 1) bs

/-- The address of a place in the shared region (R167; log 7). -/
def State.address (s : State) (offset : Nat) : Nat := s.rif.regionBase.toNat + offset

/-- The host's writes that became visible (log 5). -/
def State.hostWrite (s : State) (h : HostWrites) : State :=
  s.modMem fun m => h.foldl (fun m c => m.write (s.address c.1) c.2) m

/-- The bytes of a place in the region. -/
def State.regionRead (s : State) (offset n : Nat) : List Byte := s.mem.readBytes (s.address offset) n

/-! ## The memory port (R24; log 8) -/

/-- R24: a write issued: its pieces, by offset in the region, go behind the writes issued before it. -/
def State.issueWrite (s : State) (user : PortUser) (pieces : List (Nat × List Byte)) : State :=
  s.modPort fun p => p ++ [⟨user, pieces.map fun x => (s.address x.1, x.2)⟩]

/-- R24: a write becomes visible, piece after piece. -/
def PortWrite.land (m : Memory) (w : PortWrite) : Memory := w.pieces.foldl (fun m x => m.writeBytes x.1 x.2) m

/-- R24: the first `n` writes of the port become visible, in the order of their issue. -/
def State.landWrites (s : State) (n : Nat) : State :=
  (s.modMem fun m => (s.port.take n).foldl PortWrite.land m).modPort fun p => p.drop n

/-- R24: how many writes of the port stand up to the first of a user's, that one included; 0 when it has none there. -/
def portCount (user : PortUser) : List PortWrite → Nat
  | [] => 0
  | w :: rest =>
    if w.user = user then 1
    else
      match portCount user rest with
      | 0 => 0
      | n + 1 => n + 2

/-- R24: a user's write is complete: it is visible, and so is every write issued before it. Its own completion finds a write
visible already where a later write's came first. -/
def State.writeDone (s : State) (user : PortUser) : State := s.landWrites (portCount user s.port)

/-- R24: every write issued becomes visible. -/
def State.landAll (s : State) : State := s.landWrites s.port.length

/-! ## Settings (R43) -/

/-- A setting's value in effect. -/
def State.setting (s : State) (i : SettingId) : Int := s.sps.entries[i].value

/-- A setting's value in effect where its range is not negative. -/
def State.settingNat (s : State) (i : SettingId) : Nat := (s.setting i).toNat

/-! ## Time (R167, R123; log 1, log 2) -/

/-- The present run time. -/
def State.now (s : State) : Word := s.rif.runTime

/-- R167: the run time counts through RUNNING and STOPPING. -/
def Rif.counting (r : Rif) : Bool := r.runStatus == .running || r.runStatus == .stopping

/-- The passing of milliseconds: the run time where it counts, and HTC's closing clock always. -/
def State.advance (s : State) (ms : Nat) : State :=
  (s.modRif fun r => if r.counting then { r with runTime := r.runTime + BitVec.ofNat 32 ms } else r).modHtc
    fun h => { h with clock := h.clock + ms }

/-- The milliseconds from one run time to another that lies ahead of it; 0 when it is reached or past. -/
def msUntil (now expiry : Word) : Nat :=
  let d := (expiry - now).toNat
  if d < 2 ^ 31 then d else 0

/-- Time brought to the expiry of a timer, where it is still ahead (log 2). -/
def State.runTo (s : State) (expiry : Word) : State := s.advance (msUntil s.now expiry)

/-- A timer started now for a period in milliseconds. -/
def State.startTimer (s : State) (ms : Nat) : Timer := some (s.now + BitVec.ofNat 32 ms)

/-! ## Hand-offs (log 4) -/

/-- A block hands something to another. -/
def State.hand (s : State) (h : Handoff) : State := s.modInbox fun w => w ++ [⟨false, h⟩]

/-- Hand-offs made in one event, in order; `afterPave` as R5 has it. -/
def State.handAll (s : State) (afterPave : Bool) (hs : List Handoff) : State :=
  s.modInbox fun w => w ++ hs.map (Waiting.mk afterPave)

/-- Whether a hand-off is the PAVE entry to SPS. -/
def Handoff.isPaveEntry : Handoff → Bool
  | .paveEntry => true
  | _ => false

/-- The first hand-off waiting on a channel and the rest without it; none when a PAVE entry that must be taken first
still waits before it (R5). -/
def takeFrom (channel : Handoff → Bool) : Bool → List Waiting → Option (Handoff × List Waiting)
  | _, [] => none
  | pave, w :: rest =>
    if channel w.handoff then (if pave && w.afterPave then none else some (w.handoff, rest))
    else
      match takeFrom channel (pave || w.handoff.isPaveEntry) rest with
      | some (h, rest') => some (h, w :: rest')
      | none => none

/-- The first hand-off waiting on a channel, and the state with it taken. -/
def State.take (s : State) (channel : Handoff → Bool) : Option (Handoff × State) :=
  (takeFrom channel false s.inbox).map fun p => (p.1, { s with inbox := p.2 })

/-! ## Attention, notes and the summary block (R170 to R172) -/

/-- A cause of ATTENTION is set. -/
def State.setCause (s : State) (c : Cause) : State := s.modRif (Rif.setCause c)

/-- R123: whether a zone's contactor is commanded closed. -/
def Zone.closed (z : Zone) : Bool := z.state == .closing || z.state == .on

/-- R123: the draw, the summed rating of the zones in CLOSING or ON, in watts. -/
def Htc.draw (h : Htc) : Nat := (h.zones.map fun z => if z.closed then z.rating else 0).sum

/-- R166: the LINE entries in the queue. -/
def Mru.linesQueued (m : Mru) : Nat :=
  m.queue.countP fun i => match i with
    | .entry (.line _) => true
    | _ => false

/-- R154: the entries in the queue. -/
def Mru.entriesQueued (m : Mru) : Nat :=
  m.queue.countP fun i => match i with
    | .entry _ => true
    | _ => false

/-- R14, R170: the machine state the summary block shows; with the run status STOPPED it is STANDBY (log 10). -/
def State.summaryMachineState (s : State) : MachineState :=
  if s.rif.runStatus = .stopped then .standby else s.msc.state

/-- 12.2: bytes 4 to 23 of the summary block: states and modes. -/
def State.summaryStates (s : State) : List Byte :=
  [ s.rif.runStatus.code, s.summaryMachineState.code, pauseCode s.msc.pauseCause, haltCode s.msc.haltSeen
  , s.msc.sideRequested.left.code, s.msc.sideEffective.left.code
  , s.msc.sideRequested.right.code, s.msc.sideEffective.right.code
  , s.msc.feedRequested[0].code, s.msc.feedEffective[0].code, s.msc.feedRequested[1].code, s.msc.feedEffective[1].code
  , s.msc.feedRequested[2].code, s.msc.feedEffective[2].code, s.msc.feedRequested[3].code, s.msc.feedEffective[3].code
  , s.msc.heating.code, s.msc.records.code, s.trm.travel.code, s.trm.busState.code ].map (BitVec.ofNat 8)

/-- 12.2: bytes 24 to 79 of the summary block: counts and figures. -/
def State.summaryFigures (s : State) : List Byte :=
  leBytes 4 s.trm.chainage.toNat ++ leBytes 4 s.rif.runTime.toNat ++ leBytes 4 s.rif.outcomesWritten.toNat ++
  leBytes 2 s.bdr.cursor ++ leBytes 1 s.bdr.status.code ++ leBytes 1 s.bdr.staging.length ++
  leBytes 4 s.rif.pagesHanded.toNat ++ leBytes 4 s.rif.noteWriteIndex.toNat ++ leBytes 4 s.rif.notesLost.toNat ++
  leBytes 4 s.mru.linesProduced.toNat ++ leBytes 4 s.mru.linesWritten.toNat ++ leBytes 4 s.mru.linesQueued ++
  leBytes 4 s.mru.linesLost.toNat ++ leBytes 4 s.mru.triggersMissed.toNat ++
  leBytes 4 s.htc.budget ++ leBytes 4 s.htc.draw

/-- 12.2: the 256 bytes of the summary block, with the rewrite sequence at head and tail. -/
def State.summaryBytes (s : State) (sequence : Word) : List Byte :=
  leBytes 4 sequence.toNat ++ s.summaryStates ++ s.summaryFigures ++ List.replicate 172 0 ++ leBytes 4 sequence.toNat

/-- R170: a rewrite is issued: the sequence rises and every value is taken now. -/
def State.issueSummary (s : State) : State :=
  (s.modRif fun r =>
    { r with rewriteSequence := r.rewriteSequence + 1
             summaryWrite := some (s.summaryBytes (r.rewriteSequence + 1)) }).issueWrite .summary
    [(0x100, s.summaryBytes (s.rif.rewriteSequence + 1))]

/-- R170: a request for a rewrite: issued at once, or pending while one is in flight or while the layout of a RUN start has not
been read (R168; log 10). In STOPPED RIF writes nothing to the region (R169; log 10). -/
def State.requestRewrite (s : State) : State :=
  if s.rif.runStatus = .stopped then s
  else if s.rif.summaryWrite.isSome || s.rif.layoutRead then s.modRif fun r => { r with rewritePending := true }
  else s.issueSummary

/-- R170: a rewrite left pending is issued. -/
def State.issuePending (s : State) : State :=
  if s.rif.rewritePending then (s.modRif fun r => { r with rewritePending := false }).issueSummary else s

/-- R172: RIF turns to the head note request when no note operation is in flight: it reads the note read index. -/
def Rif.startNote (r : Rif) : Rif :=
  if r.noteOp = .none ∧ r.noteQueue ≠ [] then { r with noteOp := .readIndex } else r

/-- R172: a block asks for a note: discarded in STOPPED and STARTING, lost with 16 queued, queued otherwise with the run
time and the chainage TRM holds. -/
def State.postNote (s : State) (kind : NoteKind) (subject : Nat) (value : Word) : State :=
  if s.rif.counting then
    if s.rif.noteQueue.length < 16 then
      s.modRif fun r =>
        Rif.startNote
          { r with noteQueue := r.noteQueue ++ [⟨kind, BitVec.ofNat 8 subject, value, r.runTime, s.trm.chainage⟩] }
    else (s.modRif fun r => { r with notesLost := r.notesLost + 1 }).requestRewrite
  else s

/-! ## Slots in the region (12.3) -/

/-- The layout copy; the default is never read, since every user of it works within a run. -/
def Rif.layoutCopy (r : Rif) : Layout := r.layout.getD ⟨0, 0, 0, 0, 0⟩

/-- Where a slot stands in the region (12.3). -/
def State.slotOffset (s : State) (slot : Nat) : Nat := s.rif.layoutCopy.boardOffset + 48 * slot

/-- R24, R174: a slot's state byte is written, the reserved byte behind it before it as 0. -/
def State.statePieces (s : State) (slot : Nat) (state : SlotState) : List (Nat × List Byte) :=
  [(s.slotOffset slot + 23, [0]), (s.slotOffset slot + 22, [BitVec.ofNat 8 state.code])]

/-- 12.3, R174: bytes 28 to 47 of a slot, the reserved ones 0. -/
def SlotOutcome.bytes (o : SlotOutcome) : List Byte :=
  leBytes 4 o.result.toNat ++ [o.indicators.byte, BitVec.ofNat 8 o.reason.code, 0, 0] ++
    leBytes 4 o.finishChainage.toNat ++ leBytes 4 o.finishRunTime.toNat ++ [0, 0, 0, 0]

/-- R24: an outcome is issued to a slot, the state last. -/
def State.issueSlot (s : State) (slot : Nat) (o : SlotOutcome) : State :=
  s.issueWrite .board ((s.slotOffset slot + 28, o.bytes) :: s.statePieces slot o.state)

/-! ## The answer to an order (R36, R38) -/

/-- R38: BDR issues the outcome write of the order in execution, with the finish chainage and run time of now. -/
def State.issueOutcome (s : State) (state : SlotState) (result : Word) (reason : Reason) (ind : Indicators) : State :=
  match s.bdr.execution with
  | some e =>
    let o : SlotOutcome := ⟨state, result, ind, reason, s.bdr.chainageSeen, s.now⟩
    (s.modBdr fun b =>
      { b with op := .outcomeWrite o, execution := some { e with indicators := ind, phase := .writing } }).issueSlot
      e.order.slot o
  | none => s

/-- R36: LATE as it stands in the order in execution. -/
def Bdr.lateNow (b : Bdr) : Bool :=
  match b.execution with
  | some e => e.indicators.late
  | none => false

/-- R36: the owner has carried the order out. -/
def State.finishDone (s : State) (result : Word) (limit soft pending : Bool) : State :=
  s.issueOutcome .done result .none ⟨limit, soft, s.bdr.lateNow, pending⟩

/-- R36: the owner has refused the order: result 0, LATE kept, no other indicator. -/
def State.finishRefused (s : State) (reason : Reason) : State :=
  s.issueOutcome .refused 0 reason ⟨false, false, s.bdr.lateNow, false⟩

/-- R39: the order in execution stays with its owner's operation in flight. -/
def State.holdInFlight (s : State) : State :=
  s.modBdr fun b => { b with execution := b.execution.map fun e => { e with phase := .inFlight } }

/-- R36: the order in execution, when its owner has it and it is of this kind. -/
def State.orderOf (s : State) (kind : OrderKind) : Option Order :=
  match s.bdr.execution with
  | some e => if e.phase = .atOwner ∧ OrderKind.ofCode e.order.kind.toNat = some kind then some e.order else none
  | none => none

/-- R30: a CLEAR_FAULT of one class: operand B 0 zone, 1 channel, 2 head, 3 junction. -/
def State.clearFaultOf (s : State) (cls : Nat) : Option Order :=
  match s.orderOf .clearFault with
  | some o => if o.operandB.toNat = cls then some o else none
  | none => none

/-! ## Registers and outputs as the outside sees them -/

/-- R167, 12.1: what a read of a register gives. Reads change nothing. Bits that 12.1 does not name read 0 (log 46(g), DESIGN
CHOICE). -/
def State.readRegister (s : State) : RegisterName → Word
  | .ident => 0x0A460460#32
  | .regionBase => s.rif.regionBase
  | .control => BitVec.ofNat 32 (s.rif.runReads.toNat + 16 * s.rif.runStatus.code)
  | .sweep => 0
  | .attention => s.rif.attention.zeroExtend 32
  | .attentionEnable => s.rif.attentionEnable.zeroExtend 32

/-- R171: the interrupt output. -/
def State.interruptOutput (s : State) : Bool := s.rif.interrupt

/-- R123: a contactor output is closed while a zone that names it is in CLOSING or ON. -/
def State.contactorClosed (s : State) (output : Nat) : Bool :=
  s.htc.zones.any fun z => z.closed && z.contactorOutput == output

/-- R105: the UP output of a side. -/
def State.upOutput (s : State) (side : Side) : Bool := (s.lvc.sides.get side).valve == .pulsingUp

/-- R105: the DOWN output of a side. -/
def State.downOutput (s : State) (side : Side) : Bool := (s.lvc.sides.get side).valve == .pulsingDown

/-- R142: a channel's drive output, in ‰ of full drive. -/
def State.driveOutput (s : State) (channel : Fin 4) : Nat := s.fdc.channels[channel].demand

/-- R142: whether a level sensor's supply switch is closed. -/
def State.supplyOutput (s : State) (channel : Fin 4) : Bool := s.fdc.channels[channel].supplyClosed

end Sys2Proof.Machine
end

