-- ==== Sys2Proof/Machine/Operands.lean ====
section
/-! DEFINITION. What the part reads out of bytes: order slots (12.3), subjects (R30), page images and their constraints
(R53, 12.7), the fields a patch names (R56). -/
namespace Sys2Proof.Machine

/-! ## Order slots -/

/-- 12.3: the order a slot's request bytes carry; flag bits beyond the named ones are ignored (R174). -/
def orderOfSlot (bs : List Byte) (slot : Nat) (takeIndex : Word) : Order where
  slot := slot
  takeIndex := takeIndex
  stamp := BitVec.ofNat 16 (fieldAt bs 0 2)
  kind := BitVec.ofNat 8 (fieldAt bs 2 1)
  strict := (fieldAt bs 3 1).testBit 0
  chained := (fieldAt bs 3 1).testBit 1
  stationPresent := (fieldAt bs 3 1).testBit 2
  subject := BitVec.ofNat 8 (fieldAt bs 4 1)
  operandA := BitVec.ofNat 32 (fieldAt bs 8 4)
  operandB := BitVec.ofNat 32 (fieldAt bs 12 4)
  station := BitVec.ofNat 32 (fieldAt bs 16 4)

/-- R28, R173: the check word agrees with the CRC-16 of the 20 request bytes. -/
def slotCheckGood (bs : List Byte) : Bool := (crc16 (bs.take 20)).toNat == fieldAt bs 20 2

/-- R174: only a state byte of 1 is POSTED. -/
def slotPosted (bs : List Byte) : Bool := fieldAt bs 22 1 == SlotState.posted.code

/-- R41: the slot was held by an earlier run. -/
def slotHeld (bs : List Byte) : Bool :=
  fieldAt bs 22 1 == SlotState.taken.code || fieldAt bs 22 1 == SlotState.staged.code

/-- R30: how many subjects a CLEAR_FAULT class has; an operand B outside 0..3 has none. -/
def clearFaultSubjects : Nat → Nat
  | 0 => 24
  | 1 => 4
  | 2 => 16
  | 3 => 3
  | _ => 0

/-- R30: the subject lies in the range of the kind. -/
def subjectOk (kind : OrderKind) (o : Order) : Bool :=
  match kind with
  | .setValue | .adjustValue | .swapValue | .readValue => decide (o.subject.toNat < 47)
  | .loadPage | .patchPage | .confirmPage => decide (o.subject.toNat < 4)
  | .setState => decide (o.subject.toNat < 6)
  | .setSide | .capture | .jog => decide (o.subject.toNat < 2)
  | .setZone => decide (o.subject.toNat < 24)
  | .setFeed => decide (o.subject.toNat < 4)
  | .clearFault => decide (o.subject.toNat < clearFaultSubjects o.operandB.toNat)
  | .clearSafe | .setChainage | .rearmBus | .mark | .flushRecords | .withdraw => true

/-- The setting an order's subject names. -/
def Order.settingId (o : Order) : SettingId := Fin.ofNat 47 o.subject.toNat

/-- The side an order's subject names. -/
def Order.side (o : Order) : Side := if o.subject = 0 then .left else .right

/-- The feed channel an order's subject names. -/
def Order.channel (o : Order) : Fin 4 := Fin.ofNat 4 o.subject.toNat

/-- The heating zone an order's subject names. -/
def Order.zone (o : Order) : Fin 24 := Fin.ofNat 24 o.subject.toNat

/-- The page an order's subject names. -/
def Order.page (o : Order) : PageKind := (PageKind.ofCode o.subject.toNat).getD .zoneMap

/-! ## Page images -/

/-- 12.7: the length of a page's image less its closing CRC. -/
def PageKind.bodyLength : PageKind → Nat
  | .zoneMap => 196
  | .headMap => 132
  | .filter => 192
  | .geometry => 4

/-- 12.7: the length of a page's image. -/
def PageKind.imageLength (k : PageKind) : Nat := k.bodyLength + 2

/-- A page of the store. -/
def Sps.page (p : Sps) : PageKind → Page
  | .zoneMap => p.zoneMap
  | .headMap => p.headMap
  | .filter => p.filter
  | .geometry => p.geometry

/-- The store with a page replaced. -/
def Sps.setPage (p : Sps) (k : PageKind) (page : Page) : Sps :=
  match k with
  | .zoneMap => { p with zoneMap := page }
  | .headMap => { p with headMap := page }
  | .filter => { p with filter := page }
  | .geometry => { p with geometry := page }

/-- R52: the CRC of a page, over its image form without the closing CRC. -/
def Page.crc (p : Page) : Half := crc16 p.bytes

/-- 12.7: the count of ZONE_MAP or HEAD_MAP. -/
def mapCount (bs : List Byte) : Nat := fieldAt bs 0 1

/-- 12.7: where item `i` of ZONE_MAP or HEAD_MAP starts. -/
def itemAt (i : Nat) : Nat := 4 + 8 * i

/-- 12.7: item `z` of ZONE_MAP. -/
def zoneItem (bs : List Byte) (z : Nat) : ZoneItem where
  sect := (Section.ofCode (fieldAt bs (itemAt z) 1)).getD .mainL
  rating := fieldAt bs (itemAt z + 4) 2
  temperatureInput := fieldAt bs (itemAt z + 1) 1
  currentInput := fieldAt bs (itemAt z + 2) 1
  contactorOutput := fieldAt bs (itemAt z + 3) 1

/-- The counted zones of ZONE_MAP, in map order. -/
def zoneItems (bs : List Byte) : List ZoneItem := (List.range (mapCount bs)).map (zoneItem bs)

/-- 12.7: item `h` of HEAD_MAP. -/
def headItem (bs : List Byte) (h : Nat) : HeadItem where
  junction := (JunctionId.ofCode (fieldAt bs (itemAt h) 1)).getD .left
  port := fieldAt bs (itemAt h + 1) 1
  kind := (HeadKind.ofCode (fieldAt bs (itemAt h + 2) 1)).getD .sonic
  side := sideOfCode (fieldAt bs (itemAt h + 3) 1)
  position := fieldAt bs (itemAt h + 4) 1

/-- The counted heads of HEAD_MAP, in map order. -/
def headItems (bs : List Byte) : List HeadItem := (List.range (mapCount bs)).map (headItem bs)

/-- 12.7: filter `n` of FILTER. -/
def filterItem (bs : List Byte) (n : Nat) : Filter where
  enabled := fieldAt bs (24 * n) 1 == 1
  identifier := BitVec.ofNat 32 (fieldAt bs (24 * n + 8) 4)
  mask := BitVec.ofNat 32 (fieldAt bs (24 * n + 12) 4)
  extended := fieldAt bs (24 * n + 1) 1 == 1
  length := if fieldAt bs (24 * n + 2) 1 = 255 then none else some (fieldAt bs (24 * n + 2) 1)
  dataMask := if fieldAt bs (24 * n + 4) 1 = 1 then some ((bs.drop (24 * n + 16)).take 8) else none
  purpose := fieldAt bs (24 * n + 3) 1

/-- The eight filters of FILTER. -/
def filterItems (bs : List Byte) : List Filter := (List.range 8).map (filterItem bs)

/-- 12.7: the bolt-on widths of GEOMETRY. -/
def boltWidths (bs : List Byte) : Nat × Nat := (fieldAt bs 0 2, fieldAt bs 2 2)

/-! ## The constraints of R53 -/

/-- R53: the field constraints of one zone item. -/
def zoneFieldsOk (bs : List Byte) (z : Nat) : Bool :=
  decide (fieldAt bs (itemAt z) 1 ≤ 5) && decide (fieldAt bs (itemAt z + 1) 1 ≤ 23) &&
  decide (fieldAt bs (itemAt z + 2) 1 ≤ 23) && decide (fieldAt bs (itemAt z + 3) 1 ≤ 23) &&
  decide (500 ≤ fieldAt bs (itemAt z + 4) 2) && decide (fieldAt bs (itemAt z + 4) 2 ≤ 6000)

/-- R53: ZONE_MAP: count 1..24, every counted item's fields, contactor outputs all distinct. -/
def zoneMapOk (bs : List Byte) : Bool :=
  decide (1 ≤ mapCount bs) && decide (mapCount bs ≤ 24) &&
  (List.range (mapCount bs)).all (zoneFieldsOk bs) &&
  decide ((zoneItems bs).map (·.contactorOutput)).Nodup

/-- R53: the field constraints of one head item. -/
def headFieldsOk (bs : List Byte) (h : Nat) : Bool :=
  decide (fieldAt bs (itemAt h) 1 ≤ 2) && decide (fieldAt bs (itemAt h + 1) 1 ≤ 6) &&
  decide (1 ≤ fieldAt bs (itemAt h + 2) 1) && decide (fieldAt bs (itemAt h + 2) 1 ≤ 4) &&
  decide (fieldAt bs (itemAt h + 3) 1 ≤ 2) && decide (fieldAt bs (itemAt h + 4) 1 ≤ 4)

/-- R53: SONIC and STROKE heads have side LEFT or RIGHT, SLOPE and SCANNER heads side NONE. -/
def headSideOk (h : HeadItem) : Bool :=
  match h.kind with
  | .sonic | .stroke => h.side.isSome
  | .slope | .scanner => h.side.isNone

/-- The counted heads of a kind and side. -/
def headsOf (hs : List HeadItem) (kind : HeadKind) (side : Option Side) : List HeadItem :=
  hs.filter fun h => decide (h.kind = kind ∧ h.side = side)

/-- R53: the page constraints of HEAD_MAP over its counted heads. -/
def headsOk (hs : List HeadItem) : Bool :=
  decide (hs.map fun h => (h.junction.code, h.port)).Nodup && hs.all headSideOk &&
  [some Side.left, some Side.right].all (fun side =>
    decide ((headsOf hs .sonic side).length ≤ 5) && decide ((headsOf hs .sonic side).map (·.position)).Nodup &&
    decide ((headsOf hs .stroke side).length ≤ 1)) &&
  decide ((headsOf hs .slope none).length ≤ 1) && decide ((headsOf hs .scanner none).length ≤ 1)

/-- R53: HEAD_MAP. -/
def headMapOk (bs : List Byte) : Bool :=
  decide (1 ≤ mapCount bs) && decide (mapCount bs ≤ 16) &&
  (List.range (mapCount bs)).all (headFieldsOk bs) && headsOk (headItems bs)

/-- R53: the length field of a filter: 0..8 or ANY. -/
def filterLengthOk (n : Nat) : Bool := decide (n ≤ 8) || n == 255

/-- R53: one filter's fields, and the page constraint on a standard identifier. -/
def filterFieldsOk (bs : List Byte) (n : Nat) : Bool :=
  decide (fieldAt bs (24 * n) 1 ≤ 1) && decide (fieldAt bs (24 * n + 1) 1 ≤ 1) &&
  filterLengthOk (fieldAt bs (24 * n + 2) 1) && decide (fieldAt bs (24 * n + 3) 1 ≤ 2) &&
  decide (fieldAt bs (24 * n + 4) 1 ≤ 1) &&
  decide (fieldAt bs (24 * n + 8) 4 < 2 ^ 29) && decide (fieldAt bs (24 * n + 12) 4 < 2 ^ 29) &&
  (fieldAt bs (24 * n + 1) 1 == 1 ||
    decide (fieldAt bs (24 * n + 8) 4 < 2 ^ 11) && decide (fieldAt bs (24 * n + 12) 4 < 2 ^ 11))

/-- R53: FILTER: all eight filters, enabled or not. -/
def filterPageOk (bs : List Byte) : Bool := (List.range 8).all (filterFieldsOk bs)

/-- R53: a bolt-on width: 0..3000 mm and a multiple of 250. -/
def boltOk (w : Nat) : Bool := decide (w ≤ 3000) && decide (w % 250 = 0)

/-- R53: a page meets its constraints. -/
def pageOk (k : PageKind) (bs : List Byte) : Bool :=
  match k with
  | .zoneMap => zoneMapOk bs
  | .headMap => headMapOk bs
  | .filter => filterPageOk bs
  | .geometry => boltOk (boltWidths bs).1 && boltOk (boltWidths bs).2

/-! ## Patches (R56) -/

/-- R56: a field a patch names: its offset in the page, its length in bytes, and its field constraint of R53. -/
structure PatchField where
  offset : Nat
  length : Nat
  ok     : Nat → Bool

/-- R56: item `i` and field `f` of a field index 16 × (i + 1) + f; absent below 16. -/
def patchItem (index : Nat) : Option (Nat × Nat) :=
  if index < 16 then none else some (index / 16 - 1, index % 16)

/-- R56: the fields of a ZONE_MAP item. -/
def zonePatch (z f : Nat) : Option PatchField :=
  if z < 24 then
    match f with
    | 0 => some ⟨itemAt z, 1, fun v => decide (v ≤ 5)⟩
    | 1 => some ⟨itemAt z + 4, 2, fun v => decide (500 ≤ v) && decide (v ≤ 6000)⟩
    | 2 => some ⟨itemAt z + 1, 1, fun v => decide (v ≤ 23)⟩
    | 3 => some ⟨itemAt z + 2, 1, fun v => decide (v ≤ 23)⟩
    | 4 => some ⟨itemAt z + 3, 1, fun v => decide (v ≤ 23)⟩
    | _ => none
  else none

/-- R56: the fields of a HEAD_MAP item. -/
def headPatch (h f : Nat) : Option PatchField :=
  if h < 16 then
    match f with
    | 0 => some ⟨itemAt h, 1, fun v => decide (v ≤ 2)⟩
    | 1 => some ⟨itemAt h + 1, 1, fun v => decide (v ≤ 6)⟩
    | 2 => some ⟨itemAt h + 2, 1, fun v => decide (1 ≤ v) && decide (v ≤ 4)⟩
    | 3 => some ⟨itemAt h + 3, 1, fun v => decide (v ≤ 2)⟩
    | 4 => some ⟨itemAt h + 4, 1, fun v => decide (v ≤ 4)⟩
    | _ => none
  else none

/-- R56: the fields of a filter; the two data mask fields accept every value. -/
def filterPatch (n f : Nat) : Option PatchField :=
  if n < 8 then
    match f with
    | 0 => some ⟨24 * n, 1, fun v => decide (v ≤ 1)⟩
    | 1 => some ⟨24 * n + 8, 4, fun v => decide (v < 2 ^ 29)⟩
    | 2 => some ⟨24 * n + 12, 4, fun v => decide (v < 2 ^ 29)⟩
    | 3 => some ⟨24 * n + 1, 1, fun v => decide (v ≤ 1)⟩
    | 4 => some ⟨24 * n + 2, 1, filterLengthOk⟩
    | 5 => some ⟨24 * n + 4, 1, fun v => decide (v ≤ 1)⟩
    | 6 => some ⟨24 * n + 16, 4, fun _ => true⟩
    | 7 => some ⟨24 * n + 20, 4, fun _ => true⟩
    | 8 => some ⟨24 * n + 3, 1, fun v => decide (v ≤ 2)⟩
    | _ => none
  else none

/-- R56: the field a page's field index names. -/
def patchField (k : PageKind) (index : Nat) : Option PatchField :=
  match k with
  | .zoneMap =>
    if index = 0 then some ⟨0, 1, fun v => decide (1 ≤ v) && decide (v ≤ 24)⟩
    else (patchItem index).bind fun p => zonePatch p.1 p.2
  | .headMap =>
    if index = 0 then some ⟨0, 1, fun v => decide (1 ≤ v) && decide (v ≤ 16)⟩
    else (patchItem index).bind fun p => headPatch p.1 p.2
  | .filter => (patchItem index).bind fun p => filterPatch p.1 p.2
  | .geometry =>
    match index with
    | 0 => some ⟨0, 2, boltOk⟩
    | 1 => some ⟨2, 2, boltOk⟩
    | _ => none

/-! ## Signed operands -/

/-- Operand A as the signed number it is (R23). -/
def Order.a (o : Order) : Int := o.operandA.toInt

/-- Operand B as the unsigned number it is (R23). -/
def Order.b (o : Order) : Nat := o.operandB.toNat

end Sys2Proof.Machine
end

