-- ==== Sys2Proof/WellFormed.lean ====
section
/-! DEFINITION. Which commands the outside can give: the bounds on what they carry. -/
namespace Sys2Proof

/-- The shared region is 1 MiB (00). -/
def regionSize : Nat := 2 ^ 20

/-- Every write of the host lies in the shared region. -/
def HostWrites.ok (h : HostWrites) : Bool := h.all fun c => decide (c.1 < regionSize)

/-- A frame of the bus (R62): a standard identifier has 11 bits, the length code has 4, a remote frame carries no data,
and a data frame carries its length, at most 8 bytes. -/
def Frame.ok (f : Frame) : Bool :=
  (f.extended || decide (f.identifier.toNat < 2 ^ 11)) && decide (f.lengthCode ≤ 15) &&
    decide (f.data.length = if f.remote then 0 else min f.lengthCode 8)

/-- A CONTROL write that is a soft reset has RESET, bit 1, set (12.1). -/
def softResetOk (value : Word) : Bool := value.getLsbD 1

/-- A temperature sample is a signed number of 0.1 °C (00 units, R125); that it has 16 bits is the model's choice (log 44). -/
def temperatureOk (t : Int) : Bool := decide (-32768 ≤ t) && decide (t ≤ 32767)

/-- A zone current is 0..2000 ‰ of the rated current (R123). -/
def currentOk (c : Nat) : Bool := decide (c ≤ 2000)

/-- A level sample is 0..1000 ‰ of the sensor's supply (R142). -/
def sampleOk (s : Nat) : Bool := decide (s ≤ 1000)

/-- The commands the outside can give. -/
def Instr.wellFormed (i : Instr) : Bool :=
  HostWrites.ok i.hostWrites &&
  match i with
  | .softReset v => softResetOk v
  | .goodFrame f => f.ok
  | .zoneSample _ t c => temperatureOk t && currentOk c
  | .confirmTimerExpiry _ c => currentOk c
  | .onTimeEnd _ s => sampleOk s
  | _ => true

end Sys2Proof
end

