-- ==== Sys2Proof/Machine/Region.lean ====
section
/-! DEFINITION. The Region Interface: registers, starting and stopping a run, the summary block and the note strip (11). -/
namespace Sys2Proof.Machine

/-! ## Shared operations -/

/-- R168: RIF reports a change of run status to every block that follows it. -/
def State.reportRun (s : State) (status : RunStatus) : State :=
  s.handAll false ([Follower.msc, .bdr, .trm, .hlc, .htc, .mru].map fun f => .runStatus f status)

/-- R168: the run status changes and the change is reported. -/
def State.setRun (s : State) (status : RunStatus) : State :=
  (s.modRif fun r => { r with runStatus := status }).reportRun status

/-- 12.2: the layout the first 16 bytes of the layout block carry. -/
def layoutOf (bs : List Byte) : Layout where
  boardOffset := fieldAt bs 0 4
  slotCount := fieldAt bs 4 2
  pageCount := fieldAt bs 6 2
  ringOffset := fieldAt bs 8 4
  stripOffset := fieldAt bs 12 4

/-- 12.2: the note read index of the layout block. -/
def readIndexOf (bs : List Byte) : Word := BitVec.ofNat 32 (fieldAt bs 16 4)

/-- R168: the five areas: layout block, summary block, board, ring and strip, as (offset, length). -/
def Layout.areas (l : Layout) : List (Nat × Nat) :=
  [(0, 64), (0x100, 256), (l.boardOffset, 48 * l.slotCount), (l.ringOffset, 4096 * l.pageCount), (l.stripOffset, 1024)]

/-- Two areas do not overlap. -/
def areasApart (a b : Nat × Nat) : Bool := decide (a.1 + a.2 ≤ b.1) || decide (b.1 + b.2 ≤ a.1)

/-- R168, step 2: every check of the layout. -/
def layoutOk (l : Layout) (readIndex : Word) : Bool :=
  l.areas.all (fun a => decide (a.1 + a.2 ≤ regionSize)) &&
  decide (l.areas.Pairwise fun a b => areasApart a b = true) &&
  decide (l.boardOffset % 8 = 0) && decide (l.ringOffset % 4096 = 0) && decide (l.stripOffset % 16 = 0) &&
  decide (8 ≤ l.slotCount) && decide (l.slotCount ≤ 128) && decide (2 ≤ l.pageCount) && decide (l.pageCount ≤ 256) &&
  decide (readIndex = 0)

/-- 12.5: the 16 bytes of a note. -/
def NoteRequest.bytes (n : NoteRequest) : List Byte :=
  [BitVec.ofNat 8 n.kind.code, n.subject, 0, 0] ++
    leBytes 4 n.value.toNat ++ leBytes 4 n.runTime.toNat ++ leBytes 4 n.chainage.toNat

/-- R172: the request handled leaves the queue and the next one follows. -/
def Rif.nextNote (r : Rif) : Rif := Rif.startNote { r with noteQueue := r.noteQueue.tail, noteOp := .none }

/-- R168, step 5: the run status becomes RUNNING, `wrote` telling whether the start-up pass wrote a slot. -/
def State.enterRunning (s : State) (wrote : Bool) : State :=
  let s := s.modRif fun r =>
    { r with outcomesWritten := 0, pagesHanded := 0, notesLost := 0, noteWriteIndex := 0, readIndexSeen := 0
             noteQueue := [], boardQuiet := false, recordsQuiet := false, runTime := 0 }
  let s := s.setRun .running
  let s := if wrote then s.setCause .outcome else s
  s.requestRewrite

/-- R167: everything takes its reset values; the shared region and the commands still waiting stay. -/
def State.resetAll (s : State) : State := { State.reset with mem := s.mem, pending := s.pending }

/-- R168, step 1: RUN written 1; the run time holds 0 through STARTING (R167). -/
def State.runWritten (s : State) : State :=
  if s.rif.runStatus = .stopped then (s.modRif fun r => { r with layoutRead := true, runTime := 0 }).setRun .starting
  else s

/-- R169: RUN written 0. -/
def State.stopWritten (s : State) : State :=
  if s.rif.runStatus = .running then s.setRun .stopping else s

/-! ## Registers -/

/-- POWER_ON_RESET (R167). -/
def execPowerOnReset (s : State) : Host.Outcome State Fault Refusal := .next s.resetAll

/-- SOFT_RESET (R167): a CONTROL write with RESET 1 acts on nothing else it carries. -/
def execSoftReset (value : Word) (s : State) : Host.Outcome State Fault Refusal :=
  .next (if softResetOk value then s.resetAll else s)

/-- RUN_START (R167, R168). -/
def execRunStart (s : State) : Host.Outcome State Fault Refusal := .next s.runWritten

/-- ORDERLY_STOP (R167, R169). -/
def execOrderlyStop (s : State) : Host.Outcome State Fault Refusal := .next s.stopWritten

/-- REGION_BASE_WRITE (R167): taken only in STOPPED; the low twelve bits are ignored. -/
def execRegionBaseWrite (value : Word) (s : State) : Host.Outcome State Fault Refusal :=
  .next (if s.rif.runStatus = .stopped then s.modRif fun r => { r with regionBase := value &&& 0xFFFFF000#32 } else s)

/-- ATTENTION_CLEAR (R171): a 1 clears its cause. -/
def execAttentionClear (value : Word) (s : State) : Host.Outcome State Fault Refusal :=
  .next (s.modRif fun r => { r with attention := r.attention &&& ~~~(value.truncate 6) })

/-- ATTENTION_ENABLE_WRITE (R171). -/
def execAttentionEnableWrite (value : Word) (s : State) : Host.Outcome State Fault Refusal :=
  .next (s.modRif fun r => { r with attentionEnable := value.truncate 6 })

/-- IGNORED_REGISTER_WRITE (R167): a write to IDENT; a RUN write in STARTING or STOPPING, or one that leaves RUN as it
reads. A RUN write that is none of these is the one that starts or stops a run (log 3). -/
def execIgnoredRegisterWrite (write : IgnoredWrite) (s : State) : Host.Outcome State Fault Refusal :=
  .next <| match write with
    | .ident _ => s
    | .run true => s.runWritten
    | .run false => s.stopWritten

/-! ## Starting and stopping -/

/-- R168, step 3: a layout that fails ends the start; nothing is written, so a rewrite left pending is dropped (log 10). -/
def State.failStart (s : State) : State :=
  ((s.modRif fun r => { r with rewritePending := false }).setCause .layout).setRun .stopped

/-- R168, step 4: a layout that passes is copied and BDR begins its start-up pass; a rewrite asked for before is issued unless
one is still in flight (log 10). -/
def State.passLayout (s : State) (l : Layout) : State :=
  let s := (s.modRif fun r => { r with layout := some l }).modBdr fun b =>
    { b with op := .startupRead 0, startupWrote := false }
  if s.rif.summaryWrite.isSome then s else s.issuePending

/-- LAYOUT_READ_DONE (R168, steps 2 to 4). BDR's activity stays IDLE through the start-up pass (log 44). -/
def execLayoutReadDone (host : HostWrites) (s : State) : Host.Outcome State Fault Refusal :=
  .next <|
    if s.rif.layoutRead then
      let s := (s.hostWrite host).modRif fun r => { r with layoutRead := false }
      let block := s.regionRead 0 64
      if layoutOk (layoutOf block) (readIndexOf block) then s.passLayout (layoutOf block) else s.failStart
    else s

/-- R169: the conditions of a complete stop. -/
def Rif.stopReady (r : Rif) : Bool :=
  r.runStatus == .stopping && r.boardQuiet && r.recordsQuiet && r.noteQueue.isEmpty && r.noteOp == .none &&
    r.summaryWrite.isNone

/-- R122: a side has taken OFF and its valve is IDLE. -/
def SideRecord.atRest (r : SideRecord) : Bool := r.modeSeen == .off && r.valve == .idle

/-- R124: HTC has taken level OFF and commands no contactor closed. -/
def Htc.atRest (h : Htc) : Bool := h.levelSeen == .off && h.zones.all fun z => !z.closed

/-- R122, R124, log 45: a run status for MSC, a side mode for LVC or a heating level for HTC, through which an orderly stop
reaches the sides and the zones. -/
def Handoff.stopsJobs : Handoff → Bool
  | .runStatus .msc _ | .sideMode _ _ | .heatingLevel _ => true
  | _ => false

/-- R122, R124, log 45: the orderly stop has reached LVC and HTC through MSC: MSC has taken STOPPING, no side mode and no
heating level is on its way, and both sides and the heating are at rest. -/
def State.jobsAtRest (s : State) : Bool :=
  s.msc.runSeen == .stopping && (s.inbox.all fun w => !w.handoff.stopsJobs) && s.lvc.sides.left.atRest &&
    s.lvc.sides.right.atRest && s.htc.atRest

/-- R122, R124, R169: the moment at which a stop is complete: the sides and the heating are at rest before the run status is
STOPPED (log 45). -/
def State.stopReady (s : State) : Bool := s.rif.stopReady && s.jobsAtRest

/-- STOP_COMPLETE (R122, R124, R169): STOPPED is reported and one last rewrite made. -/
def execStopComplete (s : State) : Host.Outcome State Fault Refusal :=
  .next (if s.stopReady then (s.setRun .stopped).issueSummary else s)

/-! ## Notes and the summary block -/

/-- R172: the note at the head of the queue is written at its place in the strip. -/
def State.issueNote (s : State) : State :=
  (s.modRif fun r => { r with noteOp := .write }).issueWrite .note
    (s.rif.noteQueue.head?.toList.map fun n =>
      (s.rif.layoutCopy.stripOffset + 16 * (s.rif.noteWriteIndex.toNat % 64), n.bytes))

/-- NOTE_READ_INDEX_DONE (R172): the note is written when the strip has room, else lost. -/
def execNoteReadIndexDone (host : HostWrites) (s : State) : Host.Outcome State Fault Refusal :=
  .next <|
    if s.rif.noteOp = .readIndex then
      let s := s.hostWrite host
      let index := BitVec.ofNat 32 (leNat (s.regionRead 16 4))
      let s := s.modRif fun r => { r with readIndexSeen := index }
      if (s.rif.noteWriteIndex - index).toNat < 64 then s.issueNote
      else ((s.modRif fun r => { r with notesLost := r.notesLost + 1 }).modRif Rif.nextNote).requestRewrite
    else s

/-- NOTE_WRITE_DONE (R172). -/
def execNoteWriteDone (s : State) : Host.Outcome State Fault Refusal :=
  .next <|
    match s.rif.noteOp, s.rif.noteQueue with
    | .write, _ :: _ =>
      let s := ((s.writeDone .note).modRif fun r => { r with noteWriteIndex := r.noteWriteIndex + 1 }).setCause .note
      (s.modRif Rif.nextNote).requestRewrite
    | _, _ => s

/-- SUMMARY_WRITE_DONE (R170): the block lands, and a pending rewrite is issued with the values of now. -/
def execSummaryWriteDone (s : State) : Host.Outcome State Fault Refusal :=
  .next <|
    match s.rif.summaryWrite with
    | some _ =>
      let s := (s.writeDone .summary).modRif fun r => { r with summaryWrite := none }
      if s.rif.layoutRead then s else s.issuePending
    | none => s

end Sys2Proof.Machine
end

