-- ==== Sys2Proof/Machine/Board.lean ====
section
/-! DEFINITION. The Board Reader: sweeps, takes, the staging list, execution and outcomes, start and stop (02). -/
namespace Sys2Proof.Machine

/-! ## Steps of the Board Reader -/

/-- R28, R40, R42: an outcome BDR itself gives, with result 0, no indicator and the present chainage and run time. -/
def State.boardOutcome (s : State) (state : SlotState) (reason : Reason) : SlotOutcome :=
  ⟨state, 0, .clear, reason, s.bdr.chainageSeen, s.now⟩

/-- R26: BDR issues a read of the slot at the cursor. -/
def Bdr.readSlot (b : Bdr) : Bdr := { b with activity := .reading, op := .slotRead b.cursor }

/-- R26: what a sweep request does. -/
def Bdr.sweepRequest (b : Bdr) : Bdr :=
  if b.runSeen = .running then
    if b.status = .running ∧ b.activity = .idle then b.readSlot else { b with pendingSweep := true }
  else b

/-- R34: the head of the staging list is due. -/
def Bdr.headDue (b : Bdr) : Bool :=
  match b.staging with
  | o :: _ => decide (o.station ≤ b.chainageSeen)
  | [] => false

/-- R37: the chain test of an order. -/
def Bdr.chainPasses (b : Bdr) (o : Order) : Bool :=
  !(b.staging.any fun e => e.takeIndex == o.takeIndex - 1) &&
    b.history.any fun e => e.takeIndex == o.takeIndex - 1 && e.state == .done

/-- An order becomes the order in execution with its owner. -/
def Bdr.setExecution (b : Bdr) (o : Order) (late : Bool) : Bdr :=
  { b with activity := .executing, execution := some ⟨o, ⟨false, false, late, false⟩, .atOwner⟩ }

/-- R36: an order begins execution; a CHAINED one that fails its chain test is SKIPPED. -/
def State.beginExecution (s : State) (o : Order) (late : Bool) : State :=
  let s := s.modBdr fun b => b.setExecution o late
  if o.chained && !s.bdr.chainPasses o then s.issueOutcome .skipped 0 .chain ⟨false, false, late, false⟩ else s

/-- R34: the head entry leaves the list and begins execution; LATE is not set. -/
def State.startDue (s : State) : State :=
  match s.bdr.staging with
  | o :: rest => (s.modBdr fun b => { b with staging := rest }).beginExecution o false
  | [] => s

/-- R42, steps 4 and 5: the next staged order is refused STOPPED, or the board is reported quiet. -/
def State.stopStep (s : State) : State :=
  match s.bdr.staging with
  | o :: rest =>
    (s.modBdr fun b =>
      { b with staging := rest, activity := .executing, execution := none
               op := .stopWrite o (s.boardOutcome .refused .stopped) }).issueSlot o.slot (s.boardOutcome .refused .stopped)
  | [] =>
    (s.modBdr fun b => { b with activity := .idle, execution := none, op := .none }).modRif
      fun r => { r with boardQuiet := true }

/-- R31: the order in execution becomes absent and BDR chooses its next step. -/
def State.chooseNext (s : State) : State :=
  let s := s.modBdr fun b => { b with execution := none, op := .none }
  if s.bdr.runSeen = .stopping then s.stopStep
  else if s.bdr.headDue then s.startDue
  else if s.bdr.sweepContinuing && s.bdr.status == .running then
    s.modBdr fun b => { b.readSlot with sweepContinuing := false }
  else if s.bdr.pendingSweep && s.bdr.status == .running then
    s.modBdr fun b => { b.readSlot with pendingSweep := false }
  else s.modBdr fun b => { b with activity := .idle, sweepContinuing := false }

/-- R37: an entry is added to the outcome history; of more than 32 the oldest goes. -/
def pushHistory (h : List HistoryEntry) (e : HistoryEntry) : List HistoryEntry := (h ++ [e]).drop ((h.length + 1) - 32)

/-- R38: the history entry of a taken order. -/
def State.addHistory (s : State) (o : Order) (state : SlotState) : State :=
  s.modBdr fun b => { b with history := pushHistory b.history ⟨o.takeIndex, state⟩ }

/-- R38: RIF counts one more outcome written. -/
def State.countOutcome (s : State) : State :=
  ((s.modRif fun r => { r with outcomesWritten := r.outcomesWritten + 1 }).setCause .outcome).requestRewrite

/-- The cursor advanced by one slot (R28, R29). -/
def State.nextCursor (s : State) : Nat := (s.bdr.cursor + 1) % s.rif.layoutCopy.slotCount

/-- R33: the list with an order put after every entry whose station is at or below its own. -/
def stageInsert (staging : List Order) (o : Order) : List Order :=
  (staging.takeWhile fun e => decide (e.station ≤ o.station)) ++
    o :: (staging.dropWhile fun e => decide (e.station ≤ o.station))

/-- R29, step 2: the first failed take check. -/
def Bdr.takeCheck (b : Bdr) (o : Order) : Option Reason :=
  match OrderKind.ofCode o.kind.toNat with
  | none => some .badKind
  | some k =>
    if !subjectOk k o then some .badSubject
    else if b.staging.any fun e => e.slot == o.slot then some .duplicateStage
    else if o.stationPresent && b.staging.any fun e => e.stamp == o.stamp then some .duplicateStamp
    else none

/-- R33: an order is staged, or refused with 16 entries in the list. -/
def State.stageOrder (s : State) (o : Order) : State :=
  if 16 ≤ s.bdr.staging.length then s.issueOutcome .refused 0 .stageFull .clear
  else
    (s.modBdr fun b =>
      { b with staging := stageInsert b.staging o, execution := none, op := .stagedWrite o.slot }).issueWrite .board
      (s.statePieces o.slot .staged)

/-- R24, R29: the take index and TAKEN are written and become visible, behind every write issued before them (log 8). -/
def State.writeTaken (s : State) (o : Order) : State :=
  (s.issueWrite .board
    ((s.slotOffset o.slot + 24, leBytes 4 o.takeIndex.toNat) :: s.statePieces o.slot .taken)).landAll

/-- R29: a take. -/
def State.takeOrder (s : State) (o : Order) : State :=
  let s := s.writeTaken o
  let cursor := s.nextCursor
  let s := s.modBdr fun b =>
    { b.setExecution o false with nextTake := b.nextTake + 1, cursor := cursor, sweepContinuing := true }
  match s.bdr.takeCheck o with
  | some reason => s.issueOutcome .refused 0 reason .clear
  | none =>
    if o.stationPresent && decide (s.bdr.chainageSeen < o.station) then s.stageOrder o
    else s.beginExecution o o.stationPresent

/-- R28: a bad check word. -/
def State.refuseCheck (s : State) (slot : Nat) : State :=
  let cursor := s.nextCursor
  ((s.modBdr fun b =>
    { b with cursor := cursor, status := .held, op := .checkWrite slot (s.boardOutcome .refused .check) }).setCause
      .held).issueSlot slot (s.boardOutcome .refused .check)

/-- R27: BDR acts on the slot it has read. -/
def State.judgeSlot (s : State) (slot : Nat) : State :=
  let bytes := s.regionRead (s.slotOffset slot) 48
  if !slotPosted bytes then
    if s.bdr.pendingSweep && s.bdr.status == .running then s.modBdr fun b => { b.readSlot with pendingSweep := false }
    else s.modBdr fun b => { b with activity := .idle, sweepContinuing := false }
  else if slotCheckGood bytes then s.takeOrder (orderOfSlot bytes slot s.bdr.nextTake)
  else s.refuseCheck slot

/-! ## Sweeps and slots -/

/-- SWEEP (R26): a write of any value. -/
def execSweep (_value : Word) (s : State) : Host.Outcome State Fault Refusal := .next (s.modBdr Bdr.sweepRequest)

/-- RESUME (R32). -/
def execResume (s : State) : Host.Outcome State Fault Refusal :=
  .next <|
    if s.bdr.runSeen = .running ∧ s.bdr.status = .held then
      s.modBdr fun b => Bdr.sweepRequest { b with status := .running, pendingSweep := false }
    else s

/-- SWEEP_TIMER_EXPIRY (R26). -/
def execSweepTimerExpiry (s : State) : Host.Outcome State Fault Refusal :=
  .next <|
    match s.bdr.sweepTimer with
    | some expiry =>
      let s := s.runTo expiry
      let timer := s.startTimer (s.settingNat Setting.sweepPeriod)
      (s.modBdr fun b => Bdr.sweepRequest { b with sweepTimer := timer }).hand .sweepExpiry
    | none => s

/-- SLOT_READ_DONE (R27). -/
def execSlotReadDone (host : HostWrites) (s : State) : Host.Outcome State Fault Refusal :=
  .next <|
    match s.bdr.op with
    | .slotRead slot =>
      let s := (s.hostWrite host).modBdr fun b => { b with op := .none }
      if s.bdr.runSeen ≠ .running then s.stopStep
      else if s.bdr.headDue then (s.modBdr fun b => { b with sweepContinuing := true }).startDue
      else s.judgeSlot slot
    | _ => s

/-- STAGED_WRITE_DONE (R33). -/
def execStagedWriteDone (s : State) : Host.Outcome State Fault Refusal :=
  .next <|
    match s.bdr.op with
    | .stagedWrite _ => (s.writeDone .board).chooseNext
    | _ => s

/-- OUTCOME_WRITE_DONE (R38; R28 for a CHECK outcome, R42 for a staged order refused at the stop). -/
def execOutcomeWriteDone (s : State) : Host.Outcome State Fault Refusal :=
  .next <|
    match s.bdr.op with
    | .outcomeWrite o =>
      match s.bdr.execution with
      | some e => (((s.writeDone .board).addHistory e.order o.state).countOutcome).chooseNext
      | none => s
    | .checkWrite _ _ => ((s.writeDone .board).countOutcome).chooseNext
    | .stopWrite order o => (((s.writeDone .board).addHistory order o.state).countOutcome).stopStep
    | _ => s

/-- CHAINAGE_REPORT_AT_BDR (R25, R34). -/
def execChainageReportAtBdr (s : State) : Host.Outcome State Fault Refusal :=
  .next <|
    match s.take fun h => match h with | .chainageToBdr _ => true | _ => false with
    | some (.chainageToBdr c, s) =>
      let s := s.modBdr fun b => { b with chainageSeen := c }
      if s.bdr.runSeen = .running ∧ s.bdr.activity = .idle ∧ s.bdr.headDue then s.startDue else s
    | _ => s

/-! ## WITHDRAW -/

/-- WITHDRAW (R40). -/
def execWithdraw (s : State) : Host.Outcome State Fault Refusal :=
  .next <|
    match s.orderOf .withdraw with
    | some o =>
      if o.a < 0 ∨ 65535 < o.a then s.finishRefused .range
      else
        match s.bdr.staging.find? fun e => e.stamp == o.operandA.truncate 16 with
        | none => s.finishRefused .notStaged
        | some e =>
          ((s.modBdr fun b =>
            { b with staging := b.staging.filter fun x => x.stamp != e.stamp
                     op := .withdrawnWrite e (s.boardOutcome .withdrawn .none) }).issueSlot e.slot
            (s.boardOutcome .withdrawn .none)).holdInFlight
    | none => s

/-- WITHDRAWN_WRITE_DONE (R40): the WITHDRAW's own outcome follows, with the withdrawn slot as result. -/
def execWithdrawnWriteDone (s : State) : Host.Outcome State Fault Refusal :=
  .next <|
    match s.bdr.op with
    | .withdrawnWrite order o =>
      let s := ((s.writeDone .board).addHistory order o.state).countOutcome
      s.finishDone (BitVec.ofNat 32 order.slot) false false false
    | _ => s

/-! ## Start and stop -/

/-- R41: the start-up pass goes on after a slot, or is reported done to RIF. -/
def State.startupNext (s : State) (slot : Nat) : State :=
  if slot + 1 < s.rif.layoutCopy.slotCount then s.modBdr fun b => { b with op := .startupRead (slot + 1) }
  else (s.modBdr fun b => { b with op := .none }).enterRunning s.bdr.startupWrote

/-- STARTUP_SLOT_READ_DONE (R41). -/
def execStartupSlotReadDone (host : HostWrites) (s : State) : Host.Outcome State Fault Refusal :=
  .next <|
    match s.bdr.op with
    | .startupRead slot =>
      let s := s.hostWrite host
      if slotHeld (s.regionRead (s.slotOffset slot) 48) then
        let o : SlotOutcome := ⟨.refused, 0, .clear, .abandoned, s.bdr.chainageSeen, 0⟩
        (s.modBdr fun b => { b with op := .startupWrite slot o, startupWrote := true }).issueSlot slot o
      else s.startupNext slot
    | _ => s

/-- STARTUP_WRITE_DONE (R41, R168). -/
def execStartupWriteDone (s : State) : Host.Outcome State Fault Refusal :=
  .next <|
    match s.bdr.op with
    | .startupWrite slot _ => (s.writeDone .board).startupNext slot
    | _ => s

/-- R25: the values of a RUN start; chainage seen is unchanged. -/
def Bdr.runStart (b : Bdr) (timer : Timer) : Bdr :=
  { Bdr.reset with chainageSeen := b.chainageSeen, sweepTimer := timer, runSeen := .running }

/-- R42: BDR at a change of run status. -/
def State.boardRun (s : State) (status : RunStatus) : State :=
  match status with
  | .running => s.modBdr fun b => b.runStart (s.startTimer (s.settingNat Setting.sweepPeriod))
  | .stopping =>
    let s := s.modBdr fun b =>
      { b with runSeen := .stopping, sweepTimer := none, pendingSweep := false, sweepContinuing := false }
    if s.bdr.activity = .idle then s.stopStep else s
  | .starting => s.modBdr fun b => { b with runSeen := .starting, sweepTimer := none }
  | .stopped => s.modBdr fun b => { b with runSeen := .stopped, sweepTimer := none }

/-- RUN_STATUS_AT_BDR (R25, R42). -/
def execRunStatusAtBdr (s : State) : Host.Outcome State Fault Refusal :=
  .next <|
    match s.take fun h => match h with | .runStatus .bdr _ => true | _ => false with
    | some (.runStatus _ status, s) => s.boardRun status
    | _ => s

end Sys2Proof.Machine
end

