-- ==== Sys2Proof/Machine/Modes.lean ====
section
/-! DEFINITION. The Machine State Controller: transitions, HALT, and the effective mode of every job (01). -/
namespace Sys2Proof.Machine

/-! ## Effective modes -/

/-- R18: a levelling side's effective mode. HOLD is never requested (R15); it gives OFF here. -/
def effectiveSide (requested : SideMode) (state : MachineState) (reference : ReferenceStatus) : SideMode :=
  match state, requested with
  | .standby, _ | .safe, _ | _, .off | _, .hold => .off
  | _, .manual => .manual
  | .pave, .auto => if reference = .lost then .hold else .auto
  | _, .auto => .hold

/-- R19: the effective heating level. -/
def effectiveHeating : MachineState → HeatLevel
  | .standby | .safe => .off
  | .heatup | .pave | .pause => .full
  | .transit => .hold

/-- R20: a feed channel's effective mode. -/
def effectiveFeed (requested : FeedMode) (state : MachineState) (travel : TravelStatus) : FeedMode :=
  match requested, state with
  | .manual, .heatup | .manual, .pave => .manual
  | .autoLevel, .pave | .autoLevel, .pause => .autoLevel
  | .autoFlow, .pave => if travel = .live then .autoFlow else .autoLevel
  | .autoFlow, .pause => .autoLevel
  | _, _ => .off

/-- R21: the effective records mode. -/
def effectiveRecords : MachineState → RecordsMode
  | .pave => .run
  | .pause => .stopmark
  | _ => .off

/-- R17: every effective mode, from the requested modes, the machine state, the reference statuses LVC keeps (R18) and
the travel status seen (R20). -/
def Msc.recompute (m : Msc) (left right : ReferenceStatus) : Msc :=
  { m with
    sideEffective := ⟨effectiveSide m.sideRequested.left m.state left, effectiveSide m.sideRequested.right m.state right⟩
    feedEffective := m.feedRequested.map fun r => effectiveFeed r m.state m.travelSeen
    heating := effectiveHeating m.state
    records := effectiveRecords m.state }

/-- R17: a side's new effective mode goes to LVC and to HLC. -/
def sideHands (side : Side) (old new : SideMode) : List Handoff :=
  if old = new then [] else [.sideMode side new, .sideModeToHlc side new]

/-- R21: a change to or from STOPMARK reaches MRU with the start or the end of the pause, and makes no hand-off of its own. -/
def pauseCarries (old new : RecordsMode) : Bool := old == .stopmark || new == .stopmark

/-- R17: the hand-offs of a recompute: a job whose effective mode has not changed receives nothing. -/
def modeHands (old new : Msc) : List Handoff :=
  sideHands .left old.sideEffective.left new.sideEffective.left ++
  sideHands .right old.sideEffective.right new.sideEffective.right ++
  ([0, 1, 2, 3] : List (Fin 4)).flatMap (fun c =>
    if old.feedEffective[c] = new.feedEffective[c] then [] else [Handoff.feedMode c new.feedEffective[c]]) ++
  (if old.heating = new.heating then [] else [.heatingLevel new.heating]) ++
  (if old.records = new.records then []
   else (if pauseCarries old.records new.records then [] else [Handoff.recordsMode new.records]) ++
    [.recordsModeToHlc new.records])

/-- R22: some effective mode has changed. -/
def modesChanged (old new : Msc) : Bool :=
  decide (old.sideEffective ≠ new.sideEffective) || decide (old.feedEffective ≠ new.feedEffective) ||
    decide (old.heating ≠ new.heating) || decide (old.records ≠ new.records)

/-- The Machine State Controller with every effective mode recomputed. -/
def State.recomputedMsc (s : State) : Msc := s.msc.recompute s.lvc.sides.left.status s.lvc.sides.right.status

/-- R17: a recompute that stands alone, with its hand-offs. -/
def State.recompute (s : State) : State :=
  (s.handAll false (modeHands s.msc s.recomputedMsc)).modMsc fun _ => s.recomputedMsc

/-! ## Transitions -/

/-- R4: the causes of a change of machine state. -/
inductive ChangeCause
  | order | autoPause | autoResume | halt | runStop
  deriving DecidableEq, Repr

/-- 12.4: the cause in bits 15 to 8 of STATE_CHANGED's value. -/
def changeCode : ChangeCause → Nat
  | .order => 0
  | .autoPause => 1
  | .autoResume => 2
  | .halt => 3
  | .runStop => 4

/-- R7: the auto-pause timer started for PAUSE_DELAY while the travel status seen is LIVE, else stopped. -/
def State.autoPauseStart (s : State) : Timer :=
  if s.msc.travelSeen = .live then s.startTimer (s.settingNat Setting.pauseDelay) else none

/-- R5: a transition that SPS takes as a PAVE entry. -/
def isPaveEntry (old target : MachineState) : Bool :=
  target == .pave && (old == .heatup || old == .transit)

/-- R4, R10, R21: the hand-offs of a transition, less the PAVE entry itself; the end of a pause carries the records mode that
follows it. -/
def transitionHands (old new : Msc) : List Handoff :=
  [.machineToTrm new.state, .machineToFdc new.state] ++
  (if old.state = .pause then [.pauseEnd (old.pauseCause.getD .order) new.records] else []) ++
  (if new.state = .pause then [.pauseStart (new.pauseCause.getD .order)] else []) ++
  modeHands old new

/-- R4: the machine state controller after a transition. -/
def State.movedMsc (s : State) (target : MachineState) (pause : Option PauseCause) : Msc :=
  Msc.recompute
    { s.msc with state := target, pauseCause := pause
                 autoPause := if target = .pave then s.autoPauseStart else none }
    s.lvc.sides.left.status s.lvc.sides.right.status

/-- R4: a change of machine state. R4 lists the hand-off of the new state to RIF before the note; the rewrite of the summary
that shows it is requested last, after the note and ATTENTION.SAFE (log 11, DESIGN CHOICE). -/
def State.transition (s : State) (target : MachineState) (pause : Option PauseCause) (cause : ChangeCause) : State :=
  let old := s.msc
  let new := s.movedMsc target pause
  let entry := isPaveEntry old.state target
  let s := s.modMsc fun _ => new
  let s := if entry then s.hand .paveEntry else s
  let s := s.handAll entry (transitionHands old new)
  let s := s.postNote .stateChanged target.code (BitVec.ofNat 32 (old.state.code + 256 * changeCode cause))
  let s := if target = .safe then s.setCause .safe else s
  s.requestRewrite

/-! ## SET_STATE and CLEAR_SAFE -/

/-- R2: the pair of present state and target is in the table; PAUSE to PAUSE only with cause AUTO. -/
def transitionListed (present : MachineState) (pause : Option PauseCause) (target : MachineState) : Bool :=
  match present, target with
  | .standby, .heatup | .standby, .transit | .heatup, .pave | .transit, .pave | .pave, .pause | .pause, .pave
  | .heatup, .transit | .pave, .transit | .pause, .transit
  | .heatup, .standby | .pave, .standby | .pause, .standby | .transit, .standby => true
  | .pause, .pause => pause == some .auto
  | _, _ => false

/-- R2: the pages a row of the table names are VALID. -/
def State.pagesReady (s : State) (present target : MachineState) : Bool :=
  match present, target with
  | .standby, .heatup => s.sps.zoneMap.valid
  | .heatup, .pave | .transit, .pave => s.sps.zoneMap.valid && s.sps.headMap.valid && s.sps.geometry.valid
  | _, _ => true

/-- R3: the first failed check of a SET_STATE. One that reaches MSC when BDR has taken RUNNING and MSC has not is judged and
carried out as in RUNNING (log 46(h), DESIGN CHOICE). -/
def State.setStateCheck (s : State) (target : MachineState) (halt : HaltLevel) : Option Reason :=
  if s.msc.runSeen = .stopping then some .stopped
  else if !transitionListed s.msc.state s.msc.pauseCause target then some .wrongState
  else if s.msc.state = .standby ∧ target = .heatup ∧ (s.msc.haltSeen = .asserted ∨ halt = .asserted) then
    some .haltActive
  else if !s.pagesReady s.msc.state target then some .pageInvalid
  else none

/-- R2: the effect of a SET_STATE that passes its checks: the cause converted, or a transition. -/
def State.setStateEffect (s : State) (target : MachineState) : State :=
  if s.msc.state = .pause ∧ target = .pause then s.modMsc fun m => { m with pauseCause := some .order }
  else s.transition target (if target = .pause then some .order else none) .order

/-- SET_STATE (R2, R3). `halt` is the level of the HALT input at the moment of execution. -/
def execSetState (halt : HaltLevel) (s : State) : Host.Outcome State Fault Refusal :=
  .next <|
    match s.orderOf .setState with
    | some o =>
      match MachineState.ofCode o.subject.toNat with
      | some target =>
        match s.setStateCheck target halt with
        | some reason => s.finishRefused reason
        | none =>
          (s.setStateEffect target).finishDone (BitVec.ofNat 32 s.msc.state.code) false false false
      | none => s.finishRefused .badSubject
    | none => s

/-- R13: the first failed check of a CLEAR_SAFE. -/
def State.clearSafeCheck (s : State) (halt : HaltLevel) : Option Reason :=
  if s.msc.runSeen = .stopping then some .stopped
  else if s.msc.state ≠ .safe then some .wrongState
  else if s.msc.haltSeen = .asserted ∨ halt = .asserted then some .haltActive
  else none

/-- CLEAR_SAFE (R13). -/
def execClearSafe (halt : HaltLevel) (s : State) : Host.Outcome State Fault Refusal :=
  .next <|
    match s.orderOf .clearSafe with
    | some _ =>
      match s.clearSafeCheck halt with
      | some reason => s.finishRefused reason
      | none =>
        (s.transition .standby none .order).finishDone (BitVec.ofNat 32 MachineState.safe.code) false false false
    | none => s

/-! ## The HALT input -/

/-- R1, R11: MSC makes transitions and posts HALT notes in these run statuses. -/
def Msc.acting (m : Msc) : Bool := m.runSeen == .running || m.runSeen == .stopping

/-- R11: an assertion of the HALT input, taken by MSC; a change of the level seen asks for a rewrite in RUNNING and STOPPING
(R170), requested after the note and the transition (log 11). -/
def State.assertHalt (s : State) : State :=
  let changed := decide (s.msc.haltSeen ≠ .asserted)
  let s := s.modMsc fun m => { m with haltSeen := .asserted }
  let s :=
    if s.msc.acting then
      let s := s.postNote .halt 0 1
      if s.msc.state = .safe then s else s.transition .safe none .halt
    else s
  if changed && s.rif.counting then s.requestRewrite else s

/-- HALT_ASSERTED (R11). -/
def execHaltAsserted (s : State) : Host.Outcome State Fault Refusal := .next s.assertHalt

/-- HALT_RELEASED (R11, R170): the rewrite is requested after the note (log 11). -/
def execHaltReleased (s : State) : Host.Outcome State Fault Refusal :=
  .next <|
    let changed := decide (s.msc.haltSeen ≠ .released)
    let s := s.modMsc fun m => { m with haltSeen := .released }
    let s := if s.msc.acting then s.postNote .halt 0 0 else s
    if changed && s.rif.counting then s.requestRewrite else s

/-! ## Pause, travel and reference reports -/

/-- AUTO_PAUSE_TIMER_EXPIRY (R8). -/
def execAutoPauseTimerExpiry (s : State) : Host.Outcome State Fault Refusal :=
  .next <|
    match s.msc.autoPause with
    | some expiry =>
      let s := (s.runTo expiry).modMsc fun m => { m with autoPause := none }
      if s.msc.state = .pave ∧ s.msc.travelSeen = .live then s.transition .pause (some .auto) .autoPause else s
    | none => s

/-- CHAINAGE_ADVANCE_AT_MSC (R7, R9). -/
def execChainageAdvanceAtMsc (s : State) : Host.Outcome State Fault Refusal :=
  .next <|
    match s.take fun h => match h with | .advanceToMsc => true | _ => false with
    | some (_, s) =>
      if s.msc.state = .pave then s.modMsc fun m => { m with autoPause := s.autoPauseStart }
      else if s.msc.state = .pause ∧ s.msc.pauseCause = some .auto then s.transition .pave none .autoResume
      else s
    | none => s

/-- R22: a recompute that stands alone has the summary rewritten when an effective mode changes. -/
def State.recomputeAndShow (s : State) : State :=
  if modesChanged s.msc s.recomputedMsc then s.recompute.requestRewrite else s.recompute

/-- R7: the auto-pause timer at a report of the travel status. -/
def State.travelTimerMove (s : State) : State :=
  if s.msc.state = .pave then s.modMsc fun m => { m with autoPause := s.autoPauseStart } else s

/-- TRAVEL_STATUS_AT_MSC (R1, R7, R20). -/
def execTravelStatusAtMsc (s : State) : Host.Outcome State Fault Refusal :=
  .next <|
    match s.take fun h => match h with | .travelToMsc _ => true | _ => false with
    | some (.travelToMsc status, s) =>
      ((s.modMsc fun m => { m with travelSeen := status }).travelTimerMove).recomputeAndShow
    | _ => s

/-- REFERENCE_STATUS_AT_MSC (R18). -/
def execReferenceStatusAtMsc (s : State) : Host.Outcome State Fault Refusal :=
  .next <|
    match s.take fun h => match h with | .referenceToMsc _ => true | _ => false with
    | some (_, s) => s.recomputeAndShow
    | none => s

/-! ## The run status -/

/-- R14: the end of the run: STANDBY, no transition, no note; TRM and FDC are handed the state. -/
def State.endOfRun (s : State) : State :=
  (s.modMsc fun m => { m with state := .standby, pauseCause := none, autoPause := none }).handAll false
    [.machineToTrm .standby, .machineToFdc .standby]

/-- R14: MSC at a change of run status. -/
def State.modeRun (s : State) (status : RunStatus) (halt : HaltLevel) : State :=
  let s := s.modMsc fun m => { m with runSeen := status }
  match status with
  | .running => if halt = .asserted then s.assertHalt else s
  | .stopping => if s.msc.state = .standby ∨ s.msc.state = .safe then s else s.transition .standby none .runStop
  | .stopped => s.endOfRun
  | .starting => s

/-- RUN_STATUS_AT_MSC (R14). `halt` is the level of the HALT input at the moment. -/
def execRunStatusAtMsc (halt : HaltLevel) (s : State) : Host.Outcome State Fault Refusal :=
  .next <|
    match s.take fun h => match h with | .runStatus .msc _ => true | _ => false with
    | some (.runStatus _ status, s) => s.modeRun status halt
    | _ => s

end Sys2Proof.Machine
end

