-- ==== Sys2Proof/Machine/Store.lean ====
section
/-! DEFINITION. The Setting and Page Store: value orders, the PAVE entry, and the configuration pages (03). -/
namespace Sys2Proof.Machine

/-! ## Settings -/

/-- R43: the latest value of an entry. -/
def SettingEntry.latest (e : SettingEntry) : Int := e.pending.getD e.value

/-- R46: a value lies outside a setting's soft band. -/
def outsideBand (band : Option (Int × Int)) (v : Int) : Bool :=
  match band with
  | some (low, high) => decide (v < low) || decide (high < v)
  | none => false

/-- R45: in this state a written value becomes the pending value of an entry of the class. -/
def becomesPending (cls : ApplyClass) (state : MachineState) : Bool :=
  cls == .atPave && (state == .pave || state == .pause)

/-- R45: in this state a write to an entry of the class is refused. -/
def writeBarred (cls : ApplyClass) (state : MachineState) : Bool := cls == .standbyOnly && state != .standby

/-- R51: what a changed value in effect is handed on as. -/
def settingHands (i : SettingId) (old new : Int) : List Handoff :=
  if old = new then []
  else if i = Setting.budgetHost ∨ i = Setting.fallbackPercent then [.budgetSetting]
  else if i = Setting.liveStroke then [.liveStroke]
  else []

/-- R45: an entry after a write. -/
def SettingEntry.written (e : SettingEntry) (v : Int) (pends : Bool) : SettingEntry :=
  if pends then { e with pending := some v } else ⟨v, none⟩

/-- R45, R51: a value is stored, and a changed value in effect handed on. -/
def State.storeSetting (s : State) (i : SettingId) (v : Int) (pends : Bool) : State :=
  let e := s.sps.entries[i]
  let s := s.modSps fun p => { p with entries := p.entries.set i (e.written v pends) }
  s.handAll false (settingHands i e.value (e.written v pends).value)

/-- R46: the value order's write of `x`, with `result` of the value written and the latest value before as result. -/
def State.valueOrder (s : State) (o : Order) (x : Int) (result : Int → Int → Int) : State :=
  let i := o.settingId
  let spec := settingSpec i
  let v := clamp spec.low spec.high x
  let pends := becomesPending spec.applyClass s.msc.state
  if writeBarred spec.applyClass s.msc.state then s.finishRefused .wrongState
  else if o.strict ∧ v ≠ x then s.finishRefused .range
  else
    (s.storeSetting i v pends).finishDone (BitVec.ofInt 32 (result v s.sps.entries[i].latest))
      (decide (v ≠ x)) (outsideBand spec.softBand v) pends

/-- SET_VALUE (R46). -/
def execSetValue (s : State) : Host.Outcome State Fault Refusal :=
  .next <|
    match s.orderOf .setValue with
    | some o => s.valueOrder o o.a fun written _ => written
    | none => s

/-- ADJUST_VALUE (R47). -/
def execAdjustValue (s : State) : Host.Outcome State Fault Refusal :=
  .next <|
    match s.orderOf .adjustValue with
    | some o => s.valueOrder o (s.sps.entries[o.settingId].latest + o.a) fun written _ => written
    | none => s

/-- SWAP_VALUE (R48). -/
def execSwapValue (s : State) : Host.Outcome State Fault Refusal :=
  .next <|
    match s.orderOf .swapValue with
    | some o => s.valueOrder o o.a fun _ latest => latest
    | none => s

/-- READ_VALUE (R49). -/
def execReadValue (s : State) : Host.Outcome State Fault Refusal :=
  .next <|
    match s.orderOf .readValue with
    | some o =>
      s.finishDone (BitVec.ofInt 32 (s.setting o.settingId)) false false s.sps.entries[o.settingId].pending.isSome
    | none => s

/-- R50: an entry at the PAVE entry. -/
def SettingEntry.applied (e : SettingEntry) (cls : ApplyClass) : SettingEntry :=
  match cls, e.pending with
  | .atPave, some v => ⟨v, none⟩
  | _, _ => e

/-- R50: every pending AT_PAVE value put in effect. -/
def appliedEntries (entries : Vector SettingEntry 47) : Vector SettingEntry 47 :=
  Vector.ofFn fun i => (entries[i]).applied (settingSpec i).applyClass

/-- PAVE_ENTRY_AT_SPS (R50, R51). -/
def execPaveEntryAtSps (s : State) : Host.Outcome State Fault Refusal :=
  .next <|
    match s.take Handoff.isPaveEntry with
    | some (_, s) =>
      let old := s.sps.entries
      let new := appliedEntries old
      (s.modSps fun p => { p with entries := new }).handAll false
        (([Setting.budgetHost, Setting.fallbackPercent, Setting.liveStroke] : List SettingId).flatMap fun i =>
          settingHands i old[i].value new[i].value)
    | none => s

/-! ## Pages -/

/-- R58: a page newly in force, handed to its owner with the contents it has at that moment: a PATCH_PAGE before the owner takes
the hand-off does not reach what the owner uses (log 46(a), DESIGN CHOICE). -/
def inForceHand (k : PageKind) (bs : List Byte) : Handoff :=
  match k with
  | .zoneMap => .zoneMapInForce (zoneItems bs)
  | .headMap => .headMapInForce (headItems bs)
  | .filter => .filterInForce (filterItems bs)
  | .geometry => .geometryInForce (boltWidths bs).1 (boltWidths bs).2

/-- R58: a page withdrawn, handed to its owner. -/
def withdrawnHand : PageKind → Handoff
  | .zoneMap => .zoneMapWithdrawn
  | .headMap => .headMapWithdrawn
  | .filter => .filterWithdrawn
  | .geometry => .geometryWithdrawn

/-- R54, R56: the page may be loaded or patched in this state. -/
def pageOpen (k : PageKind) (state : MachineState) : Bool := k == .filter || state == .standby

/-- A page's CRC as a result. -/
def Page.crcResult (p : Page) : Word := p.crc.zeroExtend 32

/-- R54: the whole image lies within the region at a multiple of 8. -/
def imagePlaceOk (k : PageKind) (offset : Int) : Bool :=
  decide (0 ≤ offset) && decide (offset % 8 = 0) && decide (offset + k.imageLength ≤ regionSize)

/-- LOAD_PAGE (R54): the order stays in execution while the image is read. -/
def execLoadPage (s : State) : Host.Outcome State Fault Refusal :=
  .next <|
    match s.orderOf .loadPage with
    | some o =>
      if !pageOpen o.page s.msc.state then s.finishRefused .wrongState
      else if !imagePlaceOk o.page o.a then s.finishRefused .range
      else (s.modSps fun p => { p with load := some ⟨o.page, o.a.toNat, o.slot⟩ }).holdInFlight
    | none => s

/-- R55: SPS judges the image it has read. -/
def State.judgeImage (s : State) (k : PageKind) (image : List Byte) : State :=
  let body := image.take k.bodyLength
  if (crc16 body).toNat ≠ fieldAt image k.bodyLength 2 then s.finishRefused .check
  else if !pageOk k body then s.finishRefused .pageContent
  else
    ((s.modSps fun p => p.setPage k ⟨body, true⟩).hand (inForceHand k body)).finishDone
      (Page.crcResult ⟨body, true⟩) false false false

/-- IMAGE_READ_DONE (R55). -/
def execImageReadDone (host : HostWrites) (s : State) : Host.Outcome State Fault Refusal :=
  .next <|
    match s.sps.load with
    | some l =>
      let s := (s.hostWrite host).modSps fun p => { p with load := none }
      s.judgeImage l.kind (s.regionRead l.offset l.kind.imageLength)
    | none => s

/-- R56: a field of a page is written and VALID cleared. -/
def Page.patched (p : Page) (f : PatchField) (v : Nat) : Page := ⟨putAt p.bytes f.offset (leBytes f.length v), false⟩

/-- PATCH_PAGE (R56). -/
def execPatchPage (s : State) : Host.Outcome State Fault Refusal :=
  .next <|
    match s.orderOf .patchPage with
    | some o =>
      if !pageOpen o.page s.msc.state then s.finishRefused .wrongState
      else
        match if o.a < 0 then none else patchField o.page o.a.toNat with
        | none => s.finishRefused .range
        | some f =>
          if !f.ok o.b then s.finishRefused .range
          else
            let old := s.sps.page o.page
            let new := old.patched f o.b
            let s := s.modSps fun p => p.setPage o.page new
            let s := if old.valid then s.hand (withdrawnHand o.page) else s
            s.finishDone new.crcResult false false false
    | none => s

/-- CONFIRM_PAGE (R57). -/
def execConfirmPage (s : State) : Host.Outcome State Fault Refusal :=
  .next <|
    match s.orderOf .confirmPage with
    | some o =>
      let page := s.sps.page o.page
      if !pageOk o.page page.bytes then s.finishRefused .pageContent
      else if o.b ≠ page.crc.toNat then s.finishRefused .check
      else
        let s :=
          if page.valid then s
          else (s.modSps fun p => p.setPage o.page { page with valid := true }).hand (inForceHand o.page page.bytes)
        s.finishDone page.crcResult false false false
    | none => s

end Sys2Proof.Machine
end

