-- ==== Sys2Proof/Machine/Travel.lean ====
section
/-! DEFINITION. The Travel Monitor: the machine bus, filters, travel frames, chainage and travel status (04). -/
namespace Sys2Proof.Machine

/-! ## Shared operations -/

/-- R59: TRM takes frames in these run statuses (R60). -/
def Trm.taking (t : Trm) : Bool := (t.runSeen == .running || t.runSeen == .stopping) && t.busState == .listening

/-- R61, R71, R74: the machine state seen is PAVE or PAUSE. -/
def Trm.paving (t : Trm) : Bool := t.machineSeen == .pave || t.machineSeen == .pause

/-- R73: speed set, and a change handed to FDC. -/
def State.setSpeed (s : State) (speed : Half) : State :=
  if s.trm.speed = speed then s
  else (s.modTrm fun t => { t with speed := speed }).hand (.speedToFdc speed.toNat)

/-- R59, R68: TRM reports what an event that found its record at `old` changed: a new bus state to RIF, a new travel status to
MSC, MRU and RIF. The event has set all its fields before, so that a summary rewritten for either shows both. -/
def State.reportTravel (s : State) (old : Trm) : State :=
  let s := if s.trm.busState = old.busState then s else s.requestRewrite
  if s.trm.travel = old.travel then s
  else (s.handAll false [.travelToMsc s.trm.travel, .travelToMru s.trm.travel]).requestRewrite

/-- R69, R70: the last count absent and bad step reported cleared. -/
def Trm.forgetCount (t : Trm) : Trm := { t with lastCount := none, badStepReported := false }

/-! ## Matching -/

/-- R66: a filter matches a frame. -/
def Filter.accepts (f : Filter) (fr : Frame) : Bool :=
  f.enabled && ((fr.identifier.zeroExtend 32 ^^^ f.identifier) &&& f.mask) == 0 && f.extended == fr.extended &&
    (match f.length with
      | none => true
      | some n => n == fr.data.length) &&
    (match f.dataMask with
      | none => true
      | some m => (List.zipWith (fun d k => d &&& k) fr.data m).any fun b => b != 0)

/-- R66: the purpose of the first filter that matches. -/
def Trm.match (t : Trm) (fr : Frame) : Option Nat :=
  match t.filterUse with
  | none => none
  | some fs => (fs.find? fun f => f.accepts fr).map (·.purpose)

/-! ## TRAVEL frames -/

/-- R71: the chainage after a step; it saturates. -/
def advancedChainage (chainage : Word) (step : Nat) : Word :=
  BitVec.ofNat 32 (min (chainage.toNat + step) 0xFFFFFFFF)

/-- R71: a forward step of 1..MAX_STEP. -/
def State.applyStep (s : State) (step : Nat) : State :=
  let c := advancedChainage s.trm.chainage step
  if s.trm.paving ∧ c ≠ s.trm.chainage then
    (s.modTrm fun t => { t with chainage := c }).handAll false [.chainageToBdr c, .advanceToMru c, .advanceToMsc]
  else s

/-- R68: the travel timer restarts and the travel status becomes LIVE. R68 gives no order between the note TRAVEL_RESTORED and
the report of LIVE; the note is posted first, then LIVE is reported (log 11, DESIGN CHOICE). -/
def State.travelSeen (s : State) : State :=
  let period := s.settingNat Setting.travelTimeout
  let old := s.trm
  let s := s.modTrm fun t =>
    { t with travel := .live, travelTimer := some ⟨s.now + BitVec.ofNat 32 period, period⟩, outageStart := none }
  let s :=
    match old.travel, old.outageStart with
    | .silent, some start | .lost, some start => s.postNote .travelRestored 0 (s.now - start)
    | _, _ => s
  s.reportTravel old

/-- R70: a bad step. -/
def State.badStep (s : State) (step : Nat) : State :=
  if s.trm.badStepReported then s
  else (s.postNote .badStep 0 (BitVec.ofNat 32 step)).modTrm fun t => { t with badStepReported := true }

/-- R69, R70: the step rules. -/
def State.travelStep (s : State) (count : Half) (forward : Bool) (speed : Half) : State :=
  let last := s.trm.lastCount
  let s := s.modTrm fun t => { t with lastCount := some count }
  match last with
  | none => s
  | some c =>
    let step := (count - c).toNat
    if !forward then s.setSpeed 0
    else if s.settingNat Setting.maxStep < step then s.badStep step
    else
      let s := (s.setSpeed speed).modTrm fun t => { t with badStepReported := false }
      if step = 0 then s else s.applyStep step

/-- A two-byte field of a frame. -/
def frameHalf (data : List Byte) (offset : Nat) : Half := BitVec.ofNat 16 (fieldAt data offset 2)

/-- R67, R68: a TRAVEL frame. -/
def State.travelFrame (s : State) (data : List Byte) : State :=
  if data.length < 5 then s
  else (s.travelSeen).travelStep (frameHalf data 0) (fieldAt data 2 1 == 0) (frameHalf data 3)

/-- R67, R75: a GENERATOR frame. -/
def State.generatorFrame (s : State) (data : List Byte) : State :=
  if data.length < 2 then s
  else
    let report : PowerReport := ⟨fieldAt data 0 2, s.now⟩
    (s.modTrm fun t => { t with generator := some report }).hand (.generatorReport report)

/-- R67, R76: a CONSOLE_MARK frame. -/
def State.consoleFrame (s : State) (data : List Byte) : State :=
  if data.length < 2 then s else s.hand (.consoleMark (frameHalf data 0) s.now s.trm.chainage)

/-- GOOD_FRAME (R62, R66). -/
def execGoodFrame (frame : Frame) (s : State) : Host.Outcome State Fault Refusal :=
  .next <|
    if s.trm.taking then
      let s := s.modTrm fun t => { t with errorCounter := t.errorCounter - 1 }
      if frame.remote then s
      else
        match s.trm.match frame with
        | some 0 => s.travelFrame frame.data
        | some 1 => s.generatorFrame frame.data
        | some 2 => s.consoleFrame frame.data
        | _ => s
    else s

/-! ## Bus errors -/

/-- R63: the bus becomes UNRELIABLE: steps 1 and 2 set the fields, then the note, then the reports (log 11). -/
def State.busLost (s : State) : State :=
  let old := s.trm
  let start := if old.travel = .silent ∨ old.travel = .lost then old.outageStart else some s.now
  let s := s.modTrm fun t =>
    { t.forgetCount with
      busState := .unreliable, errorCounter := 32, travel := .lost, outageStart := start, travelTimer := none }
  ((s.postNote .busUnreliable 0 (BitVec.ofNat 32 old.travel.code)).reportTravel old).setSpeed 0

/-- BUS_ERROR (R62, R63). -/
def execBusError (s : State) : Host.Outcome State Fault Refusal :=
  .next <|
    if s.trm.taking then
      if 31 ≤ s.trm.errorCounter then s.busLost
      else s.modTrm fun t => { t with errorCounter := t.errorCounter + 1 }
    else s

/-- TRAVEL_TIMER_EXPIRY (R72): the fields are set, then the note is posted, then SILENT is reported (log 11). -/
def execTravelTimerExpiry (s : State) : Host.Outcome State Fault Refusal :=
  .next <|
    match s.trm.travelTimer with
    | some timer =>
      let s := (s.runTo timer.expiry).modTrm fun t => { t with travelTimer := none }
      if s.trm.travel = .live then
        let old := s.trm
        let s := s.modTrm fun t => { t.forgetCount with travel := .silent, outageStart := some timer.expiry }
        ((s.postNote .travelSilent 0 (BitVec.ofNat 32 timer.period)).reportTravel old).setSpeed 0
      else s
    | none => s

/-! ## Orders -/

/-- REARM_BUS (R64). R64 has no row for a bus still IDLE (TRM has not yet taken STARTING): there the counter becomes 0, the bus
stays IDLE and the order is DONE with the counter it had (log 44, DESIGN CHOICE). -/
def execRearmBus (s : State) : Host.Outcome State Fault Refusal :=
  .next <|
    match s.orderOf .rearmBus with
    | some _ =>
      let old := s.trm
      let s := s.modTrm fun t =>
        if t.busState = .unreliable then { t with busState := .listening, errorCounter := 0, travel := .silent }
        else { t with errorCounter := 0 }
      (s.reportTravel old).finishDone (BitVec.ofNat 32 old.errorCounter) false false false
    | none => s

/-- SET_CHAINAGE (R74). BDR takes the outcome before the chainage report, so that the order's own finish chainage is the
chainage seen before it (log 46(b), DESIGN CHOICE). -/
def execSetChainage (s : State) : Host.Outcome State Fault Refusal :=
  .next <|
    match s.orderOf .setChainage with
    | some o =>
      if s.trm.paving then s.finishRefused .wrongState
      else if s.bdr.staging ≠ [] then s.finishRefused .stagedPending
      else
        ((s.modTrm fun t => { t with chainage := o.operandB }).hand (.chainageToBdr o.operandB)).finishDone
          s.trm.chainage false false false
    | none => s

/-! ## Hand-offs -/

/-- MACHINE_STATE_AT_TRM (R61). -/
def execMachineStateAtTrm (s : State) : Host.Outcome State Fault Refusal :=
  .next <|
    match s.take fun h => match h with | .machineToTrm _ => true | _ => false with
    | some (.machineToTrm state, s) => s.modTrm fun t => { t with machineSeen := state }
    | _ => s

/-- R60: TRM at STARTING. -/
def State.travelStarting (s : State) : State :=
  let old := s.trm
  let s := s.modTrm fun t =>
    let lost := t.busState = .unreliable
    { t.forgetCount with
      busState := if lost then .unreliable else .listening
      travel := if lost then .lost else .none
      outageStart := if lost then some 0 else none
      travelTimer := none, generator := none }
  ((s.reportTravel old).setSpeed 0).hand .generatorAbsence

/-- R60: TRM at STOPPED; making the last count absent clears bad step reported (R70). -/
def State.travelStopped (s : State) : State :=
  let old := s.trm
  let s := s.modTrm fun t =>
    { t.forgetCount with travel := if t.travel = .lost then .lost else .none, travelTimer := none }
  (s.reportTravel old).setSpeed 0

/-- R60: TRM at a change of run status. -/
def State.travelRun (s : State) (status : RunStatus) : State :=
  let s := s.modTrm fun t => { t with runSeen := status }
  match status with
  | .starting => s.travelStarting
  | .stopped => s.travelStopped
  | .running | .stopping => s

/-- RUN_STATUS_AT_TRM (R60). -/
def execRunStatusAtTrm (s : State) : Host.Outcome State Fault Refusal :=
  .next <|
    match s.take fun h => match h with | .runStatus .trm _ => true | _ => false with
    | some (.runStatus _ status, s) => s.travelRun status
    | _ => s

/-- FILTER_HANDOFF (R65). -/
def execFilterHandoff (s : State) : Host.Outcome State Fault Refusal :=
  .next <|
    match s.take fun h => match h with | .filterInForce _ | .filterWithdrawn => true | _ => false with
    | some (.filterInForce filters, s) => s.modTrm fun t => { t with filterUse := some filters }
    | some (.filterWithdrawn, s) => s.modTrm fun t => { t with filterUse := none }
    | _ => s

end Sys2Proof.Machine
end

