-- ==== Sys2Proof/Machine/Link.lean ====
section
/-! DEFINITION. The Head Link Controller: characters, junctions, the head table and the link scheduler (05). -/
namespace Sys2Proof.Machine

/-! ## Tables -/

/-- A junction's record. -/
def Hlc.junction (h : Hlc) : JunctionId → Junction
  | .left => h.junctions.left
  | .right => h.junctions.right
  | .centre => h.junctions.centre

/-- A junction's record replaced. -/
def Hlc.setJunction (h : Hlc) (j : JunctionId) (r : Junction) : Hlc :=
  match j with
  | .left => { h with junctions := { h.junctions with left := r } }
  | .right => { h with junctions := { h.junctions with right := r } }
  | .centre => { h with junctions := { h.junctions with centre := r } }

/-- The junctions in the order R92 probes them. -/
def allJunctions : List JunctionId := [.left, .right, .centre]

/-- R92: the scheduler runs. -/
def Hlc.scheduling (h : Hlc) : Bool := (h.runSeen == .running || h.runSeen == .stopping) && h.mapInForce

/-- The index of the scanner in the head table. -/
def Hlc.scannerIndex (h : Hlc) : Option Nat := h.heads.findIdx? fun x => x.kind == .scanner

/-- The state of a head; absent outside the table. -/
def Hlc.headState (h : Hlc) (i : Nat) : Option HeadState := (h.heads[i]?).map (·.state)

/-- The state of the scanner; absent when the map holds none. -/
def Hlc.scannerState (h : Hlc) : Option HeadState :=
  match h.scannerIndex with
  | some i => h.headState i
  | none => none

/-- A head's record changed. -/
def Hlc.modHead (h : Hlc) (i : Nat) (f : Head → Head) : Hlc := { h with heads := h.heads.modify i f }

/-- The indices of the heads that satisfy a test, in map order. -/
def Hlc.indicesOf (h : Hlc) (p : Head → Bool) : List Nat :=
  (List.range h.heads.length).filter fun i => (h.heads[i]?).any p

/-- R93: a levelling head. -/
def Head.levelling (x : Head) : Bool := x.kind == .sonic || x.kind == .slope

/-- R93, R94: no transaction is issued to a head in these states. -/
def Head.closed (x : Head) : Bool := x.state == .dropped || x.state == .mismatch

/-! ## Characters and outcomes (R77 to R79) -/

/-- R77: a character is not in error: odd parity and a stop bit. -/
def charGood (c : LinkChar) : Bool :=
  c.stop && (List.range 8).foldl (fun p i => p ^^ c.data.getLsbD i) c.parity

/-- 12.8: the answers. -/
inductive Answer
  | ackPlain | ackChecked | nakEmpty | nakLatched
  deriving DecidableEq, Repr

/-- 12.8: the answer a character carries; a character in error or of no answer's code carries none (log 16). -/
def charAnswer (c : LinkChar) : Option Answer :=
  if !charGood c then none
  else
    match c.data.toNat with
    | 0x21 => some .ackPlain
    | 0x22 => some .ackChecked
    | 0x41 => some .nakEmpty
    | 0x42 => some .nakLatched
    | _ => none

/-- R78: a read, with the number of its data characters; 0 for a write. -/
def LinkCommand.readLength : LinkCommand → Nat
  | .reading => 3
  | .status => 2
  | .line => 128
  | .jstatus => 1
  | .trigger | .reference | .clear | .setMode => 0

/-- R77: a character the part sends: odd parity and a stop bit. -/
def sentChar (b : Byte) : LinkChar := ⟨b, (List.range 8).foldl (fun p i => p ^^ b.getLsbD i) true, true⟩

/-- 12.8: the byte of a SELECT. -/
def Transaction.select (t : Transaction) : Byte :=
  BitVec.ofNat 8 (t.junction.code * 64 + t.port * 8 + if t.command.readLength = 0 then 0 else 4)

/-- R78, R173: the check over SELECT, command and data. -/
def Transaction.check (t : Transaction) (data : List Byte) : Byte :=
  crc8 (t.select :: BitVec.ofNat 8 t.command.code :: data)

/-- R79, R84: an answer on which the transaction goes on: an ACK in the mode expected, or either ACK on a SET_MODE. -/
def Transaction.accepts (t : Transaction) (mode : LinkMode) : Bool := t.command == .setMode || t.expected == some mode

/-- R78, R79: what the part sends after an ACK in a mode it accepts: the command and, on a write, the data, with the check in
checked mode. On a read the junction sends the rest. -/
def Transaction.bytesAfterAck (t : Transaction) (mode : LinkMode) : List Byte :=
  BitVec.ofNat 8 t.command.code ::
    (if t.command.readLength = 0 then t.payload ++ (if mode = .checked then [t.check t.payload] else []) else [])

/-- R77 to R79: the characters the part sends in a transaction: SELECT and, once an ACK it accepts has come in good order, what
follows. After a NAK, an ACK in the wrong mode, an answer in error or none it sends nothing more. -/
def Transaction.sends (t : Transaction) (received : List LinkChar) : List LinkChar :=
  (t.select :: (match received with
    | [] => []
    | c :: _ =>
      match charAnswer c with
      | some .ackPlain => if t.accepts .plain then t.bytesAfterAck .plain else []
      | some .ackChecked => if t.accepts .checked then t.bytesAfterAck .checked else []
      | _ => [])).map sentChar

/-- R79: the outcome and data of what follows an ACK in a mode. -/
def Transaction.afterAck (t : Transaction) (mode : LinkMode) (rest : List LinkChar) : TxOutcome × List Byte :=
  let n := t.command.readLength
  if n = 0 then (.good, [])
  else
    let wanted := rest.take (if mode = .checked then n + 1 else n)
    let data := (wanted.take n).map (·.data)
    if rest.length < (if mode = .checked then n + 1 else n) then (.timeout, [])
    else if !wanted.all charGood then (.charError, [])
    else if mode = .checked ∧ (wanted.drop n).map (·.data) ≠ [t.check data] then (.charError, [])
    else (.good, data)

/-- R79: the outcome of a transaction and the data it read, from the characters received. -/
def Transaction.judge (t : Transaction) (received : List LinkChar) : TxOutcome × List Byte :=
  match received with
  | [] => (.timeout, [])
  | c :: rest =>
    match charAnswer c with
    | none => (.charError, [])
    | some .nakLatched => (.nakLatched, [])
    | some .nakEmpty => (.nakEmpty, [])
    | some .ackPlain => if t.accepts .plain then t.afterAck .plain rest else (.modeMismatch, [])
    | some .ackChecked => if t.accepts .checked then t.afterAck .checked rest else (.modeMismatch, [])

/-! ## Hand-offs to the consumers (R91) -/

/-- R93: a round member is handed to LVC. -/
def State.deliver (s : State) (round i : Nat) (outcome : DeliveryOutcome) : State :=
  match s.hlc.headState i with
  | some st => s.hand (.delivery ⟨round, i, outcome, st⟩)
  | none => s

/-- R95: a scanner request is answered to MRU, with the head's state. -/
def State.answerScanner (s : State) (answer : ScannerAnswer) : State :=
  s.hand (.scannerAnswer answer s.hlc.scannerState)

/-- R92, R95: every scanner request among these is answered as not issued. -/
def State.refuseScanner (s : State) (requests : List LinkRequest) : State :=
  s.handAll false (requests.filterMap fun r =>
    match r with
    | .scanner _ _ => some (Handoff.scannerAnswer .notIssued s.hlc.scannerState)
    | _ => none)

/-- R91: a failure of head `i` that answers no request of a consumer, a head probe's or the scanner's STATUS read's, is handed
to the consumer of the head's kind as failed, with the head's state (log 18). -/
def State.handFailed (s : State) (i : Nat) (x : Head) : State :=
  match s.hlc.headState i, x.kind, x.side with
  | some st, .sonic, _ | some st, .slope, _ => s.hand (.headFailedToLvc i st)
  | some st, .stroke, some side => s.hand (.strokePoll side .failed st)
  | some st, .scanner, _ => s.hand (.scannerAnswer .statusFailed (some st))
  | _, _, _ => s

/-- The hand-off of a head's change of state to the consumer of its kind. -/
def Head.stateHand (x : Head) (i : Nat) : List Handoff :=
  match x.kind, x.side with
  | .sonic, _ | .slope, _ => [.headStateToLvc i x.state]
  | .stroke, some side => [.strokeState side x.state]
  | .stroke, none => []
  | .scanner, _ => [.scannerState (some x.state)]

/-- The request in its quiet interval, which still waits. -/
def Hlc.chosen (h : Hlc) : List LinkRequest :=
  match h.line with
  | .quiet r => [r]
  | _ => []

/-- The requests of head `i`, probes apart. -/
def LinkRequest.ofHead (i : Nat) : LinkRequest → Bool
  | .member k | .stroke k | .scannerStatus k | .scanner k _ => k == i
  | _ => false

/-- A request chosen and not yet begun is taken back where it satisfies a test. -/
def Hlc.unchoose (h : Hlc) (p : LinkRequest → Bool) : Hlc :=
  match h.line with
  | .quiet r => if p r then { h with line := .free } else h
  | _ => h

/-- R92: the requests of a head that has become DROPPED or MISMATCH are dropped, scanner requests being answered; the
probe of a DROPPED head stays. A round member dropped so is handed as not polled (log 17). -/
def State.dropHead (s : State) (i : Nat) (keepProbe : Bool) : State :=
  let waiting := s.hlc.chosen ++ s.hlc.scanner
  let member := s.hlc.members.contains i || s.hlc.chosen.contains (.member i)
  let s := s.refuseScanner (waiting.filter (LinkRequest.ofHead i))
  let s := if member then s.deliver s.hlc.roundNumber i .notPolled else s
  s.modHlc fun h =>
    Hlc.unchoose
      { h with members := h.members.filter (· != i), strokes := h.strokes.filter (· != i)
               scanner := h.scanner.filter fun r => !LinkRequest.ofHead i r
               probes := if keepProbe then h.probes else h.probes.filter (· != .headProbe i) }
      fun r => LinkRequest.ofHead i r || (!keepProbe && r == .headProbe i)

/-- R91: a head's change of state, when there is one, is handed on; entering DROPPED or MISMATCH drops its requests. -/
def State.announceHead (s : State) (i : Nat) (old : HeadState) : State :=
  match s.hlc.heads[i]? with
  | some x =>
    if x.state = old then s
    else
      let s := s.handAll false (x.stateHand i)
      if x.closed then s.dropHead i (x.state == .dropped) else s
  | none => s

/-! ## Charges (R88 to R90) -/

/-- R88: the counter after a charge. -/
def chargedCounter (counter : Nat) : TxOutcome → Nat
  | .good => counter - 1
  | .timeout | .charError | .nakEmpty => min 16 (counter + 1)
  | .modeMismatch | .nakLatched => counter

/-- R88: the state after a charge, and its note. -/
def chargedState (state : HeadState) (counter : Nat) : HeadState × Option NoteKind :=
  match state with
  | .active => if 8 ≤ counter then (.suspect, some .headSuspect) else (.active, none)
  | .suspect =>
    if 16 ≤ counter then (.dropped, some .headDropped) else if counter < 4 then (.active, none) else (.suspect, none)
  | .unconfirmed => if 16 ≤ counter then (.dropped, some .headDropped) else (.unconfirmed, none)
  | .dropped => (.dropped, none)
  | .mismatch => (.mismatch, none)

/-- A head's counter and state are set and the note, if any, posted with a value. -/
def State.setHead (s : State) (i counter : Nat) (state : HeadState) (note : Option NoteKind) (value : Nat) : State :=
  let s := s.modHlc fun h => h.modHead i fun x => { x with counter := counter, state := state }
  match note with
  | some k => s.postNote k i (BitVec.ofNat 32 value)
  | none => s

/-- R88: a head is charged. -/
def State.chargeHead (s : State) (i : Nat) (x : Head) (outcome : TxOutcome) : State :=
  let c := chargedCounter x.counter outcome
  s.setHead i c (chargedState x.state c).1 (chargedState x.state c).2 c

/-- 12.8: whether STATUS data shows the kind of the map. -/
def statusKindOk (x : Head) (data : List Byte) : Bool := fieldAt data 0 1 == x.kind.code

/-- R89: a confirming STATUS read that ended GOOD is charged and compared with the map. -/
def State.confirmHead (s : State) (i : Nat) (x : Head) (data : List Byte) : State :=
  let c := chargedCounter x.counter .good
  if !statusKindOk x data then s.setHead i c .mismatch (some .headMismatch) (fieldAt data 0 1)
  else if !(fieldAt data 1 1).testBit 0 then s.setHead i c .unconfirmed none 0
  else if c < 8 then s.setHead i c .active none 0
  else s.setHead i c .suspect (some .headSuspect) c

/-- R90: a probe of a DROPPED head is judged. -/
def State.probeHead (s : State) (i : Nat) (x : Head) (outcome : TxOutcome) (data : List Byte) : State :=
  match outcome with
  | .good =>
    if !statusKindOk x data then s.setHead i x.counter .mismatch (some .headMismatch) (fieldAt data 0 1)
    else if x.counter - 4 < 8 then s.setHead i (x.counter - 4) .active (some .headReadmitted) (x.counter - 4)
    else s.setHead i (x.counter - 4) .dropped none 0
  | .timeout | .charError | .nakEmpty => s.setHead i (min 16 (x.counter + 1)) .dropped none 0
  | .modeMismatch | .nakLatched => s

/-! ## Junctions (R81 to R86) -/

/-- R82: the first step of a sequence. -/
def SequenceKind.first : SequenceKind → SequenceStep
  | .sync => .setMode
  | .recover => .clear

/-- R82, R92: a junction's next step is queued as housekeeping while the scheduler runs; class 1 holds one for each junction. -/
def Hlc.queueStep (h : Hlc) (j : JunctionId) : Hlc :=
  if h.scheduling && !h.housekeeping.contains (.step j) then { h with housekeeping := h.housekeeping ++ [.step j] } else h

/-- A junction's sequence begins, or begins again, and its first step is queued. -/
def Hlc.beginSequence (h : Hlc) (j : JunctionId) (state : JunctionState) (kind : SequenceKind) : Hlc :=
  (h.setJunction j { h.junction j with state := state, sequence := some ⟨kind, kind.first⟩ }).queueStep j

/-- R83: a junction becomes DOWN. -/
def State.junctionDown (s : State) (j : JunctionId) (code : Nat) : State :=
  let now := s.now
  let s := s.modHlc fun h =>
    { h.setJunction j ⟨.down, 3, (h.junction j).modeSeen, none, some now⟩ with
      housekeeping := h.housekeeping.filter (· != .step j) }
  s.postNote .junctionDown j.code (BitVec.ofNat 32 code)

/-- R83, R84: a failure charged to a junction: DOWN at the third, else the sequence begins again, as SYNC in RESYNC when
the mode was wrong. -/
def State.junctionFails (s : State) (j : JunctionId) (code : Nat) (wrongMode : Bool) : State :=
  let r := s.hlc.junction j
  if 3 ≤ r.failures + 1 then s.junctionDown j code
  else
    let kind := if wrongMode then .sync else (r.sequence.map (·.kind)).getD .recover
    let state := if wrongMode then .resync else r.state
    s.modHlc fun h => (h.setJunction j { r with failures := r.failures + 1 }).beginSequence j state kind

/-- R83: the last step of a sequence has succeeded. -/
def Hlc.junctionReady (h : Hlc) (j : JunctionId) : Hlc :=
  h.setJunction j { h.junction j with state := .ready, failures := 0, sequence := none }

/-- R82: the next step of a sequence is queued. -/
def Hlc.nextStep (h : Hlc) (j : JunctionId) (kind : SequenceKind) (step : SequenceStep) : Hlc :=
  (h.setJunction j { h.junction j with sequence := some ⟨kind, step⟩ }).queueStep j

/-- 12.8: the mode a SET_MODE sets. -/
def modeOfPayload (payload : List Byte) : LinkMode := if fieldAt payload 0 1 = 1 then .checked else .plain

/-- 12.8: the mode JSTATUS data shows. -/
def statusMode (data : List Byte) : LinkMode := if (fieldAt data 0 1).testBit 0 then .checked else .plain

/-- R83: the command of a step. -/
def SequenceStep.command : SequenceStep → LinkCommand
  | .setMode => .setMode
  | .clear => .clear
  | .jstatus => .jstatus

/-- R83: a housekeeping step is judged. A RUN start may have begun the sequence again while it was on the line: one that ends
GOOD then counts where its command is that of the new sequence's present step, else it moves nothing; one that fails is charged
as a step of the new sequence (log 17, DESIGN CHOICE). -/
def State.housekeepingStep (s : State) (t : Transaction) (j : JunctionId) (outcome : TxOutcome) (data : List Byte) :
    State :=
  let r := s.hlc.junction j
  match r.sequence with
  | none => s
  | some q =>
    if outcome ≠ .good then s.junctionFails j outcome.code (outcome == .modeMismatch)
    else if t.command ≠ q.step.command then s
    else
      match q.step with
      | .setMode =>
        s.modHlc fun h => Hlc.nextStep (h.setJunction j { r with modeSeen := some (modeOfPayload t.payload) }) j q.kind .clear
      | .clear =>
        match q.kind with
        | .recover => s.modHlc fun h => h.junctionReady j
        | .sync => s.modHlc fun h => h.nextStep j q.kind .jstatus
      | .jstatus =>
        if some (statusMode data) ≠ r.modeSeen then s.junctionFails j 6 true
        else if (fieldAt data 0 1).testBit 1 then s.junctionFails j 6 false
        else s.modHlc fun h => h.junctionReady j

/-- R84: what a head transaction tells of its junction. -/
def State.headJunction (s : State) (j : JunctionId) (outcome : TxOutcome) : State :=
  if (s.hlc.junction j).state ≠ .ready then s
  else
    match outcome with
    | .good | .nakEmpty => s
    | .timeout | .charError | .nakLatched => s.modHlc fun h => h.beginSequence j .latched .recover
    | .modeMismatch => s.junctionFails j outcome.code true

/-- R85: a junction probe is judged; a junction no longer DOWN is left alone (log 18). -/
def State.junctionProbed (s : State) (t : Transaction) (j : JunctionId) (outcome : TxOutcome) : State :=
  let r := s.hlc.junction j
  if r.state = .down ∧ outcome = .good then
    let s := s.modHlc fun h => h.setJunction j ⟨.ready, 0, some (modeOfPayload t.payload), none, none⟩
    s.postNote .junctionRestored j.code (s.now - r.downSince.getD 0)
  else s

/-! ## The scheduler (R92) -/

/-- R92: a head request is chosen while its junction is READY or DOWN. -/
def Hlc.choosable (h : Hlc) (i : Nat) : Bool :=
  match h.heads[i]? with
  | some x => (h.junction x.junction).state == .ready || (h.junction x.junction).state == .down
  | none => false

/-- R92: whether a request may be chosen now. -/
def Hlc.requestReady (h : Hlc) : LinkRequest → Bool
  | .step _ | .orderedProbe _ | .junctionProbe _ => true
  | .member i | .stroke i | .scannerStatus i | .scanner i _ | .headProbe i => h.choosable i

/-- The waiting requests, highest class first, each class in its order. -/
def Hlc.waiting (h : Hlc) : List LinkRequest :=
  h.housekeeping ++ h.members.map .member ++ h.strokes.map .stroke ++ h.scanner.take 1 ++ h.probes

/-- R92: the request the scheduler chooses. -/
def Hlc.pick (h : Hlc) : Option LinkRequest := h.waiting.find? h.requestReady

/-- A request leaves its class; no other class holds it. -/
def Hlc.remove (h : Hlc) (r : LinkRequest) : Hlc :=
  { h with
    housekeeping := h.housekeeping.erase r
    members := match r with | .member i => h.members.erase i | _ => h.members
    strokes := match r with | .stroke i => h.strokes.erase i | _ => h.strokes
    scanner := h.scanner.erase r
    probes := h.probes.erase r }

/-- R92: the head of a request lies behind a junction that is DOWN. -/
def Hlc.headDown (h : Hlc) (i : Nat) : Bool :=
  match h.heads[i]? with
  | some x => (h.junction x.junction).state == .down
  | none => false

/-- R88, R91, R92: a request for a head is missed: charged as a failure whatever the head's state, handed on as failed (a probe
or a scanner's STATUS as log 18 says), and a change of state handed on. -/
def State.miss (s : State) (r : LinkRequest) (i : Nat) : State :=
  match s.hlc.heads[i]? with
  | none => s
  | some x =>
    let s := s.chargeHead i x .timeout
    let s :=
      match r, x.side, s.hlc.headState i with
      | .member _, _, _ => s.deliver s.hlc.roundNumber i .failed
      | .stroke _, some side, some st => s.hand (.strokePoll side .failed st)
      | .scanner _ _, _, _ => s.answerScanner .failed
      | .scannerStatus _, _, _ | .headProbe _, _, _ => s.handFailed i x
      | _, _, _ => s
    s.announceHead i x.state

/-- R95: the scanner has not been confirmed, so a request for it is not issued. -/
def Hlc.unissuable (h : Hlc) (i : Nat) : Bool :=
  h.headState i != some .active && h.headState i != some .suspect

/-- R92, R95: a chosen request that needs no line is resolved; the others wait out the quiet interval. -/
def State.resolve (s : State) (r : LinkRequest) : Option State :=
  match r with
  | .step _ | .orderedProbe _ | .junctionProbe _ => none
  | .scanner i _ =>
    if s.hlc.unissuable i then some (s.answerScanner .notIssued)
    else if s.hlc.headDown i then some (s.miss r i) else none
  | .member i | .stroke i | .scannerStatus i | .headProbe i =>
    if s.hlc.headDown i then some (s.miss r i) else none

/-- R92: the scheduler chooses until a request needs the line or none is left; `fuel` bounds the requests resolved. -/
def State.choose : Nat → State → State
  | 0, s => s
  | fuel + 1, s =>
    match s.hlc.pick with
    | none => s
    | some r =>
      let s := s.modHlc fun h => h.remove r
      match s.resolve r with
      | some s => State.choose fuel s
      | none => s.modHlc fun h => { h with line := .quiet r }

/-- The number of requests waiting. -/
def Hlc.load (h : Hlc) : Nat :=
  h.housekeeping.length + h.members.length + h.strokes.length + h.scanner.length + h.probes.length

/-- R92: the probe timer runs while the scheduler runs and a junction is DOWN or a head DROPPED. -/
def Hlc.probing (h : Hlc) : Bool :=
  h.scheduling && ((allJunctions.any fun j => (h.junction j).state == .down) || h.heads.any fun x => x.state == .dropped)

/-- R92: the probe timer settled. -/
def State.settleProbe (s : State) : State :=
  let start := s.startTimer (s.settingNat Setting.probeInterval)
  s.modHlc fun h => { h with probeTimer := if h.probing then h.probeTimer <|> start else none }

/-- R92: with the line free the scheduler chooses; the probe timer follows the tables. -/
def State.schedule (s : State) : State :=
  (if s.hlc.line = .free then s.choose (s.hlc.load + 1) else s).settleProbe

/-! ## Issue and end of a transaction -/

/-- 12.8, R82: the data of a SET_MODE to the target mode, LINK_CHECKED read now. -/
def State.modePayload (s : State) : List Byte := [if s.setting Setting.linkChecked = 1 then 1 else 0]

/-- R89: STATUS in place of the next transaction of an UNCONFIRMED head. -/
def Head.pollCommand (x : Head) : LinkCommand := if x.state = .unconfirmed then .status else .reading

/-- R78: what MRU asks for as a command. -/
def ScannerAsk.command : ScannerAsk → LinkCommand
  | .trigger => .trigger
  | .line => .line
  | .reference => .reference

/-- A transaction to a junction itself, at port 7; the mode seen now is the mode expected at its SELECT (R81). -/
def State.junctionTransaction (s : State) (r : LinkRequest) (j : JunctionId) : Transaction :=
  let step : Option SequenceStep := if r = .step j then (s.hlc.junction j).sequence.map (·.step) else none
  let expected := (s.hlc.junction j).modeSeen
  match step with
  | some .clear => ⟨r, s.hlc.roundNumber, j, 7, .clear, [0], expected, false⟩
  | some .jstatus => ⟨r, s.hlc.roundNumber, j, 7, .jstatus, [], expected, false⟩
  | _ => ⟨r, s.hlc.roundNumber, j, 7, .setMode, s.modePayload, expected, false⟩

/-- A transaction to a head. The command is settled here, by the head's state at the quiet interval's end, but for a scanner
request: chosen while the scanner was up it is issued as asked, though CLEAR_FAULT has made the scanner UNCONFIRMED in the quiet
interval (log 43(i), DESIGN CHOICE). -/
def State.headTransaction (s : State) (r : LinkRequest) (x : Head) : Transaction :=
  let command :=
    match r with
    | .scanner _ ask => ask.command
    | .scannerStatus _ | .headProbe _ => .status
    | _ => x.pollCommand
  ⟨r, s.hlc.roundNumber, x.junction, x.port, command,
    if command = .trigger ∨ command = .reference then [0] else [], (s.hlc.junction x.junction).modeSeen, false⟩

/-- R92: the transaction of a chosen request. -/
def State.transactionOf (s : State) (r : LinkRequest) : Option Transaction :=
  match r with
  | .step j | .orderedProbe j | .junctionProbe j => some (s.junctionTransaction r j)
  | .member i | .stroke i | .scannerStatus i | .scanner i _ | .headProbe i =>
    (s.hlc.heads[i]?).map (s.headTransaction r)

/-- Indices in rising order with one more put in its place. -/
def insertIndex (i : Nat) (l : List Nat) : List Nat := (l.takeWhile (· < i)) ++ i :: (l.dropWhile (· < i))

/-- R84, R92: a request that has not been served stays waiting while the scheduler runs, whatever its head's state has become; a
stroke poll whose next one waits already is served once (R94); one whose round or scheduler has ended is handed on. -/
def State.requeue (s : State) (t : Transaction) : State :=
  match t.request with
  | .member i =>
    if s.hlc.scheduling && s.hlc.roundInProgress && s.hlc.roundNumber == t.round then
      s.modHlc fun h => { h with members := insertIndex i h.members }
    else s.deliver t.round i .notPolled
  | .stroke i =>
    if s.hlc.scheduling && !s.hlc.strokes.contains i then s.modHlc fun h => { h with strokes := i :: h.strokes } else s
  | .scannerStatus _ =>
    if s.hlc.scheduling then s.modHlc fun h => { h with scanner := t.request :: h.scanner } else s
  | .scanner _ _ =>
    if s.hlc.scheduling then s.modHlc fun h => { h with scanner := t.request :: h.scanner }
    else s.answerScanner .notIssued
  | .headProbe _ =>
    if s.hlc.scheduling then s.modHlc fun h => { h with probes := t.request :: h.probes } else s
  | .step _ | .orderedProbe _ | .junctionProbe _ => s

/-- 12.8: a READING's value and status. -/
def readingOf (data : List Byte) : Half × ReadingStatus :=
  (BitVec.ofNat 16 (fieldAt data 0 2), if (fieldAt data 2 1).testBit 0 then .invalid else .valid)

/-- 12.8: the 64 points of a LINE. -/
def pointsOf (data : List Byte) : List Half := (List.range 64).map fun i => BitVec.ofNat 16 (fieldAt data (2 * i) 2)

/-- R91: a READING that ended GOOD sets the last reading. -/
def State.keepReading (s : State) (i : Nat) (t : Transaction) (outcome : TxOutcome) (data : List Byte) : State :=
  if t.command = .reading ∧ outcome = .good then
    s.modHlc fun h =>
      h.modHead i fun x => { x with lastReading := (readingOf data).1, readingStatus := (readingOf data).2 }
  else s

/-- R91, R93 to R95: what a head transaction produced is handed to its consumer, with the head's state after the charge. A round
member's STATUS read is handed as not polled (log 37); a GOOD STATUS of a stroke head or of the scanner hands nothing. -/
def State.handResult (s : State) (i : Nat) (x : Head) (t : Transaction) (outcome : TxOutcome) (data : List Byte) : State :=
  match t.request with
  | .member _ =>
    s.deliver t.round i
      (if t.command = .status then .notPolled
       else if outcome = .good then .reading (readingOf data).1 (readingOf data).2 else .failed)
  | .stroke _ =>
    match x.side, s.hlc.headState i with
    | some side, some st =>
      if outcome ≠ .good then s.hand (.strokePoll side .failed st)
      else if t.command = .reading then s.hand (.strokePoll side (.reading (readingOf data).1 (readingOf data).2) st)
      else s
    | _, _ => s
  | .scanner _ ask =>
    s.answerScanner (if outcome = .good then .completed ask (if ask = .line then pointsOf data else []) else .failed)
  | _ => if outcome = .good then s else s.handFailed i x

/-- R88, R89: the head of a transaction is charged and its state settled. -/
def State.settleHead (s : State) (i : Nat) (x : Head) (t : Transaction) (outcome : TxOutcome) (data : List Byte) : State :=
  if t.command = .status ∧ outcome = .good ∧ x.state = .unconfirmed then s.confirmHead i x data
  else s.chargeHead i x outcome

/-- R84, R88, R91: the end of a round member's, stroke poll's or scanner transaction. -/
def State.headEnds (s : State) (i : Nat) (t : Transaction) (outcome : TxOutcome) (data : List Byte) : State :=
  match s.hlc.heads[i]? with
  | none => s
  | some x =>
    let s := s.headJunction t.junction outcome
    if outcome = .nakLatched ∨ outcome = .modeMismatch then s.requeue t
    else
      ((((s.settleHead i x t outcome data).keepReading i t outcome data).handResult i x t outcome data)).announceHead i
        x.state

/-- R88, R90: a head probe is judged: by R90 while the head is DROPPED; a head that CLEAR_FAULT or a RUN start has made
UNCONFIRMED since is charged and confirmed as by any STATUS read (log 18). -/
def State.judgeProbe (s : State) (i : Nat) (x : Head) (t : Transaction) (outcome : TxOutcome) (data : List Byte) : State :=
  if x.state = .dropped then s.probeHead i x outcome data else s.settleHead i x t outcome data

/-- R84, R90, R91: the end of a head probe. -/
def State.headProbeEnds (s : State) (i : Nat) (t : Transaction) (outcome : TxOutcome) (data : List Byte) : State :=
  match s.hlc.heads[i]? with
  | none => s
  | some x =>
    let s := s.headJunction t.junction outcome
    if outcome = .nakLatched ∨ outcome = .modeMismatch then s.requeue t
    else
      let s := s.judgeProbe i x t outcome data
      (if outcome = .good then s else s.handFailed i x).announceHead i x.state

/-- Log 17: a transaction begun before the head table was rebuilt only frees the line; a scanner's is handed as failed. -/
def State.staleEnds (s : State) (t : Transaction) : State :=
  match t.request with
  | .scanner _ _ => s.answerScanner .failed
  | _ => s

/-- The end of a transaction with its outcome and data: it is judged by its request, and the line is free. -/
def State.transactionEnds (s : State) (t : Transaction) (outcome : TxOutcome) (data : List Byte) : State :=
  let s := s.modHlc fun h => { h with line := .free }
  State.schedule <|
    if t.stale then s.staleEnds t
    else
      match t.request with
      | .step j => s.housekeepingStep t j outcome data
      | .orderedProbe j | .junctionProbe j => s.junctionProbed t j outcome
      | .headProbe i => s.headProbeEnds i t outcome data
      | .member i | .stroke i | .scannerStatus i | .scanner i _ => s.headEnds i t outcome data

/-- The end of a transaction whose request satisfies a test, judged from the characters received. -/
def State.receive (s : State) (p : LinkRequest → Bool) (received : List LinkChar) : State :=
  match s.hlc.line with
  | .busy t =>
    if p t.request then
      let judged := t.judge received
      s.transactionEnds t judged.1 judged.2
    else s
  | _ => s

/-- QUIET_INTERVAL_END (R77, R92): the chosen transaction starts. -/
def execQuietIntervalEnd (s : State) : Host.Outcome State Fault Refusal :=
  .next <|
    match s.hlc.line with
    | .quiet r =>
      match s.transactionOf r with
      | some t => s.modHlc fun h => { h with line := .busy t }
      | none => State.schedule (s.modHlc fun h => { h with line := .free })
    | _ => s

/-- CHARACTER_TIMEOUT (R77, R79). -/
def execCharacterTimeout (s : State) : Host.Outcome State Fault Refusal :=
  .next <|
    match s.hlc.line with
    | .busy t => s.transactionEnds t .timeout []
    | _ => s

/-- HOUSEKEEPING_END (R83). -/
def execHousekeepingEnd (received : List LinkChar) (s : State) : Host.Outcome State Fault Refusal :=
  .next (s.receive (fun r => match r with | .step _ => true | _ => false) received)

/-- JUNCTION_PROBE_END (R85). -/
def execJunctionProbeEnd (received : List LinkChar) (s : State) : Host.Outcome State Fault Refusal :=
  .next (s.receive (fun r => match r with | .orderedProbe _ | .junctionProbe _ => true | _ => false) received)

/-- HEAD_PROBE_END (R90). -/
def execHeadProbeEnd (received : List LinkChar) (s : State) : Host.Outcome State Fault Refusal :=
  .next (s.receive (fun r => match r with | .headProbe _ => true | _ => false) received)

/-- HEAD_TRANSACTION_END (R84, R88, R89, R91). -/
def execHeadTransactionEnd (received : List LinkChar) (s : State) : Host.Outcome State Fault Refusal :=
  .next (s.receive
    (fun r => match r with | .member _ | .stroke _ | .scannerStatus _ | .scanner _ _ => true | _ => false) received)

/-! ## Rounds, stroke polls and probes (R92 to R94) -/

/-- R93, step 1: the round in progress is ended; each member not yet issued is handed as not polled. -/
def State.endRound (s : State) : State :=
  let chosen := s.hlc.chosen.filterMap fun r => match r with | .member i => some i | _ => none
  let s := (chosen ++ s.hlc.members).foldl (fun s i => s.deliver s.hlc.roundNumber i .notPolled) s
  s.modHlc fun h =>
    Hlc.unchoose { h with members := [], roundInProgress := false }
      fun r => match r with | .member _ => true | _ => false

/-- R93, step 2: a round is wanted. -/
def Hlc.roundWanted (h : Hlc) : Bool :=
  h.sideModes.left != .off || h.sideModes.right != .off || (h.heads.any fun x => x.kind == .stroke) ||
    ((h.heads.any fun x => x.kind == .scanner) && h.recordsMode != .off)

/-- R93, step 3: a new round begins. -/
def State.beginRound (s : State) : State :=
  let closed := s.hlc.indicesOf fun x => x.levelling && x.closed
  let open_ := s.hlc.indicesOf fun x => x.levelling && !x.closed
  let s := s.modHlc fun h => { h with roundNumber := h.roundNumber + 1, roundInProgress := true, members := open_ }
  closed.foldl (fun s i => s.deliver s.hlc.roundNumber i .notPolled) s

/-- ROUND_TIMER_EXPIRY (R93). -/
def execRoundTimerExpiry (s : State) : Host.Outcome State Fault Refusal :=
  .next <|
    match s.hlc.roundTimer with
    | some expiry =>
      let s := s.runTo expiry
      let timer := s.startTimer (s.settingNat Setting.roundPeriod)
      let s := (s.modHlc fun h => { h with roundTimer := timer }).endRound
      (if s.hlc.roundWanted then s.beginRound else s).schedule
    | none => s

/-- STROKE_TIMER_EXPIRY (R94). -/
def execStrokeTimerExpiry (s : State) : Host.Outcome State Fault Refusal :=
  .next <|
    match s.hlc.strokeTimer with
    | some expiry =>
      let s := s.runTo expiry
      let timer := s.startTimer 100
      let polls := (s.hlc.indicesOf fun x => x.kind == .stroke && !x.closed).filter fun i =>
        !s.hlc.strokes.contains i && !s.hlc.chosen.contains (.stroke i)
      (s.modHlc fun h => { h with strokeTimer := timer, strokes := h.strokes ++ polls }).schedule
    | none => s

/-- R92: the probes queued at an expiry: DOWN junctions first, then DROPPED heads, none that waits already. -/
def Hlc.newProbes (h : Hlc) : List LinkRequest :=
  let waiting := h.chosen ++ h.housekeeping ++ h.probes
  (allJunctions.filter fun j =>
    (h.junction j).state == .down && !waiting.contains (.junctionProbe j) && !waiting.contains (.orderedProbe j)).map
      .junctionProbe ++
  ((h.indicesOf fun x => x.state == .dropped).filter fun i => !waiting.contains (.headProbe i)).map .headProbe

/-- PROBE_TIMER_EXPIRY (R85, R90, R92). -/
def execProbeTimerExpiry (s : State) : Host.Outcome State Fault Refusal :=
  .next <|
    match s.hlc.probeTimer with
    | some expiry =>
      let s := s.runTo expiry
      let timer := s.startTimer (s.settingNat Setting.probeInterval)
      (s.modHlc fun h => { h with probeTimer := timer, probes := h.probes ++ h.newProbes }).schedule
    | none => s

/-! ## Scanner requests and hand-offs -/

/-- R95: a scanner request is queued or answered. While the scheduler does not run it is answered as not issued, whatever the
scanner's state (log 44, DESIGN CHOICE: R92 speaks of the requests that wait when the scheduler stops). -/
def State.askScanner (s : State) (ask : ScannerAsk) : State :=
  match s.hlc.scannerIndex, s.hlc.scannerState with
  | some i, some .active | some i, some .suspect =>
    if s.hlc.scheduling then s.modHlc fun h => { h with scanner := h.scanner ++ [.scanner i ask] }
    else s.answerScanner .notIssued
  | some i, some .unconfirmed =>
    if s.hlc.scheduling then
      s.modHlc fun h =>
        { h with scanner := h.scanner ++
            (if (h.chosen ++ h.scanner).contains (.scannerStatus i) then [] else [.scannerStatus i]) ++ [.scanner i ask] }
    else s.answerScanner .notIssued
  | _, _ => s.answerScanner .notIssued

/-- SCANNER_REQUEST (R95). -/
def execScannerRequest (s : State) : Host.Outcome State Fault Refusal :=
  .next <|
    match s.take fun h => match h with | .scannerRequest _ => true | _ => false with
    | some (.scannerRequest ask, s) => (s.askScanner ask).schedule
    | _ => s

/-- MODE_HANDOFF_AT_HLC (R93). -/
def execModeHandoffAtHlc (s : State) : Host.Outcome State Fault Refusal :=
  .next <|
    match s.take fun h => match h with | .sideModeToHlc _ _ | .recordsModeToHlc _ => true | _ => false with
    | some (.sideModeToHlc side mode, s) => s.modHlc fun h => { h with sideModes := h.sideModes.set side mode }
    | some (.recordsModeToHlc mode, s) => s.modHlc fun h => { h with recordsMode := mode }
    | _ => s

/-! ## Head tables and runs (R82, R87, R92) -/

/-- R92: every waiting request is dropped, scanner requests being answered, and the round in progress ended. -/
def State.dropWaiting (s : State) : State :=
  let s := (s.refuseScanner (s.hlc.chosen ++ s.hlc.scanner)).endRound
  s.modHlc fun h =>
    Hlc.unchoose { h with housekeeping := [], strokes := [], scanner := [], probes := [] } fun _ => true

/-- R92: the scheduler stops. -/
def State.stopScheduler (s : State) : State :=
  s.dropWaiting.modHlc fun h => { h with roundTimer := none, strokeTimer := none, probeTimer := none }

/-- R82: a named junction goes to RESYNC with a SYNC sequence, one not named to UNKNOWN, where its mode seen becomes NOT_KNOWN
too (log 44, DESIGN CHOICE: R82 names state, housekeeping, sequence, failures and down since). -/
def Hlc.resyncJunction (h : Hlc) (j : JunctionId) : Hlc :=
  if h.heads.any fun x => x.junction == j then
    (h.setJunction j ⟨.resync, 0, none, some ⟨.sync, .setMode⟩, none⟩).queueStep j
  else h.setJunction j .reset

/-- R82: the junctions of the map are brought into use; their first steps arrive in the order LEFT, RIGHT, CENTRE (log 44,
DESIGN CHOICE: R82 gives none). -/
def Hlc.resync (h : Hlc) : Hlc := allJunctions.foldl Hlc.resyncJunction h

/-- R92 to R94: the timers of a running scheduler: the round timer always, the stroke timer with a STROKE head. -/
def State.runTimers (s : State) : State :=
  let round := s.startTimer (s.settingNat Setting.roundPeriod)
  let stroke := s.startTimer 100
  s.modHlc fun h =>
    { h with roundTimer := h.roundTimer <|> round
             strokeTimer := if h.heads.any fun x => x.kind == .stroke then h.strokeTimer <|> stroke else none }

/-- R82: the scheduler runs with the junctions resynchronised. -/
def State.startScheduler (s : State) : State :=
  if s.hlc.scheduling then ((s.modHlc Hlc.resync).runTimers).schedule else s

/-- R87: a head not in MISMATCH as UNCONFIRMED. -/
def Head.unconfirm (x : Head) : Head :=
  if x.state = .mismatch then x else { x with state := .unconfirmed, counter := 0, readingStatus := .none }

/-- R87: every head not in MISMATCH becomes UNCONFIRMED, each change handed on. -/
def State.unconfirmHeads (s : State) : State :=
  let old := s.hlc.heads
  let s := s.modHlc fun h => { h with heads := h.heads.map Head.unconfirm }
  s.handAll false ((List.range old.length).flatMap fun i =>
    match old[i]? with
    | some x => if x.unconfirm.state = x.state then [] else x.unconfirm.stateHand i
    | none => [])

/-- Log 17: at a rebuild a transaction on the line no longer belongs to the tables; a round member's is handed as not polled. -/
def State.makeStale (s : State) : State :=
  match s.hlc.line with
  | .busy t =>
    let s :=
      match t.request, t.stale with
      | .member i, false => s.deliver t.round i .notPolled
      | _, _ => s
    s.modHlc fun h => { h with line := .busy { t with stale := true } }
  | _ => s

/-- R87: a head of a map newly in force; its last reading starts at 0 (log 44, DESIGN CHOICE: R87 gives none). -/
def HeadItem.head (x : HeadItem) : Head :=
  ⟨x.junction, x.port, x.kind, x.side, x.position, .unconfirmed, 0, 0, .none⟩

/-- R105: what LVC keeps of a head. -/
def Head.forLvc (x : Head) : LvcHead := ⟨x.kind, x.side, x.position, x.state⟩

/-- R97: the state of a side's STROKE head, ABSENT when the map holds none. -/
def Hlc.strokeHead (h : Hlc) (side : Side) : Option HeadState :=
  (h.heads.find? fun x => x.kind == .stroke && x.side == some side).map (·.state)

/-- R87, R97, R122: the consumers are handed the rebuilt table. -/
def State.handRebuild (s : State) : State :=
  s.handAll false
    [ .rebuildToLvc (s.hlc.heads.map Head.forLvc)
    , .rebuildToGeu (s.hlc.strokeHead .left) (s.hlc.strokeHead .right)
    , .scannerState s.hlc.scannerState ]

/-- R82, R87: HLC takes a HEAD_MAP newly in force. -/
def State.rebuildHeads (s : State) (items : List HeadItem) : State :=
  let s := s.dropWaiting.makeStale
  let s := s.modHlc fun h => { h with heads := items.map HeadItem.head, mapInForce := true }
  (s.handRebuild).startScheduler

/-- R87, R92: HLC takes the withdrawal of HEAD_MAP. -/
def State.withdrawHeads (s : State) : State :=
  (s.stopScheduler.modHlc fun h => { h with mapInForce := false }).unconfirmHeads

/-- HEAD_MAP_NEWLY_IN_FORCE (R82, R87). -/
def execHeadMapNewlyInForce (s : State) : Host.Outcome State Fault Refusal :=
  .next <|
    match s.take fun h => match h with | .headMapInForce _ | .headMapWithdrawn => true | _ => false with
    | some (.headMapInForce items, t) => t.rebuildHeads items
    | _ => s

/-- HEAD_MAP_WITHDRAWN (R87, R92). -/
def execHeadMapWithdrawn (s : State) : Host.Outcome State Fault Refusal :=
  .next <|
    match s.take fun h => match h with | .headMapInForce _ | .headMapWithdrawn => true | _ => false with
    | some (.headMapWithdrawn, t) => t.withdrawHeads
    | _ => s

/-- R107, log 19: LVC's numbering follows the round numbers of the run. -/
def Lvc.renumber (l : Lvc) : Lvc :=
  { l with highestRound := 0
           sides := ⟨{ l.sides.left with roundBar := 0 }, { l.sides.right with roundBar := 0 }⟩ }

/-- R82, R87, R93: HLC at the run status becoming RUNNING. A transaction still on the line runs to its end and is judged (R88,
R92). -/
def State.linkStart (s : State) : State :=
  let s := s.dropWaiting
  let s := (s.modHlc fun h => { h with roundNumber := 0 }).modLvc Lvc.renumber
  (s.unconfirmHeads).startScheduler

/-- R82, R92: HLC at a change of run status. -/
def State.linkRun (s : State) (status : RunStatus) : State :=
  let s := s.modHlc fun h => { h with runSeen := status }
  match status with
  | .running => s.linkStart
  | .stopping => s
  | .stopped | .starting => s.stopScheduler

/-- RUN_STATUS_AT_HLC (R82, R87, R92). -/
def execRunStatusAtHlc (s : State) : Host.Outcome State Fault Refusal :=
  .next <|
    match s.take fun h => match h with | .runStatus .hlc _ => true | _ => false with
    | some (.runStatus _ status, s) => s.linkRun status
    | _ => s

/-! ## CLEAR_FAULT -/

/-- The junction a CLEAR_FAULT names. -/
def Order.junction (o : Order) : JunctionId := (JunctionId.ofCode o.subject.toNat).getD .left

/-- CLEAR_FAULT_JUNCTION (R86). -/
def execClearFaultJunction (s : State) : Host.Outcome State Fault Refusal :=
  .next <|
    match s.clearFaultOf 3 with
    | some o =>
      let r := s.hlc.junction o.junction
      if r.state = .down then
        let timer := s.startTimer (s.settingNat Setting.probeInterval)
        let s :=
          if s.hlc.scheduling then
            (s.modHlc fun h =>
              { h with housekeeping := h.housekeeping ++ [.orderedProbe o.junction], probeTimer := timer }).schedule
          else s
        s.finishDone (BitVec.ofNat 32 r.failures) false false false
      else s.finishRefused .notFaulted
    | none => s

/-- R90: a SUSPECT or DROPPED head is cleared. -/
def State.clearHead (s : State) (i : Nat) (x : Head) : State :=
  let s := (s.setHead i 0 .unconfirmed none 0).modHlc fun h =>
    Hlc.unchoose { h with probes := h.probes.filter (· != .headProbe i) } (· == .headProbe i)
  ((s.announceHead i x.state).schedule).finishDone (BitVec.ofNat 32 x.counter) false false false

/-- CLEAR_FAULT_HEAD (R90). -/
def execClearFaultHead (s : State) : Host.Outcome State Fault Refusal :=
  .next <|
    match s.clearFaultOf 2 with
    | some o =>
      match s.hlc.heads[o.subject.toNat]? with
      | none => s.finishRefused .notFaulted
      | some x =>
        match x.state with
        | .suspect | .dropped => s.clearHead o.subject.toNat x
        | .active | .unconfirmed => s.finishRefused .notFaulted
        | .mismatch => s.finishRefused .wrongState
    | none => s

end Sys2Proof.Machine
end

