-- ==== Sys2Proof/Machine/Geometry.lean ====
section
/-! DEFINITION. The Geometry Unit: strokes, bolt-ons, half-widths, the live zone set and the scanner window (06). -/
namespace Sys2Proof.Machine

/-! ## The record -/

/-- R100: a half-width. -/
def halfWidth (stroke bolt : Nat) : Nat := 1500 + stroke + bolt

/-- R101: the live zone set. -/
def liveSet (stroke bolt : PerSide Nat) (liveStroke : Nat) : LiveSet where
  mainL := true
  mainR := true
  extL := decide (liveStroke ≤ stroke.left)
  extR := decide (liveStroke ≤ stroke.right)
  boltL := decide (0 < bolt.left)
  boltR := decide (0 < bolt.right)

/-- R102: the first point of the window: 7040 less the left half-width, divided by 220 and rounded up. -/
def windowFirst (halfLeft : Nat) : Nat := (7040 - halfLeft + 219) / 220

/-- R102: the count of the window: last point less first point plus 1, the last being 7040 plus the right half-width,
divided by 220 and rounded down, less 1. -/
def windowCount (halfLeft halfRight : Nat) : Nat := (7040 + halfRight) / 220 - windowFirst halfLeft

/-- R97: the width status. -/
def widthOf (seen : PerSide (Option HeadState)) : WidthStatus :=
  if seen.left = some .active ∧ seen.right = some .active then .good else .stale

/-- R103: the whole record brought up to date, its sequence apart. -/
def Geu.refresh (g : Geu) (liveStroke : Nat) : GeometryRecord where
  halfLeft := halfWidth g.stroke.left g.bolt.left
  halfRight := halfWidth g.stroke.right g.bolt.right
  live := liveSet g.stroke g.bolt liveStroke
  windowFirst := windowFirst (halfWidth g.stroke.left g.bolt.left)
  windowCount := windowCount (halfWidth g.stroke.left g.bolt.left) (halfWidth g.stroke.right g.bolt.right)
  width := widthOf g.headSeen
  sequence := g.geometry.sequence

/-- R103: a geometry change event: the record brought up to date, the sequence raised, the record handed on. -/
def State.geometryEvent (s : State) : State :=
  let fresh := s.geu.refresh (s.settingNat Setting.liveStroke)
  let record := { fresh with sequence := fresh.sequence + 1 }
  (s.modGeu fun g => { g with geometry := record }).handAll false
    [.geometryToHtc record, .geometryToFdc record, .geometryToMru record]

/-- R97: stroke head seen set. -/
def State.seeStrokeHead (s : State) (side : Side) (st : Option HeadState) : State :=
  s.modGeu fun g => { g with headSeen := g.headSeen.set side st }

/-- R97: the width status would change. -/
def Geu.widthMoves (g : Geu) : Bool := decide (widthOf g.headSeen ≠ g.geometry.width)

/-- R98, step 3: a reading as a stroke. -/
def strokeOf (value : Half) : Nat := (clamp 0 2500 value.toInt).toNat

/-- R98, step 4: the stroke moves by GEOMETRY_STEP or more. -/
def strokeMoves (old new step : Nat) : Bool := decide (step ≤ (new - old) + (old - new))

/-- R98: the recorded stroke after a poll, under the width status just settled. -/
def State.polledStroke (s : State) (side : Side) (result : StrokeResult) : Option Nat :=
  match result with
  | .reading value .valid =>
    if widthOf s.geu.headSeen = .good ∧
        strokeMoves (s.geu.stroke.get side) (strokeOf value) (s.settingNat Setting.geometryStep) then
      some (strokeOf value)
    else none
  | _ => none

/-! ## The channels from HLC (log 4) -/

/-- The hand-offs of HLC that concern a side's STROKE head, in their order. -/
def Handoff.strokeOf (side : Side) : Handoff → Bool
  | .strokeState s _ | .strokePoll s _ _ => s == side
  | .rebuildToGeu _ _ => true
  | _ => false

/-- R104: a change of state may be taken before the poll of the same transaction that stands just before it. -/
def strokeStateFirst (side : Side) (inbox : List Waiting) : Bool :=
  match (inbox.map (·.handoff)).filter (Handoff.strokeOf side) with
  | .strokeState _ _ :: _ => true
  | .strokePoll _ _ st :: .strokeState _ st' :: _ => st == st'
  | _ => false

/-! ## Commands -/

/-- R97: GEU takes a change of a STROKE head's state. -/
def State.strokeHeadChanges (s : State) (side : Side) (st : HeadState) : State :=
  let s := s.seeStrokeHead side (some st)
  if s.geu.widthMoves then s.geometryEvent else s

/-- STROKE_HEAD_STATE_CHANGE (R97, R104). -/
def execStrokeHeadStateChange (side : Side) (s : State) : Host.Outcome State Fault Refusal :=
  .next <|
    if strokeStateFirst side s.inbox then
      match s.take fun h => match h with | .strokeState x _ => x == side | _ => false with
      | some (.strokeState _ st, s) => s.strokeHeadChanges side st
      | _ => s
    else s

/-- R98: GEU takes a stroke poll. -/
def State.strokePolled (s : State) (side : Side) (result : StrokeResult) (st : HeadState) : State :=
  let s := s.seeStrokeHead side (some st)
  let moved := s.polledStroke side result
  let s :=
    match moved with
    | some v => s.modGeu fun g => { g with stroke := g.stroke.set side v }
    | none => s
  if moved.isSome || s.geu.widthMoves then s.geometryEvent else s

/-- STROKE_POLL_HANDOFF (R97, R98). -/
def execStrokePollHandoff (side : Side) (s : State) : Host.Outcome State Fault Refusal :=
  .next <|
    match s.take (Handoff.strokeOf side) with
    | some (.strokePoll _ result st, t) => t.strokePolled side result st
    | _ => s

/-- R97: GEU takes a rebuilt head table. -/
def State.strokeHeadsRebuilt (s : State) (left right : Option HeadState) : State :=
  let s := s.modGeu fun g => { g with headSeen := ⟨left, right⟩ }
  if s.geu.widthMoves then s.geometryEvent else s

/-- HEAD_TABLE_REBUILD_AT_GEU (R97). -/
def execHeadTableRebuildAtGeu (s : State) : Host.Outcome State Fault Refusal :=
  .next <|
    match s.take fun h => Handoff.strokeOf .left h || Handoff.strokeOf .right h with
    | some (.rebuildToGeu left right, t) => t.strokeHeadsRebuilt left right
    | _ => s

/-- R99: GEU takes bolt-on widths; a geometry change event whether or not they differ. -/
def State.setBolts (s : State) (left right : Nat) : State :=
  (s.modGeu fun g => { g with bolt := ⟨left, right⟩ }).geometryEvent

/-- GEOMETRY_PAGE_HANDOFF (R99). -/
def execGeometryPageHandoff (s : State) : Host.Outcome State Fault Refusal :=
  .next <|
    match s.take fun h => match h with | .geometryInForce _ _ | .geometryWithdrawn => true | _ => false with
    | some (.geometryInForce left right, s) => s.setBolts left right
    | some (.geometryWithdrawn, s) => s.setBolts 0 0
    | _ => s

/-- LIVE_STROKE_HANDOFF (R101): a geometry change event when the live zone set changes. -/
def execLiveStrokeHandoff (s : State) : Host.Outcome State Fault Refusal :=
  .next <|
    match s.take fun h => match h with | .liveStroke => true | _ => false with
    | some (_, s) =>
      if (s.geu.refresh (s.settingNat Setting.liveStroke)).live ≠ s.geu.geometry.live then s.geometryEvent else s
    | none => s

end Sys2Proof.Machine
end

