-- ==== Sys2Proof/Machine/Levelling.lean ====
section
/-! DEFINITION. The Levelling Controller: round collections, corrections, the valves, and the orders on a side (07). -/
namespace Sys2Proof.Machine

/-! ## Side records -/

/-- LVC with a side's record changed. -/
def Lvc.modSide (l : Lvc) (side : Side) (f : SideRecord → SideRecord) : Lvc :=
  { l with sides := l.sides.set side (f (l.sides.get side)) }

/-- The state with a side's record changed. -/
def State.modSide (s : State) (side : Side) (f : SideRecord → SideRecord) : State := s.modLvc fun l => l.modSide side f

/-- A side's record. -/
def State.sideRecord (s : State) (side : Side) : SideRecord := s.lvc.sides.get side

/-- The other side. -/
def otherSide : Side → Side
  | .left => .right
  | .right => .left

/-- R105: head `i` is a GRADE member of a side at an averaging position. -/
def Lvc.sonicAt (l : Lvc) (side : Side) (position i : Nat) : Bool :=
  match l.heads[i]? with
  | some x => x.kind == .sonic && x.side == some side && x.position == position
  | none => false

/-- R105: head `i` is the SLOPE head. -/
def Lvc.slopeAt (l : Lvc) (i : Nat) : Bool := (l.heads[i]?).any fun x => x.kind == .slope

/-- R105: the members of a side under a reference kind, in set order. -/
def Lvc.membersOf (l : Lvc) (side : Side) (kind : ReferenceKind) : List Nat :=
  match kind with
  | .grade => (List.range 5).flatMap fun p => (List.range l.heads.length).filter (l.sonicAt side p)
  | .slope => (List.range l.heads.length).filter l.slopeAt

/-- The members of a side under the kind it holds. -/
def Lvc.members (l : Lvc) (side : Side) : List Nat := l.membersOf side (l.sides.get side).kind

/-- R109: a fresh start. -/
def SideRecord.freshStart (r : SideRecord) : SideRecord := { r with lastAverage := none, inUse := [], rebase := 0 }

/-- R106, R107: a running pulse or gap ends at once. -/
def SideRecord.endPulse (r : SideRecord) : SideRecord := { r with valve := .idle, pulseEnd := none, waiting := none }

/-- R116: the reference status settled, a change noted with a value and reported to MSC. -/
def State.settleReference (s : State) (side : Side) (status : ReferenceStatus) (value : Nat) : State :=
  if (s.sideRecord side).status = status then s
  else
    ((s.modSide side fun r => { r with status := status }).postNote
      (if status = .lost then .sideHold else .sideRestored) (sideCode side) (BitVec.ofNat 32 value)).hand
      (.referenceToMsc side)

/-- R116: a side with no member under its reference kind is LOST. -/
def State.settleMembers (s : State) (side : Side) : State :=
  if s.lvc.members side = [] then s.settleReference side .lost 0 else s

/-! ## The valve (R118, R119) -/

/-- R118: a pulse starts. -/
def State.startPulse (s : State) (side : Side) (p : Pulse) : State :=
  let timer := s.startTimer p.width
  s.modSide side fun r =>
    { r with valve := (match p.direction with | .up => .pulsingUp | .down => .pulsingDown)
             pulseEnd := timer, waiting := none }

/-- R118: the running pulse ends and the reversal gap begins, the new pulse waiting. -/
def State.beginGap (s : State) (side : Side) (p : Pulse) : State :=
  let timer := s.startTimer (s.settingNat Setting.reversalGap)
  s.modSide side fun r => { r with valve := .reversalGap, pulseEnd := timer, waiting := some p }

/-- R118: a pulse given to the valve. -/
def State.givePulse (s : State) (side : Side) (p : Pulse) : State :=
  match (s.sideRecord side).valve, p.direction with
  | .idle, _ | .pulsingUp, .up | .pulsingDown, .down => s.startPulse side p
  | .pulsingUp, .down | .pulsingDown, .up => s.beginGap side p
  | .reversalGap, _ => s.modSide side fun r => { r with waiting := some p }

/-! ## Corrections (R111 to R117) -/

/-- R111: the reading of a candidate. -/
def SideRecord.candidate (r : SideRecord) (window : Int) (d : Delivery) : Option Int :=
  match d.outcome, d.state with
  | .reading v .valid, .active =>
    match r.lastAverage with
    | none => some v.toInt
    | some a =>
      if a.toInt - window ≤ v.toInt + r.rebase.toInt ∧ v.toInt + r.rebase.toInt ≤ a.toInt + window then some v.toInt
      else none
  | _, _ => none

/-- R111: the candidate set, in set order, with its readings. -/
def candidatesOf (r : SideRecord) (window : Int) (members : List Nat) (ds : List Delivery) : List (Nat × Int) :=
  members.filterMap fun i =>
    match ds.find? fun d => d.head == i with
    | some d => (r.candidate window d).map fun v => (i, v)
    | none => none

/-- A number put in its place in rising order. -/
def insertSorted (x : Int) : List Int → List Int
  | [] => [x]
  | y :: ys => if x ≤ y then x :: y :: ys else y :: insertSorted x ys

/-- R112: twice the median of 4 or 5 readings. -/
def doubleMedian (vs : List Int) : Int :=
  let sorted := vs.foldr insertSorted []
  if vs.length = 4 then sorted.getD 1 0 + sorted.getD 2 0 else 2 * sorted.getD 2 0

/-- R112: twice the distance of a reading from the median. -/
def doubleDistance (m v : Int) : Nat := (2 * v - m).natAbs

/-- R112: the place of the outlier: the latest in set order of those farthest from the median. -/
def outlierAt (vs : List Int) : Nat :=
  let ds := vs.map (doubleDistance (doubleMedian vs))
  let far := ds.foldl max 0
  ((List.range ds.length).filter fun i => ds.getD i 0 == far).getLastD 0

/-- R112: the readings kept. -/
def keptReadings (vs : List Int) : List Int := if 4 ≤ vs.length then vs.eraseIdx (outlierAt vs) else vs

/-- R112: the mean of the readings kept, truncated toward zero. -/
def meanReading (vs : List Int) : Int := (keptReadings vs).sum.tdiv (keptReadings vs).length

/-- R113: the rebase offset after a correction whose mean is `d` and whose candidate set is `set`. -/
def SideRecord.rebased (r : SideRecord) (set : List Nat) (d : Int) : Word :=
  match r.lastAverage with
  | none => r.rebase
  | some a => if set = r.inUse then r.rebase else to32 (a.toInt - d)

/-- R113: the side after a correction that found enough heads. -/
def SideRecord.corrected (r : SideRecord) (set : List Nat) (d : Int) : SideRecord :=
  { r with inUse := set, rebase := r.rebased set d, lastAverage := some (to32 (d + (r.rebased set d).toInt)) }

/-- The grade setpoint of a side (R114). -/
def gradeSetting : Side → SettingId
  | .left => Setting.gradeSetL
  | .right => Setting.gradeSetR

/-- R114, R115: the width of a due pulse. -/
def pulseWidth (low high deadband gain deviation : Nat) : Nat := min high (low + (deviation - deadband) * gain)

/-- R114: the pulse due from the error of a grade correction. -/
def State.gradePulse (s : State) (e : Int) : Option Pulse :=
  if e.natAbs ≤ s.settingNat Setting.gradeDeadband then none
  else some ⟨if 0 < e then .up else .down,
    pulseWidth (s.settingNat Setting.pulseMin) (s.settingNat Setting.pulseMax) (s.settingNat Setting.gradeDeadband)
      (s.settingNat Setting.gradeGain) e.natAbs⟩

/-- R115: the direction of a slope pulse. -/
def slopeDirection (side : Side) (deviation : Int) : Direction :=
  match side with
  | .left => if 0 < deviation then .up else .down
  | .right => if 0 < deviation then .down else .up

/-- R115: the pulse due from the slope deviation of a side. -/
def State.slopePulse (s : State) (side : Side) (d : Int) : Option Pulse :=
  if d.natAbs ≤ s.settingNat Setting.slopeDeadband then none
  else some ⟨slopeDirection side d,
    pulseWidth (s.settingNat Setting.pulseMin) (s.settingNat Setting.pulseMax) (s.settingNat Setting.slopeDeadband)
      (s.settingNat Setting.slopeGain) d.natAbs⟩

/-- R117: a due pulse is started only in AUTO. -/
def State.duePulse (s : State) (side : Side) (p : Option Pulse) : State :=
  match p with
  | some p => if (s.sideRecord side).modeSeen = .auto then s.givePulse side p else s
  | none => s

/-- R111 to R114: a grade correction. -/
def State.gradeCorrection (s : State) (side : Side) (ds : List Delivery) : State :=
  let found := candidatesOf (s.sideRecord side) (s.setting Setting.sonicWindow) (s.lvc.members side) ds
  if found.length < s.settingNat Setting.minHeads then s.settleReference side .lost found.length
  else
    let s := s.settleReference side .ok found.length
    let s := s.modSide side fun r => r.corrected (found.map (·.1)) (meanReading (found.map (·.2)))
    let r := s.sideRecord side
    let e := r.zero.toInt + s.setting (gradeSetting side) - (r.lastAverage.getD 0).toInt
    s.duePulse side (s.gradePulse e)

/-- R115: a slope correction. -/
def State.slopeCorrection (s : State) (side : Side) (d : Delivery) : State :=
  match d.outcome, d.state with
  | .reading v .valid, .active =>
    let s := s.settleReference side .ok 1
    s.duePulse side (s.slopePulse side (v.toInt - s.setting Setting.slopeSet))
  | _, _ => s.settleReference side .lost d.state.code

/-- R110: a side's correction, by its mode and reference kind. -/
def State.correction (s : State) (side : Side) (ds : List Delivery) : State :=
  let r := s.sideRecord side
  if r.modeSeen = .off then s
  else
    match r.kind with
    | .grade => s.gradeCorrection side ds
    | .slope =>
      match ds with
      | d :: _ => s.slopeCorrection side d
      | [] => s

/-! ## Deliveries (R110) -/

/-- R110: a delivery added to the collection of its round, which its first delivery opens. -/
def addDelivery (cs : List Collection) (d : Delivery) : List Collection :=
  if cs.any fun c => c.round == d.round then
    cs.map fun c => if c.round = d.round then { c with deliveries := c.deliveries ++ [d] } else c
  else cs ++ [⟨d.round, [d]⟩]

/-- R110: a collection holds a delivery from every member. -/
def Collection.complete (c : Collection) (members : List Nat) : Bool :=
  members.all fun i => c.deliveries.any fun d => d.head == i

/-- R110: a side takes a delivery of one of its members; a round at or below its bar opens nothing (R107). -/
def State.deliverSide (s : State) (side : Side) (d : Delivery) : State :=
  let members := s.lvc.members side
  if !members.contains d.head || decide (d.round ≤ (s.sideRecord side).roundBar) then s
  else
    let cs := addDelivery (s.sideRecord side).collections d
    match cs.find? fun c => c.round == d.round && c.complete members with
    | some c =>
      (s.modSide side fun r => { r with collections := cs.filter fun x => x.round != d.round }).correction side c.deliveries
    | none => s.modSide side fun r => { r with collections := cs }

/-- The hand-offs of HLC to LVC, in their order. -/
def Handoff.toLvc : Handoff → Bool
  | .delivery _ | .headStateToLvc _ _ | .headFailedToLvc _ _ | .rebuildToLvc _ => true
  | _ => false

/-- R107: the highest round received, of the rounds of the run: a delivery numbered above HLC's round number is of a run before
it (log 19). -/
def Lvc.receiveRound (l : Lvc) (round present : Nat) : Lvc :=
  if round ≤ present then { l with highestRound := max l.highestRound round } else l

/-- ROUND_MEMBER_DELIVERY (R110 to R117). -/
def execRoundMemberDelivery (s : State) : Host.Outcome State Fault Refusal :=
  .next <|
    match s.take Handoff.toLvc with
    | some (.delivery d, t) =>
      ((t.modLvc fun l => l.receiveRound d.round t.hlc.roundNumber).deliverSide .left d).deliverSide .right d
    | _ => s

/-- HEAD_STATE_CHANGE_AT_LVC (R91, R122): LVC takes a head's state as handed with a change, or with the failure of a probe. -/
def execHeadStateChangeAtLvc (s : State) : Host.Outcome State Fault Refusal :=
  .next <|
    match s.take Handoff.toLvc with
    | some (.headStateToLvc i st, t) | some (.headFailedToLvc i st, t) =>
      t.modLvc fun l => { l with heads := l.heads.modify i fun x => { x with state := st } }
    | _ => s

/-- R122: a side at a rebuild of the head table. -/
def SideRecord.rebuilt (r : SideRecord) : SideRecord := { r.freshStart with collections := [] }

/-- HEAD_TABLE_REBUILD_AT_LVC (R122). The left side is settled first, so its note comes first (log 44, DESIGN CHOICE: R122 gives
no order of the sides). -/
def execHeadTableRebuildAtLvc (s : State) : Host.Outcome State Fault Refusal :=
  .next <|
    match s.take Handoff.toLvc with
    | some (.rebuildToLvc heads, t) =>
      let t := t.modLvc fun l =>
        { l with heads := heads, sides := ⟨l.sides.left.rebuilt, l.sides.right.rebuilt⟩ }
      (t.settleMembers .left).settleMembers .right
    | _ => s

/-! ## Modes and pulse ends -/

/-- R106: a side takes its effective mode. -/
def SideRecord.takeMode (r : SideRecord) (mode : SideMode) : SideRecord :=
  match mode with
  | .off => { r.endPulse.freshStart with modeSeen := .off }
  | .hold => { r.endPulse with modeSeen := .hold }
  | .manual => { r with modeSeen := .manual }
  | .auto => { r with modeSeen := .auto }

/-- SIDE_MODE_HANDOFF (R106). -/
def execSideModeHandoff (side : Side) (s : State) : Host.Outcome State Fault Refusal :=
  .next <|
    match s.take fun h => match h with | .sideMode x _ => x == side | _ => false with
    | some (.sideMode _ mode, s) => s.modSide side fun r => r.takeMode mode
    | _ => s

/-- R119: the pulse end time has come. -/
def State.pulseEnds (s : State) (side : Side) : State :=
  match (s.sideRecord side).valve, (s.sideRecord side).waiting with
  | .reversalGap, some p => s.startPulse side p
  | _, _ => s.modSide side SideRecord.endPulse

/-- PULSE_END (R119). -/
def execPulseEnd (side : Side) (s : State) : Host.Outcome State Fault Refusal :=
  .next <|
    match (s.sideRecord side).pulseEnd with
    | some expiry => (s.runTo expiry).pulseEnds side
    | none => s

/-! ## Orders on a side -/

/-- R108: the mode operand A asks for. -/
def sideModeOf (a : Int) : Option SideMode :=
  if a = 0 then some .off else if a = 1 then some .manual else if a = 2 then some .auto else none

/-- R108: the reference kind operand B names. -/
def referenceOf (b : Nat) : Option ReferenceKind :=
  match b with
  | 0 => some .grade
  | 1 => some .slope
  | _ => none

/-- R107: the effects of a change of a side's reference kind. -/
def Lvc.changeKind (l : Lvc) (side : Side) (kind : ReferenceKind) : Lvc :=
  l.modSide side fun r =>
    { r.endPulse.freshStart with kind := kind, collections := [], roundBar := l.highestRound }

/-- R108: what LVC does at a SET_SIDE carried out. -/
def State.setReference (s : State) (side : Side) (kind : ReferenceKind) : State :=
  let r := s.sideRecord side
  let s :=
    if r.kind ≠ kind then s.modLvc fun l => l.changeKind side kind
    else if r.status = .lost then s.modSide side SideRecord.freshStart
    else s
  s.settleMembers side

/-- R15, R22: MSC stores a side's requested mode and recomputes; a change of either has the summary rewritten. -/
def State.requestSide (s : State) (side : Side) (mode : SideMode) : State :=
  let old := s.msc
  let s := (s.modMsc fun m => { m with sideRequested := m.sideRequested.set side mode }).recompute
  if old.sideRequested ≠ s.msc.sideRequested ∨ modesChanged old s.msc then s.requestRewrite else s

/-- SET_SIDE (R15, R108). -/
def execSetSide (s : State) : Host.Outcome State Fault Refusal :=
  .next <|
    match s.orderOf .setSide with
    | some o =>
      match sideModeOf o.a, referenceOf o.b with
      | some mode, some kind =>
        if kind = .slope ∧ (s.sideRecord (otherSide o.side)).kind = .slope then s.finishRefused .slopeTaken
        else
          let s := (s.setReference o.side kind).requestSide o.side mode
          let effective := s.msc.sideEffective.get o.side
          s.finishDone (BitVec.ofNat 32 effective.code) false (decide (effective ≠ mode)) false
      | _, _ => s.finishRefused .range
    | none => s

/-- R120: CAPTURE may be carried out. -/
def SideRecord.capturable (r : SideRecord) : Bool := r.kind == .grade && r.status == .ok && r.lastAverage.isSome

/-- R120: the mean of the last good correction. -/
def SideRecord.lastMean (r : SideRecord) : Word := to32 ((r.lastAverage.getD 0).toInt - r.rebase.toInt)

/-- CAPTURE (R120). -/
def execCapture (s : State) : Host.Outcome State Fault Refusal :=
  .next <|
    match s.orderOf .capture with
    | some o =>
      let r := s.sideRecord o.side
      if !r.capturable then s.finishRefused .wrongState
      else
        (s.modSide o.side fun r =>
          { r with rebase := 0, lastAverage := some r.lastMean, zero := r.lastMean }).finishDone r.lastMean
          false false false
    | none => s

/-- R121: the direction operand A names. -/
def directionOf (a : Int) : Option Direction := if a = 0 then some .up else if a = 1 then some .down else none

/-- R121: a JOG's width after clamping. -/
def State.jogWidth (s : State) (w : Nat) : Nat :=
  min (s.settingNat Setting.pulseMax) (max (s.settingNat Setting.pulseMin) w)

/-- JOG (R121). -/
def execJog (s : State) : Host.Outcome State Fault Refusal :=
  .next <|
    match s.orderOf .jog with
    | some o =>
      if (s.sideRecord o.side).modeSeen ≠ .manual then s.finishRefused .wrongState
      else
        match directionOf o.a with
        | none => s.finishRefused .range
        | some direction =>
          let width := s.jogWidth o.b
          if o.strict ∧ width ≠ o.b then s.finishRefused .range
          else
            (s.givePulse o.side ⟨direction, width⟩).finishDone (BitVec.ofNat 32 width) (decide (width ≠ o.b)) false false
    | none => s

end Sys2Proof.Machine
end

