-- ==== Sys2Proof/Machine/Heating.lean ====
section
/-! DEFINITION. The Heating Controller: zones, faults, the budget in force, shedding and the power arbiter (08). -/
namespace Sys2Proof.Machine

/-! ## Zones -/

/-- HTC with a zone's record changed. -/
def Htc.modZone (h : Htc) (i : Nat) (f : Zone → Zone) : Htc := { h with zones := h.zones.modify i f }

/-- The state with a zone's record changed. -/
def State.modZone (s : State) (i : Nat) (f : Zone → Zone) : State := s.modHtc fun h => h.modZone i f

/-- R126: a section of the MAIN class. -/
def mainClass : Section → Bool
  | .mainL | .mainR => true
  | .extL | .extR | .boltL | .boltR => false

/-- R126: zone `i` is of the MAIN class. -/
def Htc.isMain (h : Htc) (i : Nat) : Bool := (h.zones[i]?).any fun z => mainClass z.sect

/-- R127: a section is in the live zone set. -/
def LiveSet.has (l : LiveSet) : Section → Bool
  | .mainL => l.mainL
  | .mainR => l.mainR
  | .extL => l.extL
  | .extR => l.extR
  | .boltL => l.boltL
  | .boltR => l.boltR

/-- R123: the requested enable of an index. -/
def Htc.enabled (h : Htc) (i : Nat) : Bool := if hi : i < 24 then h.enables[i] else false

/-- R127: the settled state of zone `i` in a section. -/
def Htc.settled (h : Htc) (i : Nat) (sect : Section) : ZoneState :=
  if !h.enabled i || h.levelSeen == .off then .disabled else if h.liveSeen.has sect then .idle else .locked

/-- The contactor commanded open at a run time, open since kept where it was open already, and both timers stopped. -/
def Zone.release (z : Zone) (now : Word) (state : ZoneState) : Zone :=
  { z with openSince := if z.closed then now else z.openSince, confirmTimer := none, maxOnTimer := none, state := state }

/-- R127: a zone leaves its state for one with the contactor open and leaves the waiting list. -/
def State.leaveZone (s : State) (i : Nat) (state : ZoneState) : State :=
  (s.modZone i fun z => z.release s.now state).modHtc fun h => { h with waiting := h.waiting.filter (· != i) }

/-- R136: a zone joins the waiting list at the tail of its class's run. -/
def Htc.join (h : Htc) (i : Nat) : Htc :=
  { h with waiting :=
      if h.isMain i then h.waiting.filter h.isMain ++ i :: h.waiting.filter (fun k => !h.isMain k) else h.waiting ++ [i] }

/-- A zone becomes WAITING, its contactor open. -/
def State.waitZone (s : State) (i : Nat) : State := (s.leaveZone i .waiting).modHtc fun h => h.join i

/-! ## Power (R133 to R135) -/

/-- R134: a zone's fault is WELDED. -/
def Zone.welded (z : Zone) : Bool := z.state == .fault && z.faultKind == some .welded

/-- R134: the summed rating of the zones in FAULT with kind WELDED. -/
def Htc.weldedRating (h : Htc) : Nat := (h.zones.map fun z => if z.welded then z.rating else 0).sum

/-- R134: the available power in watts. -/
def Htc.available (h : Htc) : Nat := h.budget * 100 - h.weldedRating

/-- R133: the budget in force, in 0.1 kW. -/
def State.budgetNow (s : State) : Nat :=
  match s.htc.report with
  | some r =>
    if r.fresh then min (s.settingNat Setting.budgetHost) r.power
    else s.settingNat Setting.budgetHost * s.settingNat Setting.fallbackPercent / 100
  | none => s.settingNat Setting.budgetHost * s.settingNat Setting.fallbackPercent / 100

/-- R134: how long ago zone `i` was granted, on the wrapping run time. -/
def Htc.grantAge (h : Htc) (now : Word) (i : Nat) : Nat :=
  match (h.zones[i]?).bind (·.grantTime) with
  | some g => (now - g).toNat
  | none => 2 ^ 32

/-- The member of a list with the least measure, the first on a tie. -/
def leastBy (f : Nat → Nat) : List Nat → Option Nat
  | [] => none
  | i :: rest =>
    match leastBy f rest with
    | some k => if f k < f i then some k else some i
    | none => some i

/-- R134: the zones in CLOSING or ON, of one class. -/
def Htc.closedOf (h : Htc) (main : Bool) : List Nat :=
  (List.range h.zones.length).filter fun i => (h.zones[i]?).any Zone.closed && h.isMain i == main

/-- R134: the zone to shed next: EXTENSION before MAIN, the latest grant first; the lower index on a tie (log 22). -/
def Htc.victim (h : Htc) (now : Word) : Option Nat :=
  (leastBy (h.grantAge now) (h.closedOf false)) <|> (leastBy (h.grantAge now) (h.closedOf true))

/-- R134: one zone is shed. -/
def State.shedZone (s : State) (i : Nat) : State := (s.waitZone i).postNote .zoneShed i (BitVec.ofNat 32 s.htc.budget)

/-- R134: zones are shed until the draw is at or below the available power; `fuel` bounds the zones. -/
def State.shed : Nat → State → State
  | 0, s => s
  | fuel + 1, s =>
    if s.htc.draw ≤ s.htc.available then s
    else
      match s.htc.victim s.now with
      | some i => State.shed fuel (s.shedZone i)
      | none => s

/-- R134: shedding, when a recompute finds the draw above the available power. -/
def State.shedAll (s : State) : State := State.shed s.htc.zones.length s

/-! ## The arbiter (R137, R138) -/

/-- R137, rule 1: the rating fits the available power less the draw. -/
def Htc.fits (h : Htc) (z : Zone) : Bool := decide (h.draw + z.rating ≤ h.available)

/-- R137, rules 2 to 4: the earliest moment of the closing clock at which a zone of a section may close. -/
def ClosingHistory.earliest (c : ClosingHistory) (sect : Section) : Nat :=
  let all := match c.latest.getLast? with | some t => t + 100 | none => 0
  let own := match (c.bySection.toList)[sect.code]? with | some (some t) => t + 500 | _ => 0
  let four := if c.latest.length < 4 then 0 else c.latest.headD 0 + 2000
  max all (max own four)

/-- R137: zone `i` may be granted now. -/
def Htc.grantable (h : Htc) (i : Nat) : Bool :=
  match h.zones[i]? with
  | some z => h.fits z && decide (h.closings.earliest z.sect ≤ h.clock)
  | none => false

/-- R138: a closing recorded. -/
def ClosingHistory.push (c : ClosingHistory) (sect : Section) (t : Nat) : ClosingHistory where
  latest := (c.latest ++ [t]).drop (c.latest.length + 1 - 4)
  bySection := c.bySection.setIfInBounds sect.code (some t)

/-- R138: a grant. -/
def State.grant (s : State) (i : Nat) : State :=
  let now := s.now
  let confirm := s.startTimer (s.settingNat Setting.confirmTime)
  let maxOn := s.startTimer (s.settingNat Setting.maxOn)
  s.modHtc fun h =>
    let closings :=
      match h.zones[i]? with
      | some z => h.closings.push z.sect h.clock
      | none => h.closings
    Htc.modZone { h with waiting := h.waiting.filter (· != i), closings := closings } i fun z =>
      { z with state := .closing, grantTime := some now, onCount := z.onCount + 1, confirmTimer := confirm
               maxOnTimer := maxOn }

/-- R137: the earliest moment of zone `i`, when it meets rule 1. -/
def Htc.moment (h : Htc) (i : Nat) : Option Nat :=
  match h.zones[i]? with
  | some z => if h.fits z then some (h.closings.earliest z.sect) else none
  | none => none

/-- R137: the arbiter timer after an attempt without a grant. -/
def Htc.setArbiter (h : Htc) : Htc := { h with arbiter := (h.waiting.filterMap h.moment).min? }

/-- R137: a grant attempt. The attempt that follows a grant grants nothing under rule 2 and sets the arbiter timer. -/
def State.attempt (s : State) : State :=
  match s.htc.waiting.find? s.htc.grantable with
  | some i => (s.grant i).modHtc Htc.setArbiter
  | none => s.modHtc Htc.setArbiter

/-- R135: the smallest rating among the waiting zones, the lower index on a tie. -/
def Htc.smallestWaiting (h : Htc) : Option Nat :=
  leastBy (fun i => ((h.zones[i]?).map (·.rating)).getD 0)
    ((List.range h.zones.length).filter fun i => h.waiting.contains i)

/-- R135: BUDGET_LOW at a recompute that lowered the budget. -/
def State.reportLow (s : State) : State :=
  match s.htc.smallestWaiting with
  | some i =>
    if !s.htc.budgetLow && (s.htc.zones[i]?).any fun z => decide (s.htc.budget * 100 < z.rating) then
      (s.postNote .budgetLow i (BitVec.ofNat 32 s.htc.budget)).modHtc fun h => { h with budgetLow := true }
    else s
  | none => s

/-- R133 to R135: the budget in force recomputed (log 21). -/
def State.recomputeBudget (s : State) : State :=
  let new := s.budgetNow
  let old := s.htc.budget
  let s := s.modHtc fun h => { h with budget := new }
  if old < new then (s.modHtc fun h => { h with budgetLow := false }).attempt
  else if new < old then
    if s.htc.draw ≤ s.htc.available then s.reportLow else s.shedAll.reportLow.attempt
  else s

/-! ## Faults (R132) -/

/-- R132: an entry into FAULT. -/
def State.enterFault (s : State) (i : Nat) (kind : ZoneFault) : State :=
  let s := (s.leaveZone i .fault).modZone i fun z => { z with faultKind := some kind }
  ((s.postNote .zoneFault i (BitVec.ofNat 32 kind.code)).shedAll).attempt

/-- R132: the current fault a sample shows. -/
def Zone.currentFault (z : Zone) (now : Word) (current : Nat) : Option ZoneFault :=
  if z.closed then (if 1300 < current then some .overcurrent else none)
  else if 100 ≤ current ∧ 200 ≤ (now - z.openSince).toNat ∧ !z.welded then some .welded
  else none

/-- R125: a temperature sample is a sensor failure in this state. -/
def Zone.sensorFault (z : Zone) (temperature : Int) : Bool :=
  (decide (4000 < temperature) || decide (temperature < -400)) && z.state != .disabled && z.state != .fault

/-- R126: the setpoint of a section at the heating level seen. -/
def State.setpoint (s : State) (sect : Section) : Int :=
  s.setting (if mainClass sect then Setting.zoneSetMain else Setting.zoneSetExt) -
    if s.htc.levelSeen = .hold then s.setting Setting.holdOffset else 0

/-- R129: the temperature moves a zone. -/
def State.temperatureMoves (s : State) (i : Nat) (z : Zone) (temperature : Int) : State :=
  let setpoint := s.setpoint z.sect
  match z.state with
  | .idle => if temperature < setpoint - s.setting Setting.hysteresis then (s.waitZone i).attempt else s
  | .waiting | .on => if setpoint ≤ temperature then (s.leaveZone i .idle).attempt else s
  | _ => s

/-- R125, R129, R132: what a sample does in the zone's present state. -/
def State.judgeSample (s : State) (i : Nat) (z : Zone) (temperature : Int) (current : Nat) : State :=
  match z.currentFault s.now current with
  | some kind => s.enterFault i kind
  | none => if z.sensorFault temperature then s.enterFault i .sensor else s.temperatureMoves i z temperature

/-- R124, R125: the converter runs. -/
def Htc.converting (h : Htc) : Bool := h.runSeen == .running || h.runSeen == .stopping

/-- ZONE_SAMPLE (R125, R129, R132). -/
def execZoneSample (zone : Fin 24) (temperature : Int) (current : Nat) (s : State) : Host.Outcome State Fault Refusal :=
  .next <|
    match s.htc.zones[zone.val]? with
    | some z =>
      if s.htc.converting then
        (s.modZone zone.val fun z => { z with temperature := some temperature, current := some current }).judgeSample
          zone.val z temperature current
      else s
    | none => s

/-! ## Timers -/

/-- R130: the confirm timer's end: the current is read. -/
def State.confirmEnds (s : State) (i current : Nat) : State :=
  let s := s.modZone i fun z => { z with current := some current, confirmTimer := none }
  if 500 ≤ current then s.modZone i fun z => { z with state := .on } else s.enterFault i .openElement

/-- CONFIRM_TIMER_EXPIRY (R130). -/
def execConfirmTimerExpiry (zone : Fin 24) (current : Nat) (s : State) : Host.Outcome State Fault Refusal :=
  .next <|
    match (s.htc.zones[zone.val]?).bind (·.confirmTimer) with
    | some expiry => (s.runTo expiry).confirmEnds zone.val current
    | none => s

/-- R131: the latest sample lies below the setpoint; a zone with no sample yet counts so. -/
def State.belowSetpoint (s : State) (z : Zone) : Bool :=
  match z.temperature with
  | some t => decide (t < s.setpoint z.sect)
  | none => true

/-- R131: the max-on timer's end in ON. -/
def State.rotate (s : State) (i : Nat) (z : Zone) : State :=
  if s.belowSetpoint z then (s.waitZone i).attempt else (s.leaveZone i .idle).attempt

/-- MAX_ON_EXPIRY (R131; log 33). -/
def execMaxOnExpiry (zone : Fin 24) (s : State) : Host.Outcome State Fault Refusal :=
  .next <|
    match s.htc.zones[zone.val]? with
    | some z =>
      match z.state, z.maxOnTimer with
      | .on, some expiry => (s.runTo expiry).rotate zone.val z
      | _, _ => s
    | none => s

/-- ARBITER_TIMER_EXPIRY (R137): the timer stands on the closing clock. -/
def execArbiterTimerExpiry (s : State) : Host.Outcome State Fault Refusal :=
  .next <|
    match s.htc.arbiter with
    | some moment => (s.advance (moment - s.htc.clock)).attempt
    | none => s

/-! ## The budget's inputs (R133) -/

/-- REPORT_AGE_EXPIRY (R133). -/
def execReportAgeExpiry (s : State) : Host.Outcome State Fault Refusal :=
  .next <|
    match s.htc.reportAge with
    | some expiry =>
      ((s.runTo expiry).modHtc fun h =>
        { h with reportAge := none, report := h.report.map fun r => { r with fresh := false } }).recomputeBudget
    | none => s

/-- The hand-offs of TRM to HTC, in their order. -/
def Handoff.power : Handoff → Bool
  | .generatorReport _ | .generatorAbsence => true
  | _ => false

/-- R133: HTC takes a report; its age runs from its arrival, for the GEN_TIMEOUT in effect when HTC takes it (log 20, DESIGN
CHOICE). -/
def State.takeReport (s : State) (r : PowerReport) : State :=
  let period := s.settingNat Setting.genTimeout
  (s.modHtc fun h =>
    { h with report := some ⟨r.power, r.arrival, true⟩
             reportAge := some (r.arrival + BitVec.ofNat 32 period) }).recomputeBudget

/-- GENERATOR_REPORT (R133). -/
def execGeneratorReport (s : State) : Host.Outcome State Fault Refusal :=
  .next <|
    match s.take Handoff.power with
    | some (.generatorReport r, t) => t.takeReport r
    | _ => s

/-- GENERATOR_ABSENCE (R133). -/
def execGeneratorAbsence (s : State) : Host.Outcome State Fault Refusal :=
  .next <|
    match s.take Handoff.power with
    | some (.generatorAbsence, t) => (t.modHtc fun h => { h with report := none, reportAge := none }).recomputeBudget
    | _ => s

/-- BUDGET_SETTING_HANDOFF (R133). -/
def execBudgetSettingHandoff (s : State) : Host.Outcome State Fault Refusal :=
  .next <|
    match s.take fun h => match h with | .budgetSetting => true | _ => false with
    | some (_, s) => s.recomputeBudget
    | none => s

/-! ## Level, geometry and map -/

/-- R128: a zone at level OFF. -/
def Zone.off (z : Zone) (now : Word) : Zone := if z.welded then z else { z.release now .disabled with faultKind := none }

/-- R127: the zones of the table, each changed with its index. -/
def Htc.mapZones (h : Htc) (f : Nat → Zone → Zone) : Htc := { h with zones := h.zones.mapIdx f }

/-- R128: HTC takes a heating level. -/
def State.takeLevel (s : State) (level : HeatLevel) : State :=
  let now := s.now
  let old := s.htc.levelSeen
  let s := s.modHtc fun h => { h with levelSeen := level }
  if level = .off then
    s.modHtc fun h => { h.mapZones (fun _ z => z.off now) with waiting := [], arbiter := none }
  else if old = .off then
    s.modHtc fun h => h.mapZones fun i z => if z.state = .disabled then { z with state := h.settled i z.sect } else z
  else s

/-- HEATING_LEVEL_HANDOFF (R128). -/
def execHeatingLevelHandoff (s : State) : Host.Outcome State Fault Refusal :=
  .next <|
    match s.take fun h => match h with | .heatingLevel _ => true | _ => false with
    | some (.heatingLevel level, s) => s.takeLevel level
    | _ => s

/-- R139: a zone at a new live zone set. -/
def Zone.relive (z : Zone) (live : LiveSet) (now : Word) : Zone :=
  match z.state with
  | .idle | .waiting | .closing | .on => if live.has z.sect then z else z.release now .locked
  | .locked => if live.has z.sect then { z with state := .idle } else z
  | .disabled | .fault => z

/-- R136: the waiting list keeps the zones in WAITING alone. -/
def Htc.pruneWaiting (h : Htc) : Htc :=
  { h with waiting := h.waiting.filter fun i => (h.zones[i]?).any fun z => z.state == .waiting }

/-- R139: HTC takes a live zone set. -/
def State.takeLive (s : State) (live : LiveSet) : State :=
  let now := s.now
  (s.modHtc fun h => (Htc.mapZones { h with liveSeen := live } fun _ z => z.relive live now).pruneWaiting).attempt

/-- GEOMETRY_AT_HTC (R139). -/
def execGeometryAtHtc (s : State) : Host.Outcome State Fault Refusal :=
  .next <|
    match s.take fun h => match h with | .geometryToHtc _ => true | _ => false with
    | some (.geometryToHtc record, s) => s.takeLive record.live
    | _ => s

/-- R124: the record of a zone of a map newly in force. -/
def ZoneItem.zone (z : ZoneItem) (now : Word) (state : ZoneState) : Zone :=
  ⟨z.sect, z.rating, z.temperatureInput, z.currentInput, z.contactorOutput, state, none, none, none, now, none, 0, none,
    none⟩

/-- R124: HTC takes a ZONE_MAP newly in force. -/
def State.rebuildZones (s : State) (items : List ZoneItem) : State :=
  let now := s.now
  (s.modHtc fun h =>
    { h with zones := items.mapIdx fun i z => z.zone now (h.settled i z.sect), waiting := [] }).attempt

/-- The hand-offs of the ZONE_MAP page, in their order. -/
def Handoff.zonePage : Handoff → Bool
  | .zoneMapInForce _ | .zoneMapWithdrawn => true
  | _ => false

/-- ZONE_MAP_NEWLY_IN_FORCE (R124). -/
def execZoneMapNewlyInForce (s : State) : Host.Outcome State Fault Refusal :=
  .next <|
    match s.take Handoff.zonePage with
    | some (.zoneMapInForce items, t) => t.rebuildZones items
    | _ => s

/-- ZONE_MAP_WITHDRAWN (R124). -/
def execZoneMapWithdrawn (s : State) : Host.Outcome State Fault Refusal :=
  .next <|
    match s.take Handoff.zonePage with
    | some (.zoneMapWithdrawn, t) => t.modHtc fun h => { h with zones := [], waiting := [] }
    | _ => s

/-- R124: HTC at the run status becoming RUNNING. -/
def Htc.runStart (h : Htc) : Htc :=
  { h.mapZones (fun _ z => { z with onCount := 0, temperature := none, current := none, openSince := 0 }) with
    budgetLow := false }

/-- RUN_STATUS_AT_HTC (R124). -/
def execRunStatusAtHtc (s : State) : Host.Outcome State Fault Refusal :=
  .next <|
    match s.take fun h => match h with | .runStatus .htc _ => true | _ => false with
    | some (.runStatus _ status, s) =>
      let s := s.modHtc fun h => { h with runSeen := status }
      if status = .running then s.modHtc Htc.runStart else s
    | _ => s

/-! ## Orders on zones -/

/-- R140: what a stored enable does to a zone. -/
def State.applyEnable (s : State) (i : Nat) (on : Bool) : State :=
  match s.htc.zones[i]? with
  | none => s
  | some z =>
    match z.state, on with
    | .disabled, true => s.modZone i fun z => { z with state := s.htc.settled i z.sect }
    | .locked, false | .idle, false | .waiting, false | .closing, false | .on, false => (s.leaveZone i .disabled).attempt
    | _, _ => s

/-- R140: the state SET_ZONE gives as result; DISABLED for a zone beyond the count. -/
def Htc.shownState (h : Htc) (i : Nat) : ZoneState := ((h.zones[i]?).map (·.state)).getD .disabled

/-- R140: an enabled zone in these states cannot heat now. -/
def cannotHeat : ZoneState → Bool
  | .disabled | .locked | .fault => true
  | .idle | .waiting | .closing | .on => false

/-- SET_ZONE (R140). -/
def execSetZone (s : State) : Host.Outcome State Fault Refusal :=
  .next <|
    match s.orderOf .setZone with
    | some o =>
      if o.a ≠ 0 ∧ o.a ≠ 1 then s.finishRefused .range
      else
        let on := decide (o.a = 1)
        let s := (s.modHtc fun h => { h with enables := h.enables.set o.zone on }).applyEnable o.zone.val on
        let shown := s.htc.shownState o.zone.val
        s.finishDone (BitVec.ofNat 32 shown.code) false (on && cannotHeat shown) false
    | none => s

/-- R141: the current of a WELDED zone may still flow. -/
def Zone.stillWelded (z : Zone) : Bool :=
  z.welded &&
    match z.current with
    | some c => decide (100 ≤ c)
    | none => true

/-- R141: a zone's fault is cleared and its standing settled. R141 names a grant attempt for a WELDED zone; one follows for a
fault of every kind (log 46(c), DESIGN CHOICE). -/
def State.clearZone (s : State) (i : Nat) : State :=
  (s.modZone i fun z => { z with faultKind := none, state := s.htc.settled i z.sect }).attempt

/-- CLEAR_FAULT_ZONE (R141). -/
def execClearFaultZone (s : State) : Host.Outcome State Fault Refusal :=
  .next <|
    match s.clearFaultOf 0 with
    | some o =>
      match s.htc.zones[o.subject.toNat]? with
      | none => s.finishRefused .notFaulted
      | some z =>
        if z.state ≠ .fault then s.finishRefused .notFaulted
        else if z.stillWelded then s.finishRefused .wrongState
        else (s.clearZone o.subject.toNat).finishDone (BitVec.ofNat 32 z.onCount) false false false
    | none => s

end Sys2Proof.Machine
end

