-- ==== Sys2Proof/Machine/Feed.lean ====
section
/-! DEFINITION. The Feed Controller: level sensing, demand, jams and coupling (09). -/
namespace Sys2Proof.Machine

/-! ## Channels -/

/-- The state with a channel's record changed. -/
def State.modChannel (s : State) (c : Fin 4) (f : Channel → Channel) : State :=
  s.modFdc fun d => { d with channels := d.channels.set c (f d.channels[c]) }

/-- A channel's record. -/
def State.channel (s : State) (c : Fin 4) : Channel := s.fdc.channels[c]

/-- R144: the sensing period in milliseconds. -/
def Fdc.sensePeriod (d : Fdc) : Nat := if d.machineSeen = .pave then 50 else 200

/-- R142, R150: the run state set; the speed count starts again at each change. -/
def Channel.setRun (c : Channel) (run : FeedState) : Channel :=
  if c.run = run then c else { c with run := run, speedCount := 0 }

/-- R143, R144: an automatic mode. -/
def FeedMode.automatic : FeedMode → Bool
  | .autoLevel | .autoFlow => true
  | .off | .manual => false

/-! ## Demand (R147 to R149) -/

/-- R147: a channel's LEVEL_SET. -/
def levelSetting (c : Fin 4) : SettingId :=
  match c with
  | 0 => Setting.levelSetC0
  | 1 => Setting.levelSetC1
  | 2 => Setting.levelSetC2
  | 3 => Setting.levelSetC3

/-- R147: the level term. -/
def State.levelTerm (s : State) (c : Fin 4) (level : Nat) : Int :=
  ((s.setting (levelSetting c) - level) * s.setting Setting.levelGain).tdiv 10

/-- R148: the flow term. -/
def State.flowTerm (s : State) (c : Fin 4) : Nat :=
  let drive := s.fdc.speedSeen * s.settingNat Setting.flowFactor
  match c with
  | 0 | 1 => drive * (s.fdc.halfLeft + s.fdc.halfRight) / 300000
  | 2 => drive * s.fdc.halfLeft / 150000
  | 3 => drive * s.fdc.halfRight / 150000

/-- R147: AUTO_LEVEL's demand at a level. -/
def State.levelDemand (s : State) (c : Fin 4) (level : Nat) : Nat :=
  if s.setting (levelSetting c) ≤ level then 0
  else (clamp 0 1000 (s.setting Setting.feedBase + s.levelTerm c level)).toNat

/-- R147: AUTO_FLOW's demand at a level. -/
def State.flowDemand (s : State) (c : Fin 4) (level : Nat) : Nat :=
  (clamp 0 1000 (s.flowTerm c + s.levelTerm c level)).toNat

/-- R147: the demand of a RUNNING channel in the effective mode seen. -/
def State.modeDemand (s : State) (c : Fin 4) (r : Channel) : Nat :=
  match r.modeSeen, r.level with
  | .manual, _ => r.manual
  | .autoLevel, some level => s.levelDemand c level
  | .autoFlow, some level => s.flowDemand c level
  | _, _ => 0

/-- R147, R151: the demand a recompute gives. -/
def State.demandOf (s : State) (c : Fin 4) (r : Channel) : Nat :=
  if r.coupled then 0
  else
    match r.run with
    | .idle | .sensorLost | .jammed => 0
    | .holding => r.demand
    | .running => s.modeDemand c r

/-- R150: the stall timer settled. -/
def State.settleStall (s : State) (c : Fin 4) : State :=
  let start := s.startTimer (s.settingNat Setting.stallTime)
  let jam := s.settingNat Setting.jamDemand
  s.modChannel c fun r =>
    { r with stallTimer := if jam ≤ r.demand ∧ r.run ≠ .jammed then r.stallTimer <|> start else none }

/-- R149: a channel's demand recomputed and its stall timer settled. -/
def State.recomputeDemand (s : State) (c : Fin 4) : State :=
  let demand := s.demandOf c (s.channel c)
  (s.modChannel c fun r => { r with demand := demand }).settleStall c

/-- R149: the AUTO_FLOW channels recomputed. -/
def State.recomputeFlow (s : State) : State :=
  ([0, 1, 2, 3] : List (Fin 4)).foldl
    (fun s c => if (s.channel c).modeSeen = .autoFlow then s.recomputeDemand c else s) s

/-! ## Modes and sensing (R143, R144) -/

/-- R143: sensing stopped. -/
def Channel.stopSensing (r : Channel) : Channel :=
  { r with senseTimer := .stopped, supplyClosed := false, invalidCount := 0, validCount := 0, level := none }

/-- R143: a run state other than JAMMED becomes another. -/
def Channel.moveRun (r : Channel) (run : FeedState) : Channel := if r.run = .jammed then r else r.setRun run

/-- R143: a channel takes its effective mode; `start` is the end of the first sensing period. -/
def Channel.takeMode (r : Channel) (mode : FeedMode) (start : Word) : Channel :=
  match mode with
  | .off => { (r.stopSensing.moveRun .idle) with modeSeen := .off, graceTimer := none }
  | .manual => { (r.stopSensing.moveRun .running) with modeSeen := .manual, graceTimer := none }
  | .autoLevel | .autoFlow =>
    if r.modeSeen.automatic then { r with modeSeen := mode }
    else { (r.stopSensing.moveRun .running) with modeSeen := mode, senseTimer := .period start }

/-- R143: FDC takes a channel's effective mode, and recomputes its demand in the same event. -/
def State.takeFeedMode (s : State) (c : Fin 4) (mode : FeedMode) : State :=
  let start := s.now + BitVec.ofNat 32 s.fdc.sensePeriod
  (s.modChannel c fun r => r.takeMode mode start).recomputeDemand c

/-- The hand-offs of a channel's effective mode, from MSC to FDC (R17). -/
def Handoff.feedOf (c : Fin 4) : Handoff → Bool
  | .feedMode k _ => k == c
  | _ => false

/-- FEED_MODE_HANDOFF (R143). -/
def execFeedModeHandoff (channel : Fin 4) (s : State) : Host.Outcome State Fault Refusal :=
  .next <|
    match s.take (Handoff.feedOf channel) with
    | some (.feedMode _ mode, s) => s.takeFeedMode channel mode
    | _ => s

/-- R143: the modes that wait for a channel, at most `n` of them, taken oldest first, as far as R5 lets them be taken. -/
def State.takeFeedModes (s : State) (c : Fin 4) : Nat → State
  | 0 => s
  | n + 1 =>
    match s.take (Handoff.feedOf c) with
    | some (.feedMode _ mode, s) => (s.takeFeedMode c mode).takeFeedModes c n
    | _ => s

/-- MACHINE_STATE_AT_FDC (R143). -/
def execMachineStateAtFdc (s : State) : Host.Outcome State Fault Refusal :=
  .next <|
    match s.take fun h => match h with | .machineToFdc _ => true | _ => false with
    | some (.machineToFdc state, s) => s.modFdc fun d => { d with machineSeen := state }
    | _ => s

/-- SENSE_PERIOD_EXPIRY (R144, step 1). -/
def execSensePeriodExpiry (channel : Fin 4) (s : State) : Host.Outcome State Fault Refusal :=
  .next <|
    match (s.channel channel).senseTimer with
    | .period expiry =>
      let s := s.runTo expiry
      let on := s.settingNat Setting.senseOn
      let finish := s.now + BitVec.ofNat 32 on
      s.modChannel channel fun r => { r with supplyClosed := true, senseTimer := .onTime finish on }
    | _ => s

/-- R145: a sample is valid. -/
def sampleValid (sample : Nat) : Bool := decide (50 ≤ sample) && decide (sample ≤ 950)

/-- R145: the level of a valid sample. -/
def levelOf (sample : Nat) : Nat := (sample - 50) * 1000 / 900

/-- R145: the counts and the level after a judgement. -/
def Channel.judged (r : Channel) (sample : Nat) : Channel :=
  if sampleValid sample then
    { r with level := some (levelOf sample), invalidCount := 0, validCount := min 3 (r.validCount + 1) }
  else { r with validCount := 0, invalidCount := min 3 (r.invalidCount + 1) }

/-- R146: a channel returns to RUNNING. -/
def State.resumeRunning (s : State) (c : Fin 4) : State :=
  (s.modChannel c fun r => { r.setRun .running with graceTimer := none }).recomputeDemand c

/-- R145, R146: the run state follows the judgement of a sample. -/
def State.followSample (s : State) (c : Fin 4) (sample : Nat) : State :=
  let r := s.channel c
  match r.run with
  | .running =>
    if sampleValid sample then s.recomputeDemand c
    else if r.invalidCount = 3 then
      let grace := s.startTimer (s.settingNat Setting.sensorGrace)
      (s.modChannel c fun r => { r.setRun .holding with graceTimer := grace }).settleStall c
    else s
  | .holding => if sampleValid sample ∧ r.validCount = 3 then s.resumeRunning c else s
  | .sensorLost =>
    if sampleValid sample ∧ r.validCount = 3 then
      (s.resumeRunning c).postNote .sensorRestored c.val (BitVec.ofNat 32 (levelOf sample))
    else s
  | .idle | .jammed => s

/-- R144, step 2: the sample stored, the supply opened, the period restarted less the on-time, the sample judged. -/
def State.endOnTime (s : State) (c : Fin 4) (length sample : Nat) : State :=
  let next := s.now + BitVec.ofNat 32 (s.fdc.sensePeriod - length)
  (s.modChannel c fun r =>
    { r with lastSample := some sample, supplyClosed := false, senseTimer := .period next }.judged sample).followSample c
    sample

/-- ON_TIME_END (R144 to R146). -/
def execOnTimeEnd (channel : Fin 4) (sample : Nat) (s : State) : Host.Outcome State Fault Refusal :=
  .next <|
    match (s.channel channel).senseTimer with
    | .onTime expiry length => (s.runTo expiry).endOnTime channel length sample
    | _ => s

/-- R146: the grace has run out. -/
def State.loseSensor (s : State) (c : Fin 4) : State :=
  let sample := ((s.channel c).lastSample).getD 0
  (s.modChannel c fun r => { r.setRun .sensorLost with demand := 0, stallTimer := none }).postNote .sensorLost c.val
    (BitVec.ofNat 32 sample)

/-- GRACE_EXPIRY (R146). -/
def execGraceExpiry (channel : Fin 4) (s : State) : Host.Outcome State Fault Refusal :=
  .next <|
    match (s.channel channel).graceTimer with
    | some expiry =>
      let s := (s.runTo expiry).modChannel channel fun r => { r with graceTimer := none }
      if (s.channel channel).run = .holding then s.loseSensor channel else s
    | none => s

/-! ## Jams and coupling (R150, R151) -/

/-- R151: the conveyor an auger couples. -/
def conveyorOf (c : Fin 4) : Option (Fin 4) :=
  match c with
  | 2 => some 0
  | 3 => some 1
  | _ => none

/-- R151: a jammed auger couples its conveyor. -/
def State.couple (s : State) (c : Fin 4) : State :=
  match conveyorOf c with
  | some k => (s.modChannel k fun r => { r with coupled := true, demand := 0 }).settleStall k
  | none => s

/-- R151: an auger's coupling ends. -/
def State.uncouple (s : State) (c : Fin 4) : State :=
  match conveyorOf c with
  | some k => (s.modChannel k fun r => { r with coupled := false }).recomputeDemand k
  | none => s

/-- R150: a channel becomes JAMMED. -/
def State.jam (s : State) (c : Fin 4) : State :=
  let demand := (s.channel c).demand
  let s := s.modChannel c fun r => { r.setRun .jammed with demand := 0, stallTimer := none, graceTimer := none }
  (s.postNote .feedJam c.val (BitVec.ofNat 32 demand)).couple c

/-- STALL_EXPIRY (R150, R151). -/
def execStallExpiry (channel : Fin 4) (s : State) : Host.Outcome State Fault Refusal :=
  .next <|
    match (s.channel channel).stallTimer with
    | some expiry => (s.runTo expiry).jam channel
    | none => s

/-- SPEED_PULSE (R150): a running stall timer restarts while the demand is at or above JAM_DEMAND, which is read then. That it
stops where the demand is below a JAM_DEMAND raised since, is log 49 (DESIGN CHOICE; R150 does not say what follows). -/
def execSpeedPulse (channel : Fin 4) (s : State) : Host.Outcome State Fault Refusal :=
  .next <|
    let restart := s.startTimer (s.settingNat Setting.stallTime)
    let jam := s.settingNat Setting.jamDemand
    s.modChannel channel fun r =>
      { r with speedCount := r.speedCount + 1
               stallTimer := if r.stallTimer.isSome ∧ jam ≤ r.demand ∧ r.run ≠ .jammed then restart else none }

/-! ## Speed and geometry (R149) -/

/-- SPEED_HANDOFF (R149). -/
def execSpeedHandoff (s : State) : Host.Outcome State Fault Refusal :=
  .next <|
    match s.take fun h => match h with | .speedToFdc _ => true | _ => false with
    | some (.speedToFdc speed, s) => (s.modFdc fun d => { d with speedSeen := speed }).recomputeFlow
    | _ => s

/-- GEOMETRY_AT_FDC (R149). -/
def execGeometryAtFdc (s : State) : Host.Outcome State Fault Refusal :=
  .next <|
    match s.take fun h => match h with | .geometryToFdc _ => true | _ => false with
    | some (.geometryToFdc g, s) =>
      (s.modFdc fun d => { d with halfLeft := g.halfLeft, halfRight := g.halfRight }).recomputeFlow
    | _ => s

/-! ## Orders on channels -/

/-- R16: the mode operand B asks for. -/
def feedModeOf (b : Nat) : Option FeedMode :=
  match b with
  | 0 => some .off
  | 1 => some .manual
  | 2 => some .autoLevel
  | 3 => some .autoFlow
  | _ => none

/-- R16, R22: MSC stores a channel's requested mode and recomputes; a change of either has the summary rewritten. -/
def State.requestFeed (s : State) (c : Fin 4) (mode : FeedMode) : State :=
  let old := s.msc
  let s := (s.modMsc fun m => { m with feedRequested := m.feedRequested.set c mode }).recompute
  if old.feedRequested ≠ s.msc.feedRequested ∨ modesChanged old s.msc then s.requestRewrite else s

/-- R152: the manual demand is stored. Where the channel is in effective MANUAL after the order and not JAMMED, FDC takes in
this event the modes that wait for the channel, the order's own last (log 48, DEDUCED), and recomputes, so the demand drives
the output from the event that stores it. A mode that must wait for the PAVE entry (R5) stays waiting; then the demand drives
from the event that takes MANUAL (log 43(h), DESIGN CHOICE). -/
def State.storeManual (s : State) (c : Fin 4) (demand : Nat) : State :=
  let s := s.modChannel c fun r => { r with manual := demand }
  if s.msc.feedEffective[c] = .manual ∧ (s.channel c).run ≠ .jammed then
    let s := s.takeFeedModes c s.inbox.length
    if (s.channel c).modeSeen = .manual then s.recomputeDemand c else s
  else s

/-- SET_FEED (R16, R152). -/
def execSetFeed (s : State) : Host.Outcome State Fault Refusal :=
  .next <|
    match s.orderOf .setFeed with
    | some o =>
      match feedModeOf o.b with
      | some mode =>
        let demand := clamp 0 1000 o.a
        if o.strict ∧ demand ≠ o.a then s.finishRefused .range
        else
          let s := (s.requestFeed o.channel mode).storeManual o.channel demand.toNat
          let effective := s.msc.feedEffective[o.channel]
          s.finishDone (BitVec.ofNat 32 effective.code) (decide (demand ≠ o.a)) (decide (effective ≠ mode)) false
      | none => s.finishRefused .range
    | none => s

/-- R153: the run state of a cleared channel. -/
def Channel.clearedRun (r : Channel) : FeedState :=
  match r.modeSeen with
  | .off => .idle
  | .manual => .running
  | .autoLevel | .autoFlow => if r.invalidCount < 3 then .running else .holding

/-- R153: a jam is cleared. -/
def State.clearJam (s : State) (c : Fin 4) : State :=
  let grace := s.startTimer (s.settingNat Setting.sensorGrace)
  let s := s.modChannel c fun r =>
    { r.setRun r.clearedRun with graceTimer := if r.clearedRun = .holding then grace else none }
  (s.recomputeDemand c).uncouple c

/-- CLEAR_FAULT_CHANNEL (R153). -/
def execClearFaultChannel (s : State) : Host.Outcome State Fault Refusal :=
  .next <|
    match s.clearFaultOf 1 with
    | some o =>
      let r := s.channel o.channel
      if r.run ≠ .jammed then s.finishRefused .notFaulted
      else (s.clearJam o.channel).finishDone (BitVec.ofNat 32 r.speedCount) false false false
    | none => s

end Sys2Proof.Machine
end

