-- ==== Sys2Proof/Machine/Records.lean ====
section
/-! DEFINITION. The Mat Record Unit: triggers, lines, the entry queue, record pages and the reference cycle (10). -/
namespace Sys2Proof.Machine

/-! ## Entries and pages as bytes (12.6) -/

/-- R155: a number rounded up to a multiple of 4. -/
def roundUp4 (n : Nat) : Nat := (n + 3) / 4 * 4

/-- R155: an entry's length in bytes. -/
def Entry.length : Entry → Nat
  | .line l => roundUp4 (28 + 2 * l.points.length)
  | .stop _ | .mark _ _ _ _ | .gap _ _ _ _ _ => 32

/-- 12.6: an entry's first byte. -/
def Entry.firstByte : Entry → Byte
  | .line l => entryFlagByte 0 l.flags
  | .stop _ => entryFlagByte 1 0
  | .mark _ _ _ _ => entryFlagByte 2 0
  | .gap _ _ _ _ _ => entryFlagByte 3 0

/-- R155: an entry's chainage. -/
def Entry.chainage : Entry → Word
  | .line l => l.line.chainage
  | .stop p => p.chainage
  | .mark c _ _ _ => c
  | .gap c _ _ _ _ => c

/-- R155: an entry's run time. -/
def Entry.runTime : Entry → Word
  | .line l => l.line.runTime
  | .stop p => p.runTime
  | .mark _ t _ _ => t
  | .gap _ t _ _ _ => t

/-- 12.6: byte 3 of an entry. -/
def Entry.thirdByte : Entry → Byte
  | .line l => BitVec.ofNat 8 l.coldCount
  | _ => 0

/-- 12.6: the source and stamp of a MARK; a console mark's stamp bytes are 0 (log 44, DESIGN CHOICE: 12.6 gives them no value).
-/
def MarkSource.bytes : MarkSource → List Byte
  | .order stamp => [1, 0] ++ leBytes 2 stamp.toNat
  | .console => [2, 0, 0, 0]

/-- 12.6: the body of an entry, from byte 14, less its closing zeros. -/
def Entry.body : Entry → List Byte
  | .line l =>
    leBytes 1 l.line.windowFirst ++ leBytes 1 l.line.windowCount ++ leBytes 2 l.line.halfLeft ++
      leBytes 2 l.line.halfRight ++ leBytes 2 (BitVec.ofInt 16 l.mean).toNat ++ leBytes 1 l.minIndex ++
      leBytes 1 l.maxIndex ++ leBytes 4 l.line.sequence.toNat ++ l.points.flatMap fun p => leBytes 2 p.toNat
  | .stop p =>
    match p.ended with
    | some (duration, cause) => leBytes 4 duration.toNat ++ [BitVec.ofNat 8 cause.code]
    | none => []
  | .mark _ _ code source => leBytes 2 code.toNat ++ source.bytes
  | .gap _ _ lost missed reason => leBytes 4 lost.toNat ++ leBytes 4 missed.toNat ++ [BitVec.ofNat 8 reason.code]

/-- 12.6: bytes 0 to 11 of an entry. -/
def Entry.header (e : Entry) (sequence : Word) : List Byte :=
  [e.firstByte, BitVec.ofNat 8 e.length, sequence.truncate 8, e.thirdByte] ++ leBytes 4 e.chainage.toNat ++
    leBytes 4 e.runTime.toNat

/-- 12.6: the body filled with zeros to the entry's length. -/
def Entry.filled (e : Entry) : List Byte := e.body ++ List.replicate (e.length - 14 - e.body.length) 0

/-- 12.6, R173: an entry as it is written. -/
def Entry.bytes (e : Entry) (sequence : Word) : List Byte :=
  e.header sequence ++ leBytes 2 (crc16 (e.header sequence ++ e.filled)).toNat ++ e.filled

/-- 12.6: header bytes 1 to 21 of a page. -/
def OpenPage.headerBody (p : OpenPage) (closedBy : ClosedBy) : List Byte :=
  [BitVec.ofNat 8 closedBy.code] ++ leBytes 2 p.entryCount ++ leBytes 4 p.pageSequence.toNat ++
    leBytes 4 p.firstSequence.toNat ++ leBytes 4 p.firstChainage.toNat ++ leBytes 4 p.lastChainage.toNat ++
    leBytes 2 p.area.length

/-- 12.6, R173: header bytes 1 to 31 of a page. -/
def OpenPage.header (p : OpenPage) (closedBy : ClosedBy) : List Byte :=
  p.headerBody closedBy ++ leBytes 2 (crc16 (p.headerBody closedBy ++ p.area)).toNat ++ List.replicate 8 0

/-- Where a page stands in the region. -/
def State.pageOffset (s : State) (ringIndex : Nat) : Nat := s.rif.layoutCopy.ringOffset + 4096 * ringIndex

/-! ## The writer (R162 to R164) -/

/-- R161: an open STOP. -/
def Entry.isOpenStop : Entry → Bool
  | .stop p => p.ended.isNone
  | _ => false

/-- R161: the pending stop joins at its place once a place is free. -/
def Mru.admitStop (m : Mru) : Mru :=
  match m.pendingStop with
  | some p =>
    if m.entriesQueued < 16 then
      { m with pendingStop := none, queue := m.queue.map fun i => if i = .stopPlace then .entry (.stop p) else i }
    else m
  | none => m

/-- R162: the page closed by one header write. -/
def Mru.issueClose (m : Mru) (closedBy : ClosedBy) : Mru := { m with op := .close closedBy }

/-- R162: the open page holds entries. -/
def Mru.pageHolds (m : Mru) : Bool := m.openPage.any fun p => decide (0 < p.entryCount)

/-- R160: the GAP of a pending GAP, at a chainage and run time. -/
def PendingGap.entry (g : PendingGap) (chainage runTime : Word) : Entry := .gap chainage runTime g.lost g.missed g.reason

/-- R164: the reason for the close at a close mark. -/
def Mru.markReason (m : Mru) : ClosedBy := if m.runSeen = .stopping then .stop else .state

/-- R162: a page search is issued. -/
def Mru.issueSearch (m : Mru) : Mru := { m with op := .search m.searchIndex }

/-- R162: the writer takes a ready entry: written where it fits, else the page is closed FULL; with no page open a search
is made where one is due. -/
def Mru.writeHead (m : Mru) (e : Entry) (search : Bool) : Mru :=
  match m.openPage with
  | some p =>
    if e.length ≤ 4064 - p.area.length then { m with op := .entryWrite m.nextEntry, nextEntry := m.nextEntry + 1 }
    else m.issueClose .full
  | none => if search || m.runSeen == .stopping then m.issueSearch else m

/-- R160: lines lost and triggers missed counted in a GAP, made if absent; its first reason is kept. -/
def gapWith (gap : Option PendingGap) (lost missed : Word) (reason : GapReason) : PendingGap :=
  match gap with
  | some g => ⟨g.lost + lost, g.missed + missed, g.reason⟩
  | none => ⟨lost, missed, reason⟩

/-- R164: what the first period whose close mark stands in these places has left, where a later period has begun. -/
def periodLeft : List QueueItem → Option PeriodEnd
  | [] => none
  | .closePast left :: _ => some left
  | _ :: rest => periodLeft rest

/-- R164: that period's pending GAP, set. -/
def setPeriodGap (gap : Option PendingGap) : List QueueItem → List QueueItem
  | [] => []
  | .closePast left :: rest => .closePast { left with gap := gap } :: rest
  | i :: rest => i :: setPeriodGap gap rest

/-- The queue from the place of the line in flight on. -/
def fromLine (q : List QueueItem) : List QueueItem := q.dropWhile (· ≠ .linePlace)

/-- R160, R164: the pending GAP of the period of the line in flight, which may have ended before a later one began (log 27). -/
def Mru.lineGap (m : Mru) : Option PendingGap :=
  match periodLeft (fromLine m.queue) with
  | some left => left.gap
  | none => m.pendingGap

/-- R160, R164: that GAP, set. -/
def Mru.setLineGap (m : Mru) (gap : Option PendingGap) : Mru :=
  match periodLeft (fromLine m.queue) with
  | some _ =>
    { m with queue := m.queue.takeWhile (· ≠ .linePlace) ++ setPeriodGap gap (fromLine m.queue) }
  | none => { m with pendingGap := gap }

/-- R160: a GAP that takes in the counts of a later one. -/
def PendingGap.before (g : PendingGap) : Option PendingGap → PendingGap
  | some later => gapWith (some g) later.lost later.missed later.reason
  | none => g

/-- R164: a GAP whose close mark found no room for it stays pending, with what the next period misses (log 27). -/
def Mru.carryGap (m : Mru) (g : PendingGap) : Mru :=
  match periodLeft m.queue with
  | some left => { m with queue := setPeriodGap (some (g.before left.gap)) m.queue }
  | none => { m with pendingGap := some (g.before m.pendingGap) }

/-- R155, R164: the GAP that joins at a close mark: the pending one, at chainage seen and run time now, or, where a later period
has begun since, what the mark's own period left, at its end. -/
def Mru.gapAtMark (m : Mru) (now : Word) : QueueItem → Option Entry
  | .closeMark => m.pendingGap.map fun g => g.entry m.chainageSeen now
  | .closePast left => left.gap.map fun g => g.entry left.chainage left.runTime
  | _ => none

/-- R164: the GAP of a close mark has joined ahead of it. -/
def Mru.joinAtMark (m : Mru) (mark : QueueItem) (gap : Entry) (rest : List QueueItem) : Mru :=
  { m with
    pendingGap := if mark = .closeMark then none else m.pendingGap
    queue := .entry gap :: .closeDue :: rest }

/-- R164: a close mark leaves the queue; a GAP that found no room stays pending, with the next period's where its own is over. -/
def Mru.leaveMark (m : Mru) (mark : QueueItem) (rest : List QueueItem) : Mru :=
  let m := { m with queue := rest }
  match mark with
  | .closePast ⟨some g, _, _⟩ => m.carryGap g
  | _ => m

/-- R162, R164: the writer at the head of the queue: it writes, closes, passes a close mark, or waits. At a close mark the GAP
of its period joins ahead of it where there is room, and no other (log 27); then the open page is closed where it holds entries,
else the mark is passed. `fuel` bounds the marks passed. -/
def Mru.runWriter (now : Word) : Nat → Bool → Mru → Mru
  | 0, _, m => m
  | fuel + 1, search, m =>
    match m.queue with
    | .entry e :: _ => if e.isOpenStop then m else m.writeHead e search
    | [] | .linePlace :: _ | .stopPlace :: _ => m
    | mark :: rest =>
      match m.gapAtMark now mark, decide (m.entriesQueued < 16) with
      | some gap, true => Mru.runWriter now fuel true (m.joinAtMark mark gap rest)
      | _, _ =>
        if m.pageHolds then Mru.issueClose (m.leaveMark mark rest) m.markReason
        else Mru.runWriter now fuel search (m.leaveMark mark rest)

/-- R164: the drain has no entry left and nothing in flight, the records mode being OFF (log 28); a reference cycle that has not
ended does not delay it (log 46(f), DESIGN CHOICE). -/
def Mru.drained (m : Mru) : Bool :=
  m.runSeen == .stopping && m.recordsSeen == .off && m.queue.isEmpty && m.line.isNone && m.pendingStop.isNone &&
    m.op == .none && !m.flushing

/-- R24, R162: the pieces of a page operation just issued: an entry at the next free byte, or the page header with its owner
last; a search is a read. -/
def State.pagePieces (s : State) : List (Nat × List Byte) :=
  match s.mru.op, s.mru.openPage, s.mru.queue with
  | .entryWrite sequence, some p, .entry e :: _ =>
    [(s.pageOffset p.ringIndex + 32 + p.area.length, e.bytes sequence)]
  | .close closedBy, some p, _ => [(s.pageOffset p.ringIndex + 1, p.header closedBy), (s.pageOffset p.ringIndex, [2])]
  | _, _, _ => []

/-- R24, R162: a page operation just issued goes to the memory port. -/
def State.issuePage (s : State) : State :=
  match s.mru.op with
  | .entryWrite _ | .close _ => s.issueWrite .page s.pagePieces
  | .none | .search _ => s

/-- R164: at a drain's end the page is closed and records quiet reported. -/
def State.settleDrain (s : State) : State :=
  if s.mru.drained then
    if s.mru.pageHolds then s.modMru fun m => m.issueClose .stop
    else s.modRif fun r => { r with recordsQuiet := true }
  else s

/-- R162 to R164: the writer's next operation, when none is in flight. A flush closes the page before any further
entry is written (R163). -/
def State.nextOp (s : State) (search : Bool) : State :=
  if s.mru.flushing then s.modMru fun m => m.issueClose .flush
  else (s.modMru fun m => Mru.runWriter s.now (2 * m.queue.length + 2) search m).settleDrain

/-- R162 to R164: the writer goes on when no page operation is in flight; while a page search is, an entry that joins or a
sweep's expiry makes no second one (log 46(e), DESIGN CHOICE). -/
def State.drive (s : State) (search : Bool) : State :=
  if s.mru.op ≠ .none then s else (s.nextOp search).issuePage

/-- An entry joins at the tail of the queue. -/
def State.joinQueue (s : State) (e : Entry) : State :=
  (s.modMru fun m => { m with queue := m.queue ++ [.entry e] }).drive true

/-- R160: RECORD_LOSS, once until a page is opened. -/
def State.reportLoss (s : State) (subject : Nat) : State :=
  if s.mru.lossReported then s
  else
    (s.postNote .recordLoss subject ((s.mru.openPage.map (·.pageSequence)).getD 0)).modMru fun m =>
      { m with lossReported := true }

/-! ## Triggers (R156 to R158) -/

/-- R160: triggers missed. -/
def Mru.miss (m : Mru) (count : Nat) (reason : GapReason) : Mru :=
  if count = 0 then m
  else
    { m with
      triggersMissed := m.triggersMissed + BitVec.ofNat 32 count
      pendingGap := some (gapWith m.pendingGap 0 (BitVec.ofNat 32 count) reason) }

/-- R158: why a trigger would be missed. -/
def Mru.missReason (m : Mru) : Option GapReason :=
  if m.referencePhase ≠ .idle then some .reference
  else if m.line.isSome then some .busy
  else
    match m.scannerSeen with
    | none | some .dropped | some .mismatch => some .scanner
    | _ => none

/-- R158: what a trigger captures. -/
def Mru.capture (m : Mru) (now : Word) (unplaced : Bool) : LineInFlight where
  chainage := m.chainageSeen
  runTime := now
  windowFirst := m.geometry.windowFirst
  windowCount := m.geometry.windowCount
  halfLeft := m.geometry.halfLeft
  halfRight := m.geometry.halfRight
  sequence := m.geometry.sequence
  unplaced := unplaced
  stale := m.geometry.width == .stale
  afterStop := m.afterStop
  phase := .triggerWait

/-- R158: a trigger at chainage seen. -/
def State.trigger (s : State) (unplaced : Bool) : State :=
  match s.mru.missReason with
  | some reason => s.modMru fun m => m.miss 1 reason
  | none =>
    (s.modMru fun m =>
      { m with line := some (m.capture s.now unplaced), afterStop := false, queue := m.queue ++ [.linePlace] }).hand
      (.scannerRequest .trigger)

/-- R156: the trigger points crossed. -/
def crossedPoints (chainage next spacing : Nat) : Nat := if next ≤ chainage then 1 + (chainage - next) / spacing else 0

/-- R154: chainage seen after an advance. -/
def Mru.advanceTo (m : Mru) (c : Word) : Mru := if m.chainageSeen ≤ c then { m with chainageSeen := c } else m

/-- R156: an advance in RUN with travel LIVE: one trigger, the other points missed (log 24). -/
def State.runAdvance (s : State) (next : Nat) : State :=
  let spacing := s.settingNat Setting.lineSpacing
  let k := crossedPoints s.mru.chainageSeen.toNat next spacing
  if k = 0 then s
  else (s.trigger false).modMru fun m => { m.miss (k - 1) .spacing with nextTrigger := some (next + k * spacing) }

/-- R156: what an advance does in the records mode seen. -/
def State.advanceRecords (s : State) : State :=
  match s.mru.recordsSeen, s.mru.nextTrigger with
  | .run, some next => if s.mru.travelSeen = .live then s.runAdvance next else s
  | .stopmark, some next =>
    let spacing := s.settingNat Setting.lineSpacing
    s.modMru fun m =>
      { m with nextTrigger := some (next + crossedPoints m.chainageSeen.toNat next spacing * spacing) }
  | _, _ => s

/-- CHAINAGE_ADVANCE_AT_MRU (R154, R156). -/
def execChainageAdvanceAtMru (s : State) : Host.Outcome State Fault Refusal :=
  .next <|
    match s.take fun h => match h with | .advanceToMru _ => true | _ => false with
    | some (.advanceToMru c, s) => (s.modMru fun m => m.advanceTo c).advanceRecords
    | _ => s

/-- R157: the fallback timer runs in RUN while travel is not LIVE. -/
def State.settleFallback (s : State) : State :=
  let start := s.startTimer (s.settingNat Setting.fallbackInterval)
  s.modMru fun m =>
    { m with fallbackTimer :=
        if m.recordsSeen = .run ∧ m.travelSeen ≠ .live then m.fallbackTimer <|> start else none }

/-- TRAVEL_STATUS_AT_MRU (R157). -/
def execTravelStatusAtMru (s : State) : Host.Outcome State Fault Refusal :=
  .next <|
    match s.take fun h => match h with | .travelToMru _ => true | _ => false with
    | some (.travelToMru status, s) => (s.modMru fun m => { m with travelSeen := status }).settleFallback
    | _ => s

/-- FALLBACK_TIMER_EXPIRY (R157). -/
def execFallbackTimerExpiry (s : State) : Host.Outcome State Fault Refusal :=
  .next <|
    match s.mru.fallbackTimer with
    | some expiry =>
      let s := s.runTo expiry
      let timer := s.startTimer (s.settingNat Setting.fallbackInterval)
      (s.modMru fun m => { m with fallbackTimer := timer }).trigger true
    | none => s

/-! ## The reference cycle (R165) -/

/-- R165: the scanner is asked for a REFERENCE. -/
def State.askReference (s : State) : State :=
  (s.modMru fun m => { m with referencePhase := .wait }).hand (.scannerRequest .reference)

/-- R165: the cycle is run. -/
def State.runCycle (s : State) : State :=
  let s := s.modMru fun m => { m with referenceTimer := none }
  if s.mru.line.isSome then s.modMru fun m => { m with referencePhase := .pending } else s.askReference

/-- R165: the reference timer for REFERENCE_INTERVAL seconds, while the run status seen is RUNNING or STOPPING. -/
def State.referenceStart (s : State) : Timer :=
  if s.mru.runSeen = .running ∨ s.mru.runSeen = .stopping then
    s.startTimer (1000 * s.settingNat Setting.referenceInterval)
  else none

/-- R165: the end of the cycle. -/
def State.endCycle (s : State) : State :=
  s.modMru fun m =>
    { m with referencePhase := .idle, postponeCount := 0, cycleTimer := none, referenceTimer := s.referenceStart }

/-- R165: the reference timer's expiry. -/
def State.referenceDue (s : State) : State :=
  if s.mru.recordsSeen = .run then
    if s.mru.postponeCount < 4 then
      let timer := s.startTimer 30000
      s.modMru fun m => { m with postponeCount := m.postponeCount + 1, referenceTimer := timer }
    else (s.postNote .referenceForced 0 4).runCycle
  else s.runCycle

/-- REFERENCE_TIMER_EXPIRY (R165). -/
def execReferenceTimerExpiry (s : State) : Host.Outcome State Fault Refusal :=
  .next <|
    match s.mru.referenceTimer with
    | some expiry => ((s.runTo expiry).modMru fun m => { m with referenceTimer := none }).referenceDue
    | none => s

/-- CYCLE_TIMER_EXPIRY (R165). -/
def execCycleTimerExpiry (s : State) : Host.Outcome State Fault Refusal :=
  .next <|
    match s.mru.cycleTimer with
    | some expiry => (s.runTo expiry).endCycle
    | none => s

/-! ## Lines (R158 to R160) -/

/-- 12.6: the value that stands for no reading. -/
def noReading : Half := 0x8000#16

/-- R158: the points kept: those of the window. -/
def LineInFlight.window (l : LineInFlight) (points : List Half) : List Half :=
  (points.drop l.windowFirst).take l.windowCount

/-- R159: the readings among the window's points. -/
def readingsOf (window : List Half) : List Int := (window.filter (· != noReading)).map (·.toInt)

/-- R159: the lowest index of a point that holds a value. -/
def pointIndex (window : List Half) (v : Int) : Nat :=
  (window.findIdx? fun p => p != noReading && p.toInt == v).getD 255

/-- R159: the spread of a line's readings. -/
def spreadOf (readings : List Int) : Int := (readings.max?).getD 0 - (readings.min?).getD 0

/-- R159: a line checked. -/
def State.checkLine (s : State) (l : LineInFlight) (points : List Half) : LineEntry :=
  let window := l.window points
  let readings := readingsOf window
  let cold := (readings.filter fun v => decide (v < s.setting Setting.coldLimit)).length
  { line := l
    spread := decide (s.setting Setting.spreadLimit < spreadOf readings)
    cold := decide (0 < cold)
    mean := if readings = [] then -32768 else readings.sum.tdiv readings.length
    minIndex := match readings.min? with | some v => pointIndex window v | none => 255
    maxIndex := match readings.max? with | some v => pointIndex window v | none => 255
    coldCount := cold
    points := window }

/-- R159: the thermal run counter follows a checked line. -/
def State.followThermal (s : State) (e : LineEntry) : State :=
  if e.spread || e.cold then
    let count := min 50 (s.mru.thermalRun + 1)
    let s := s.modMru fun m => { m with thermalRun := count }
    if s.settingNat Setting.runCount ≤ count ∧ !s.mru.thermalReported then
      (s.postNote .thermalRun 0 (BitVec.ofInt 32 (spreadOf (readingsOf e.points)))).modMru fun m =>
        { m with thermalReported := true }
    else s
  else if readingsOf e.points = [] then s
  else s.modMru fun m => { m with thermalRun := 0, thermalReported := false }

/-- R160: the place of the line in flight gives way to entries, or to nothing. -/
def Mru.fillLinePlace (m : Mru) (entries : List Entry) : Mru :=
  { m with queue := m.queue.flatMap fun i => if i = .linePlace then entries.map .entry else [i] }

/-- R160: the line in flight is lost, or given up and its trigger missed: it counts in the GAP of its period (log 27), and its
place is given up. -/
def Mru.countLine (m : Mru) (lost missed : Word) (reason : GapReason) : Mru :=
  Mru.fillLinePlace { m.setLineGap (some (gapWith m.lineGap lost missed reason)) with
    linesLost := m.linesLost + lost, triggersMissed := m.triggersMissed + missed } []

/-- R160: a line is lost. -/
def State.loseLine (s : State) : State := ((s.modMru fun m => m.countLine 1 0 .queue).reportLoss 0).drive false

/-- R160: a produced line is offered to the queue, behind the pending GAP of its period. -/
def State.offerLine (s : State) (e : LineEntry) : State :=
  match s.mru.lineGap with
  | none =>
    if s.mru.entriesQueued ≤ 12 then (s.modMru fun m => m.fillLinePlace [.line e]).drive true else s.loseLine
  | some g =>
    if s.mru.entriesQueued ≤ 11 then
      (s.modMru fun m =>
        (m.setLineGap none).fillLinePlace [g.entry e.line.chainage e.line.runTime, .line e]).drive true
    else s.loseLine

/-- R165: a cycle that waited for the line in flight goes on. -/
def State.releaseCycle (s : State) : State := if s.mru.referencePhase = .pending then s.askReference else s

/-- R158: a LINE has been read: one line produced. -/
def State.produceLine (s : State) (l : LineInFlight) (points : List Half) : State :=
  let e := s.checkLine l points
  let s := s.modMru fun m => { m with line := none, linesProduced := m.linesProduced + 1 }
  ((s.followThermal e).offerLine e).releaseCycle

/-- R158: the line in flight is given up. -/
def State.giveUpLine (s : State) : State :=
  ((s.modMru fun m => Mru.countLine { m with line := none } 0 1 .scanner).drive false).releaseCycle

/-- R158, R165: a scanner request that failed or was not issued. -/
def State.scannerFails (s : State) : State :=
  match s.mru.line with
  | some l => if l.phase = .exposing then s else s.giveUpLine
  | none => if s.mru.referencePhase = .wait then s.endCycle else s

/-- R158, R165: a scanner request that completed. -/
def State.scannerCompletes (s : State) (ask : ScannerAsk) (points : List Half) : State :=
  match ask, s.mru.line with
  | .trigger, some l =>
    if l.phase = .triggerWait then
      let timer := s.startTimer 20
      s.modMru fun m => { m with line := some { l with phase := .exposing }, exposureTimer := timer }
    else s
  | .line, some l => if l.phase = .lineWait then s.produceLine l points else s
  | .reference, _ =>
    if s.mru.referencePhase = .wait then
      let timer := s.startTimer 1500
      s.modMru fun m => { m with referencePhase := .busy, cycleTimer := timer }
    else s
  | _, none => s

/-- The hand-offs of HLC to MRU, in their order. -/
def Handoff.fromScanner : Handoff → Bool
  | .scannerAnswer _ _ | .scannerState _ => true
  | _ => false

/-- R158: MRU takes a scanner result, with the head's state (R91). The rows of R158 and R165 speak of its own requests: a failed
STATUS read moves no phase (log 18). -/
def State.takeAnswer (s : State) (answer : ScannerAnswer) : State :=
  match answer with
  | .completed ask points => s.scannerCompletes ask points
  | .failed | .notIssued => s.scannerFails
  | .statusFailed => s

/-- SCANNER_RESULT (R158, R165). -/
def execScannerResult (s : State) : Host.Outcome State Fault Refusal :=
  .next <|
    match s.take Handoff.fromScanner with
    | some (.scannerAnswer answer st, t) => (t.modMru fun m => { m with scannerSeen := st }).takeAnswer answer
    | _ => s

/-- SCANNER_STATE_AT_MRU (R154, R158). -/
def execScannerStateAtMru (s : State) : Host.Outcome State Fault Refusal :=
  .next <|
    match s.take Handoff.fromScanner with
    | some (.scannerState st, t) => t.modMru fun m => { m with scannerSeen := st }
    | _ => s

/-- EXPOSURE_TIMER_EXPIRY (R158). -/
def execExposureTimerExpiry (s : State) : Host.Outcome State Fault Refusal :=
  .next <|
    match s.mru.exposureTimer with
    | some expiry =>
      let s := (s.runTo expiry).modMru fun m => { m with exposureTimer := none }
      match s.mru.line with
      | some l =>
        if l.phase = .exposing then
          (s.modMru fun m => { m with line := some { l with phase := .lineWait } }).hand (.scannerRequest .line)
        else s
      | none => s
    | none => s

/-! ## Modes and pauses (R156, R161, R164) -/

/-- The hand-offs of MSC to MRU, in their order (R21). -/
def Handoff.recordsJob : Handoff → Bool
  | .pauseStart _ | .pauseEnd _ _ | .recordsMode _ => true
  | _ => false

/-- R161: the STOP entry of a pause that starts. The RECORD_LOSS of a discarded one carries the open page's sequence, or 0 (log
25, DESIGN CHOICE: R161 gives the note no value). -/
def State.startStop (s : State) : State :=
  let stop : StopEntry := ⟨s.mru.chainageSeen, s.now, none⟩
  if s.mru.pendingStop.isSome then
    (s.postNote .recordLoss 2 ((s.mru.openPage.map (·.pageSequence)).getD 0)).drive false
  else if s.mru.entriesQueued < 16 then s.joinQueue (.stop stop)
  else s.modMru fun m => { m with pendingStop := some stop, queue := m.queue ++ [.stopPlace] }

/-- R161, R165: a pause starts. A cycle already PENDING, WAIT or BUSY is the one that runs: no second one follows it (log 29,
DESIGN CHOICE). -/
def State.pauseStarts (s : State) : State :=
  let s := (s.modMru fun m => { m with recordsSeen := .stopmark }).settleFallback.startStop
  if 0 < s.mru.postponeCount ∧ s.mru.referencePhase = .idle then s.runCycle else s

/-- PAUSE_START_AT_MRU (R161, R165). -/
def execPauseStartAtMru (s : State) : Host.Outcome State Fault Refusal :=
  .next <|
    match s.take Handoff.recordsJob with
    | some (.pauseStart _, t) => t.pauseStarts
    | _ => s

/-- R161: an open STOP completed. -/
def StopEntry.complete (p : StopEntry) (now : Word) (cause : PauseCause) : StopEntry :=
  if p.ended.isNone then { p with ended := some (now - p.runTime, cause) } else p

/-- R161: the open STOP completed, wherever it waits. -/
def Mru.completeStop (m : Mru) (now : Word) (cause : PauseCause) : Mru :=
  { m with
    pendingStop := m.pendingStop.map fun p => p.complete now cause
    queue := m.queue.map fun i =>
      match i with
      | .entry (.stop p) => .entry (.stop (p.complete now cause))
      | i => i }

/-- R164: a close mark not reached when a later period begins keeps its period's pending GAP and end (log 27). -/
def endPeriod (gap : Option PendingGap) (chainage runTime : Word) : List QueueItem → List QueueItem
  | [] => []
  | .closeMark :: rest => .closePast ⟨gap, chainage, runTime⟩ :: endPeriod none chainage runTime rest
  | i :: rest => i :: endPeriod gap chainage runTime rest

/-- R154, R156: a records period begins, at TRM's chainage; the pending GAP stays with the period before, where its close mark
still waits. -/
def Mru.beginPeriod (m : Mru) (now chainage : Word) (spacing : Nat) : Mru :=
  { m with
    queue := endPeriod m.pendingGap m.chainageSeen now m.queue
    pendingGap := if .closeMark ∈ m.queue then none else m.pendingGap
    chainageSeen := chainage
    nextTrigger := some (chainage.toNat + spacing) }

/-- R156: the records mode becomes RUN. -/
def State.recordsRun (s : State) : State :=
  let spacing := s.settingNat Setting.lineSpacing
  let s :=
    if s.mru.recordsSeen = .off then s.modMru fun m => m.beginPeriod s.now s.trm.chainage spacing else s
  (s.modMru fun m => { m with recordsSeen := .run }).settleFallback

/-- R164: the records mode becomes OFF. -/
def State.recordsOff (s : State) : State :=
  ((s.modMru fun m =>
    { m with recordsSeen := .off, afterStop := false, queue := m.queue ++ [.closeMark] }).settleFallback).drive false

/-- R154: MRU takes a records mode. -/
def State.takeRecords (s : State) (mode : RecordsMode) : State :=
  match mode with
  | .run => s.recordsRun
  | .off => s.recordsOff
  | .stopmark => (s.modMru fun m => { m with recordsSeen := .stopmark }).settleFallback

/-- RECORDS_MODE_HANDOFF (R156, R164). -/
def execRecordsModeHandoff (s : State) : Host.Outcome State Fault Refusal :=
  .next <|
    match s.take Handoff.recordsJob with
    | some (.recordsMode mode, t) => t.takeRecords mode
    | _ => s

/-- R161: a pause ends: its STOP is completed, after-stop set, and the records mode that follows is taken with it (R21). -/
def State.pauseEnds (s : State) (cause : PauseCause) (mode : RecordsMode) : State :=
  (State.takeRecords (s.modMru fun m => { m.completeStop s.now cause with afterStop := true }) mode).drive false

/-- PAUSE_END_AT_MRU (R21, R154, R161). -/
def execPauseEndAtMru (s : State) : Host.Outcome State Fault Refusal :=
  .next <|
    match s.take Handoff.recordsJob with
    | some (.pauseEnd cause mode, t) => t.pauseEnds cause mode
    | _ => s

/-! ## Marks and flushes (R163) -/

/-- R163: a mark finds no room. -/
def Mru.marksBarred (m : Mru) : Bool := decide (16 ≤ m.entriesQueued) || m.pendingStop.isSome

/-- R163: MRU takes a console mark. One placed at the chainage seen, since that is the greater, keeps the run time of the
frame's arrival (log 46(d), DESIGN CHOICE). One placed above the chainage seen raises it, so that no entry made behind the mark
has a lower chainage (R155; log 50, DEDUCED). -/
def State.consoleMarked (s : State) (code : Half) (runTime chainage : Word) : State :=
  if s.mru.recordsSeen = .off then s
  else if s.mru.marksBarred then s.reportLoss 1
  else
    let s := s.modMru fun m => m.advanceTo chainage
    s.joinQueue (.mark s.mru.chainageSeen runTime code .console)

/-- CONSOLE_MARK_AT_MRU (R163). -/
def execConsoleMarkAtMru (s : State) : Host.Outcome State Fault Refusal :=
  .next <|
    match s.take fun h => match h with | .consoleMark _ _ _ => true | _ => false with
    | some (.consoleMark code runTime chainage, s) => s.consoleMarked code runTime chainage
    | _ => s

/-- MARK (R163). -/
def execMark (s : State) : Host.Outcome State Fault Refusal :=
  .next <|
    match s.orderOf .mark with
    | some o =>
      if o.a < 0 ∨ 65535 < o.a then s.finishRefused .range
      else if s.mru.recordsSeen = .off then s.finishRefused .wrongState
      else if s.mru.marksBarred then s.finishRefused .queueFull
      else
        (s.joinQueue (.mark s.mru.chainageSeen s.now (o.operandA.truncate 16) (.order o.stamp))).finishDone
          (BitVec.ofNat 32 (s.mru.entriesQueued + 1)) false false false
    | none => s

/-- FLUSH_RECORDS (R163). A page with entry count 0 is empty, though its first entry write be in flight (log 26, DESIGN CHOICE).
-/
def execFlushRecords (s : State) : Host.Outcome State Fault Refusal :=
  .next <|
    match s.orderOf .flushRecords with
    | some _ =>
      if s.mru.pageHolds then ((s.modMru fun m => { m with flushing := true }).holdInFlight).drive false
      else
        (if s.mru.openPage.isNone ∧ s.mru.op = .none then s.modMru Mru.issueSearch else s).finishDone 0 false false false
    | none => s

/-! ## Page operations (R162, R164) -/

/-- R162: a page is opened. -/
def Mru.openFound (m : Mru) (ringIndex pageCount : Nat) : Mru :=
  { m with openPage := some ⟨ringIndex, m.nextPage, 0, [], 0, 0, 0⟩, nextPage := m.nextPage + 1, lossReported := false
           searchIndex := (ringIndex + 1) % pageCount }

/-- R160, R164: a place that is no entry's: that of the line in flight, or a close mark, less the GAP its period left. -/
def QueueItem.unwritten : QueueItem → Option QueueItem
  | .entry _ | .stopPlace => none
  | .closePast left => some (.closePast { left with gap := none })
  | i => some i

/-- R164: the drain ends for want of a page: queued LINEs are lost, the other entries, the pending GAP and the pending
stop discarded. -/
def Mru.endDrain (m : Mru) : Mru :=
  { m with linesLost := m.linesLost + BitVec.ofNat 32 m.linesQueued, pendingGap := none, pendingStop := none
           queue := m.queue.filterMap QueueItem.unwritten }

/-- PAGE_SEARCH_READ_DONE (R162, R164, R174). -/
def execPageSearchReadDone (host : HostWrites) (s : State) : Host.Outcome State Fault Refusal :=
  .next <|
    match s.mru.op with
    | .search i =>
      let s := (s.hostWrite host).modMru fun m => { m with op := .none }
      if fieldAt (s.regionRead (s.pageOffset i) 1) 0 1 = 1 then
        (s.modMru fun m => m.openFound i s.rif.layoutCopy.pageCount).drive false
      else if s.mru.runSeen = .stopping then (s.modMru Mru.endDrain).drive false
      else s
    | _ => s

/-- R162: a page after an entry write. -/
def OpenPage.added (p : OpenPage) (e : Entry) (sequence : Word) : OpenPage :=
  { p with
    entryCount := p.entryCount + 1
    area := p.area ++ e.bytes sequence
    firstSequence := if p.entryCount = 0 then sequence else p.firstSequence
    firstChainage := if p.entryCount = 0 then e.chainage else p.firstChainage
    lastChainage := e.chainage }

/-- R162, R166: the records after an entry write: a LINE raises lines written. -/
def Mru.entryWritten (m : Mru) (e : Entry) (p : OpenPage) (sequence : Word) : Mru :=
  { m with
    op := .none
    queue := m.queue.tail
    openPage := some (p.added e sequence)
    linesWritten := match e with | .line _ => m.linesWritten + 1 | _ => m.linesWritten }

/-- ENTRY_WRITE_DONE (R162): the entry lands, leaves the queue, and a pending stop takes the place freed. -/
def execEntryWriteDone (s : State) : Host.Outcome State Fault Refusal :=
  .next <|
    match s.mru.op, s.mru.queue, s.mru.openPage with
    | .entryWrite sequence, .entry e :: _, some p =>
      let s := s.writeDone .page
      (s.modMru fun m => (m.entryWritten e p sequence).admitStop).drive false
    | _, _, _ => s

/-- R162: RIF takes one page handed. -/
def State.countPage (s : State) : State :=
  ((s.modRif fun r => { r with pagesHanded := r.pagesHanded + 1 }).setCause .page).requestRewrite

/-- R163: a flush in flight is finished by the close, with the page sequence handed. -/
def State.finishFlush (s : State) (p : OpenPage) : State :=
  if s.mru.flushing then
    (s.modMru fun m => { m with flushing := false }).finishDone p.pageSequence false false false
  else s

/-- PAGE_CLOSE_DONE (R162, R163): the page is handed to the host and a new search made. -/
def execPageCloseDone (s : State) : Host.Outcome State Fault Refusal :=
  .next <|
    match s.mru.op, s.mru.openPage with
    | .close _, some p =>
      let s := ((s.writeDone .page).modMru fun m => { m with op := .none, openPage := none }).countPage
      (s.finishFlush p).modMru Mru.issueSearch
    | _, _ => s

/-- SWEEP_EXPIRY_AT_MRU (R162). -/
def execSweepExpiryAtMru (s : State) : Host.Outcome State Fault Refusal :=
  .next <|
    match s.take fun h => match h with | .sweepExpiry => true | _ => false with
    | some (_, s) => s.drive true
    | none => s

/-! ## Geometry and the run status -/

/-- GEOMETRY_AT_MRU (R158). -/
def execGeometryAtMru (s : State) : Host.Outcome State Fault Refusal :=
  .next <|
    match s.take fun h => match h with | .geometryToMru _ => true | _ => false with
    | some (.geometryToMru g, s) => s.modMru fun m => { m with geometry := g }
    | _ => s

/-- R154: what a RUN start keeps of the queue: the entries, and the close marks between the entries of two periods (R164); the
line in flight, the pending stop and the pending GAPs become absent. -/
def QueueItem.atStart : QueueItem → Option QueueItem
  | .linePlace | .stopPlace => none
  | .closePast left => some (.closePast { left with gap := none })
  | i => some i

/-- R154: MRU's values at a RUN start; what the table keeps is kept, the entries of the queue among it. -/
def Mru.runStart (m : Mru) (reference : Timer) : Mru :=
  { Mru.reset with
    recordsSeen := m.recordsSeen
    chainageSeen := m.chainageSeen
    travelSeen := m.travelSeen
    geometry := m.geometry
    scannerSeen := m.scannerSeen
    runSeen := .running
    queue := m.queue.filterMap QueueItem.atStart
    referenceTimer := reference }

/-- R164: MRU at a change of run status. -/
def State.recordsRunStatus (s : State) (status : RunStatus) : State :=
  match status with
  | .running => s.modMru fun m => m.runStart (s.startTimer (1000 * s.settingNat Setting.referenceInterval))
  | .stopping => (s.modMru fun m => { m with runSeen := .stopping }).drive false
  | .stopped =>
    s.modMru fun m =>
      { m with runSeen := .stopped, fallbackTimer := none, exposureTimer := none, referenceTimer := none
               cycleTimer := none }
  | .starting => s.modMru fun m => { m with runSeen := .starting }

/-- RUN_STATUS_AT_MRU (R154, R164). -/
def execRunStatusAtMru (s : State) : Host.Outcome State Fault Refusal :=
  .next <|
    match s.take fun h => match h with | .runStatus .mru _ => true | _ => false with
    | some (.runStatus _ status, s) => s.recordsRunStatus status
    | _ => s

end Sys2Proof.Machine
end

