-- ==== Sys2Proof/Machine/Dispatch.lean ====
section
/-! DEFINITION. The dispatch: one arm per command, each one call of its meaning. -/
namespace Sys2Proof.Machine

/-- A command's effect on everything but the queue of waiting commands. -/
def exec (i : Instr) (s : State) : Host.Outcome State Fault Refusal :=
  match i with
  -- registers and reset (R167, R32, R26, R171)
  | .powerOnReset => Sys2Proof.Machine.execPowerOnReset s
  | .softReset value => Sys2Proof.Machine.execSoftReset value s
  | .runStart => Sys2Proof.Machine.execRunStart s
  | .orderlyStop => Sys2Proof.Machine.execOrderlyStop s
  | .resume => Sys2Proof.Machine.execResume s
  | .sweep value => Sys2Proof.Machine.execSweep value s
  | .regionBaseWrite value => Sys2Proof.Machine.execRegionBaseWrite value s
  | .attentionClear value => Sys2Proof.Machine.execAttentionClear value s
  | .attentionEnableWrite value => Sys2Proof.Machine.execAttentionEnableWrite value s
  | .ignoredRegisterWrite write => Sys2Proof.Machine.execIgnoredRegisterWrite write s
  -- the region interface (R168, R169, R170, R172) and the start-up pass (R41)
  | .layoutReadDone host => Sys2Proof.Machine.execLayoutReadDone host s
  | .startupSlotReadDone host => Sys2Proof.Machine.execStartupSlotReadDone host s
  | .startupWriteDone => Sys2Proof.Machine.execStartupWriteDone s
  | .stopComplete => Sys2Proof.Machine.execStopComplete s
  | .noteReadIndexDone host => Sys2Proof.Machine.execNoteReadIndexDone host s
  | .noteWriteDone => Sys2Proof.Machine.execNoteWriteDone s
  | .summaryWriteDone => Sys2Proof.Machine.execSummaryWriteDone s
  -- the HALT input (R11)
  | .haltAsserted => Sys2Proof.Machine.execHaltAsserted s
  | .haltReleased => Sys2Proof.Machine.execHaltReleased s
  -- the board (02)
  | .sweepTimerExpiry => Sys2Proof.Machine.execSweepTimerExpiry s
  | .slotReadDone host => Sys2Proof.Machine.execSlotReadDone host s
  | .stagedWriteDone => Sys2Proof.Machine.execStagedWriteDone s
  | .outcomeWriteDone => Sys2Proof.Machine.execOutcomeWriteDone s
  | .withdrawnWriteDone => Sys2Proof.Machine.execWithdrawnWriteDone s
  | .chainageReportAtBdr => Sys2Proof.Machine.execChainageReportAtBdr s
  | .runStatusAtBdr => Sys2Proof.Machine.execRunStatusAtBdr s
  -- machine state and modes (01)
  | .setState halt => Sys2Proof.Machine.execSetState halt s
  | .clearSafe halt => Sys2Proof.Machine.execClearSafe halt s
  | .autoPauseTimerExpiry => Sys2Proof.Machine.execAutoPauseTimerExpiry s
  | .chainageAdvanceAtMsc => Sys2Proof.Machine.execChainageAdvanceAtMsc s
  | .travelStatusAtMsc => Sys2Proof.Machine.execTravelStatusAtMsc s
  | .referenceStatusAtMsc => Sys2Proof.Machine.execReferenceStatusAtMsc s
  | .runStatusAtMsc halt => Sys2Proof.Machine.execRunStatusAtMsc halt s
  | .setSide => Sys2Proof.Machine.execSetSide s
  | .setFeed => Sys2Proof.Machine.execSetFeed s
  -- settings and pages (03)
  | .setValue => Sys2Proof.Machine.execSetValue s
  | .adjustValue => Sys2Proof.Machine.execAdjustValue s
  | .swapValue => Sys2Proof.Machine.execSwapValue s
  | .readValue => Sys2Proof.Machine.execReadValue s
  | .loadPage => Sys2Proof.Machine.execLoadPage s
  | .imageReadDone host => Sys2Proof.Machine.execImageReadDone host s
  | .patchPage => Sys2Proof.Machine.execPatchPage s
  | .confirmPage => Sys2Proof.Machine.execConfirmPage s
  | .paveEntryAtSps => Sys2Proof.Machine.execPaveEntryAtSps s
  -- travel and the machine bus (04)
  | .goodFrame frame => Sys2Proof.Machine.execGoodFrame frame s
  | .busError => Sys2Proof.Machine.execBusError s
  | .travelTimerExpiry => Sys2Proof.Machine.execTravelTimerExpiry s
  | .rearmBus => Sys2Proof.Machine.execRearmBus s
  | .setChainage => Sys2Proof.Machine.execSetChainage s
  | .machineStateAtTrm => Sys2Proof.Machine.execMachineStateAtTrm s
  | .runStatusAtTrm => Sys2Proof.Machine.execRunStatusAtTrm s
  | .filterHandoff => Sys2Proof.Machine.execFilterHandoff s
  -- the head link (05)
  | .quietIntervalEnd => Sys2Proof.Machine.execQuietIntervalEnd s
  | .characterTimeout => Sys2Proof.Machine.execCharacterTimeout s
  | .housekeepingEnd received => Sys2Proof.Machine.execHousekeepingEnd received s
  | .junctionProbeEnd received => Sys2Proof.Machine.execJunctionProbeEnd received s
  | .headProbeEnd received => Sys2Proof.Machine.execHeadProbeEnd received s
  | .headTransactionEnd received => Sys2Proof.Machine.execHeadTransactionEnd received s
  | .roundTimerExpiry => Sys2Proof.Machine.execRoundTimerExpiry s
  | .strokeTimerExpiry => Sys2Proof.Machine.execStrokeTimerExpiry s
  | .probeTimerExpiry => Sys2Proof.Machine.execProbeTimerExpiry s
  | .scannerRequest => Sys2Proof.Machine.execScannerRequest s
  | .headMapNewlyInForce => Sys2Proof.Machine.execHeadMapNewlyInForce s
  | .headMapWithdrawn => Sys2Proof.Machine.execHeadMapWithdrawn s
  | .runStatusAtHlc => Sys2Proof.Machine.execRunStatusAtHlc s
  | .modeHandoffAtHlc => Sys2Proof.Machine.execModeHandoffAtHlc s
  | .clearFaultJunction => Sys2Proof.Machine.execClearFaultJunction s
  | .clearFaultHead => Sys2Proof.Machine.execClearFaultHead s
  -- geometry (06)
  | .strokeHeadStateChange side => Sys2Proof.Machine.execStrokeHeadStateChange side s
  | .strokePollHandoff side => Sys2Proof.Machine.execStrokePollHandoff side s
  | .headTableRebuildAtGeu => Sys2Proof.Machine.execHeadTableRebuildAtGeu s
  | .geometryPageHandoff => Sys2Proof.Machine.execGeometryPageHandoff s
  | .liveStrokeHandoff => Sys2Proof.Machine.execLiveStrokeHandoff s
  -- levelling (07)
  | .roundMemberDelivery => Sys2Proof.Machine.execRoundMemberDelivery s
  | .sideModeHandoff side => Sys2Proof.Machine.execSideModeHandoff side s
  | .pulseEnd side => Sys2Proof.Machine.execPulseEnd side s
  | .headTableRebuildAtLvc => Sys2Proof.Machine.execHeadTableRebuildAtLvc s
  | .headStateChangeAtLvc => Sys2Proof.Machine.execHeadStateChangeAtLvc s
  | .capture => Sys2Proof.Machine.execCapture s
  | .jog => Sys2Proof.Machine.execJog s
  -- heating (08)
  | .zoneSample zone temperature current => Sys2Proof.Machine.execZoneSample zone temperature current s
  | .confirmTimerExpiry zone current => Sys2Proof.Machine.execConfirmTimerExpiry zone current s
  | .maxOnExpiry zone => Sys2Proof.Machine.execMaxOnExpiry zone s
  | .arbiterTimerExpiry => Sys2Proof.Machine.execArbiterTimerExpiry s
  | .reportAgeExpiry => Sys2Proof.Machine.execReportAgeExpiry s
  | .generatorReport => Sys2Proof.Machine.execGeneratorReport s
  | .generatorAbsence => Sys2Proof.Machine.execGeneratorAbsence s
  | .budgetSettingHandoff => Sys2Proof.Machine.execBudgetSettingHandoff s
  | .heatingLevelHandoff => Sys2Proof.Machine.execHeatingLevelHandoff s
  | .geometryAtHtc => Sys2Proof.Machine.execGeometryAtHtc s
  | .zoneMapNewlyInForce => Sys2Proof.Machine.execZoneMapNewlyInForce s
  | .zoneMapWithdrawn => Sys2Proof.Machine.execZoneMapWithdrawn s
  | .runStatusAtHtc => Sys2Proof.Machine.execRunStatusAtHtc s
  | .setZone => Sys2Proof.Machine.execSetZone s
  | .clearFaultZone => Sys2Proof.Machine.execClearFaultZone s
  -- feed (09)
  | .feedModeHandoff channel => Sys2Proof.Machine.execFeedModeHandoff channel s
  | .machineStateAtFdc => Sys2Proof.Machine.execMachineStateAtFdc s
  | .sensePeriodExpiry channel => Sys2Proof.Machine.execSensePeriodExpiry channel s
  | .onTimeEnd channel sample => Sys2Proof.Machine.execOnTimeEnd channel sample s
  | .graceExpiry channel => Sys2Proof.Machine.execGraceExpiry channel s
  | .stallExpiry channel => Sys2Proof.Machine.execStallExpiry channel s
  | .speedPulse channel => Sys2Proof.Machine.execSpeedPulse channel s
  | .speedHandoff => Sys2Proof.Machine.execSpeedHandoff s
  | .geometryAtFdc => Sys2Proof.Machine.execGeometryAtFdc s
  | .clearFaultChannel => Sys2Proof.Machine.execClearFaultChannel s
  -- records (10)
  | .pauseStartAtMru => Sys2Proof.Machine.execPauseStartAtMru s
  | .pauseEndAtMru => Sys2Proof.Machine.execPauseEndAtMru s
  | .recordsModeHandoff => Sys2Proof.Machine.execRecordsModeHandoff s
  | .chainageAdvanceAtMru => Sys2Proof.Machine.execChainageAdvanceAtMru s
  | .travelStatusAtMru => Sys2Proof.Machine.execTravelStatusAtMru s
  | .fallbackTimerExpiry => Sys2Proof.Machine.execFallbackTimerExpiry s
  | .consoleMarkAtMru => Sys2Proof.Machine.execConsoleMarkAtMru s
  | .geometryAtMru => Sys2Proof.Machine.execGeometryAtMru s
  | .scannerResult => Sys2Proof.Machine.execScannerResult s
  | .scannerStateAtMru => Sys2Proof.Machine.execScannerStateAtMru s
  | .exposureTimerExpiry => Sys2Proof.Machine.execExposureTimerExpiry s
  | .referenceTimerExpiry => Sys2Proof.Machine.execReferenceTimerExpiry s
  | .cycleTimerExpiry => Sys2Proof.Machine.execCycleTimerExpiry s
  | .sweepExpiryAtMru => Sys2Proof.Machine.execSweepExpiryAtMru s
  | .runStatusAtMru => Sys2Proof.Machine.execRunStatusAtMru s
  | .pageSearchReadDone host => Sys2Proof.Machine.execPageSearchReadDone host s
  | .entryWriteDone => Sys2Proof.Machine.execEntryWriteDone s
  | .pageCloseDone => Sys2Proof.Machine.execPageCloseDone s
  | .mark => Sys2Proof.Machine.execMark s
  | .flushRecords => Sys2Proof.Machine.execFlushRecords s
  | .withdraw => Sys2Proof.Machine.execWithdraw s

end Sys2Proof.Machine
end

