-- ==== Sys2Proof/Machine/Step.lean ====
section
/-! DEFINITION. One step: the command at the front of the queue, or a millisecond of time when none waits. -/
namespace Sys2Proof.Machine

/-- One step. With a command waiting, the front one is taken and has its effect on the queue's rest. With none, one
millisecond passes (log 1). -/
def step (s : State) : Host.Outcome State Fault Refusal :=
  match s.pending with
  | [] => .next (s.advance 1)
  | c :: rest => exec c { s with pending := rest }

/-- The state with the command that a table word spells put at the front of the queue; no word spells one. -/
def State.withFetchWord (s : State) (nbits w : Nat) : State :=
  match decodeTableWord nbits w with
  | some c => { s with pending := c :: s.pending }
  | none => s

end Sys2Proof.Machine
end

