-- ==== Sys2Proof/Safety.lean ====
section
/-! DEFINITION. What the part keeps true at every step: the laws the statements are about. -/
namespace Sys2Proof.Machine

/-- The shared region keeps its canonical form (log 6). -/
def MemoryLaw (s : State) : Prop := s.mem.wf = true

/-- R33, R37: at most 16 staged orders, in station order, no slot and no stamp twice; at most 32 outcomes remembered. -/
structure BoardLaw (s : State) : Prop where
  room    : s.bdr.staging.length ≤ 16
  sorted  : s.bdr.staging.Pairwise fun x y => x.station ≤ y.station
  slots   : (s.bdr.staging.map (·.slot)).Nodup
  stamps  : (s.bdr.staging.map (·.stamp)).Nodup
  history : s.bdr.history.length ≤ 32

/-- R44, R45: every value in effect and every pending value lies within its setting's limits, and only an AT_PAVE setting
holds a pending value. -/
def SettingsLaw (s : State) : Prop :=
  ∀ i : SettingId,
    ((settingSpec i).low ≤ s.sps.entries[i].value ∧ s.sps.entries[i].value ≤ (settingSpec i).high) ∧
    ∀ v, s.sps.entries[i].pending = some v →
      (settingSpec i).applyClass = .atPave ∧ (settingSpec i).low ≤ v ∧ v ≤ (settingSpec i).high

/-- R52, R53, R57: every page has its length, and a VALID page meets its constraints. -/
def PagesLaw (s : State) : Prop :=
  ∀ k : PageKind, (s.sps.page k).bytes.length = k.bodyLength ∧
    ((s.sps.page k).valid = true → pageOk k (s.sps.page k).bytes = true)

/-- R59, R63, R64, R72: the error counter is 32 exactly in UNRELIABLE and never more, travel is LOST exactly in
UNRELIABLE, and the travel timer runs exactly while travel is LIVE. -/
structure TravelLaw (s : State) : Prop where
  counter : s.trm.errorCounter ≤ 32
  bus     : s.trm.busState = .unreliable ↔ s.trm.errorCounter = 32
  lost    : s.trm.travel = .lost ↔ s.trm.busState = .unreliable
  timer   : s.trm.travelTimer.isSome = true ↔ s.trm.travel = .live

/-- R1, R4, R7: a pause cause is held exactly in PAUSE, and the auto-pause timer runs only in PAVE. -/
structure PauseLaw (s : State) : Prop where
  cause : s.msc.pauseCause.isSome = true ↔ s.msc.state = .pause
  timer : s.msc.autoPause.isSome = true → s.msc.state = .pave

/-- R130, R138: a confirm timer runs only in CLOSING. -/
def ConfirmLaw (s : State) : Prop := ∀ z ∈ s.htc.zones, z.confirmTimer.isSome = true → z.state = .closing

/-- R134: the draw never exceeds the available power. -/
structure HeatingLaw (s : State) : Prop where
  draw    : s.htc.draw ≤ s.htc.available
  confirm : ConfirmLaw s

/-- R136: the waiting list holds the zones in WAITING and no others, each once, MAIN before EXTENSION. -/
structure WaitingLaw (s : State) : Prop where
  once    : s.htc.waiting.Nodup
  waiting : ∀ i, i ∈ s.htc.waiting ↔ ((s.htc.zones[i]?).map (·.state)) = some .waiting
  runs    : s.htc.waiting = s.htc.waiting.filter s.htc.isMain ++ s.htc.waiting.filter fun i => !s.htc.isMain i
  confirm : ConfirmLaw s

/-- A place of the queue of a kind is held. -/
def Mru.places (m : Mru) (i : QueueItem) : Nat := m.queue.count i

/-- R160, R161: at most 16 entries are queued; the queue keeps one place for the line in flight and one for the pending
stop, where there is one. -/
structure QueueLaw (s : State) : Prop where
  room  : s.mru.entriesQueued ≤ 16
  line  : s.mru.places .linePlace = if s.mru.line.isSome then 1 else 0
  stop  : s.mru.places .stopPlace = if s.mru.pendingStop.isSome then 1 else 0

/-- R155: the chainage of the entry that a place of the queue holds, or is held for. -/
def Mru.itemChainage (m : Mru) : QueueItem → Option Word
  | .entry e => some e.chainage
  | .linePlace => m.line.map (·.chainage)
  | .stopPlace => m.pendingStop.map (·.chainage)
  | .closeMark | .closePast _ | .closeDue => none

/-- R155, R164: behind an entry of chainage `low` in the page being filled, if any, chainage does not decrease through the queue;
a close mark ends the page, and its GAP's chainage is no lower; the last entry's chainage is not above the chainage seen, and in
OFF none stands behind the last close mark. -/
def Mru.inOrder (m : Mru) : Option Word → List QueueItem → Prop
  | low, [] => ∀ c ∈ low, m.recordsSeen ≠ .off ∧ c ≤ m.chainageSeen
  | low, .closeMark :: rest => (∀ c ∈ low, c ≤ m.chainageSeen) ∧ m.inOrder none rest
  | low, .closePast left :: rest => (∀ c ∈ low, c ≤ left.chainage) ∧ m.inOrder none rest
  | _, .closeDue :: rest => m.inOrder none rest
  | low, i :: rest => (∀ c ∈ low, ∀ d ∈ m.itemChainage i, c ≤ d) ∧ m.inOrder (m.itemChainage i <|> low) rest

/-- R162: the last chainage of the page being filled: one that holds entries and is not being closed. -/
def Mru.filledTo (m : Mru) : Option Word :=
  match m.op with
  | .close _ => none
  | .none | .search _ | .entryWrite _ => (m.openPage.filter fun p => decide (0 < p.entryCount)).map (·.lastChainage)

/-- R155, R157, R164: the records stay in order of chainage and of entry sequence, those of a page rising by one from its first,
and the fallback timer runs in RUN alone. -/
structure Mru.Recorded (m : Mru) : Prop where
  order    : m.inOrder m.filledTo m.queue
  writing  : ∀ q, m.op = .entryWrite q → q + 1 = m.nextEntry
  sequence : ∀ p, m.openPage = some p → 0 < p.entryCount →
    p.firstSequence + BitVec.ofNat 32 p.entryCount = match m.op with | .entryWrite q => q | _ => m.nextEntry
  fallback : m.fallbackTimer.isSome = true → m.recordsSeen = .run

/-- R155: the law of the records. -/
def RecordsLaw (s : State) : Prop := s.mru.Recorded

/-- A hand-off is the first waiting on a channel, may be taken now, and leaves `rest` waiting (log 4): no hand-off of the
channel stands before it and, where it was made by a transition into PAVE, the PAVE entry has been taken (R5). -/
def State.FirstWaiting (s : State) (channel : Handoff → Prop) (h : Handoff) (rest : List Waiting) : Prop :=
  ∃ pre afterPave post, s.inbox = pre ++ ⟨afterPave, h⟩ :: post ∧ rest = pre ++ post ∧ channel h ∧
    (∀ x ∈ pre, ¬ channel x.handoff) ∧ (afterPave = true → ∀ x ∈ pre, x.handoff ≠ .paveEntry)

end Sys2Proof.Machine
end

