-- ==== Sys2Proof/Certificates/Slice0/Obligations.lean ====
section
/-! DEFINITION. The statements about the part, from the numbered rules of spec/ and the model's log. -/
open Sys2Proof Sys2Proof.Machine

/-! ## Steps and registers -/

/-- A step takes the command at the front of the queue and runs it on the queue's rest; on an empty queue one millisecond
passes: the closing clock always, the run time in RUNNING and STOPPING (log 1). The passing of any number of milliseconds does
the same. An expiry command brings time to the timer's expiry, which leaves a counting run time at the expiry; an expiry 2^31 ms
or more ahead counts as past, and one reached or past moves nothing: these are the model's choices (log 2, DESIGN CHOICE). -/
def Obligations.StepRunsTheFrontCommand : Prop :=
  (∀ (c : Instr) (rest : List Instr) (s : State), s.pending = c :: rest → step s = exec c { s with pending := rest }) ∧
  (∀ s : State, s.pending = [] →
    step s = .next { s with
      rif := { s.rif with
        runTime := if s.rif.runStatus = .running ∨ s.rif.runStatus = .stopping then s.rif.runTime + 1
                   else s.rif.runTime }
      htc := { s.htc with clock := s.htc.clock + 1 } }) ∧
  (∀ s : State,
    let counting := s.rif.runStatus = .running ∨ s.rif.runStatus = .stopping
    (∀ ms : Nat, s.advance ms = { s with
      rif := { s.rif with runTime := if counting then s.rif.runTime + BitVec.ofNat 32 ms else s.rif.runTime }
      htc := { s.htc with clock := s.htc.clock + ms } }) ∧
    (∀ expiry : Word,
      let ahead := (expiry - s.rif.runTime).toNat
      (ahead < 2 ^ 31 → s.runTo expiry = s.advance ahead ∧ (counting → (s.runTo expiry).rif.runTime = expiry)) ∧
      (2 ^ 31 ≤ ahead → s.runTo expiry = s)))

/-- POWER_ON_RESET and SOFT_RESET give everything its reset value, keeping the region and the commands waiting (R167), and
leave every output open, off or deasserted. The values the spec gives for reset, block by block (R1, R15 to R21, R25, R43,
R52, R59, R81, R87, R92, R93, R96, R105, R123, R142, R154, R167); TRM reports the chainage 0 to BDR, and no write is in
flight. The fields of the last clause, work in flight that the model holds, copies of the run status, and a few fields that the
manual names without a reset value, start empty, absent, stopped or 0, which is the model's choice (log 34, DESIGN CHOICE). -/
def Obligations.ResetGivesTheValuesOfEveryBlock : Prop :=
  (
  ∀ s : State,
    let t : State := { State.reset with mem := s.mem, pending := s.pending }
    exec .powerOnReset s = .next t ∧
    (∀ value : Word, value.getLsbD 1 = true → exec (.softReset value) s = .next t) ∧
    t.interruptOutput = false ∧ (∀ output, t.contactorClosed output = false) ∧
    (∀ side, t.upOutput side = false ∧ t.downOutput side = false) ∧
    (∀ channel, t.driveOutput channel = 0 ∧ t.supplyOutput channel = false)) ∧
  (
  let s := State.reset
  (s.rif.regionBase = 0 ∧ s.rif.runStatus = .stopped ∧ s.rif.layout = none ∧ s.rif.runTime = 0 ∧
    s.rif.noteWriteIndex = 0 ∧ s.rif.readIndexSeen = 0 ∧ s.rif.noteQueue = [] ∧ s.rif.outcomesWritten = 0 ∧
    s.rif.pagesHanded = 0 ∧ s.rif.notesLost = 0 ∧ s.rif.boardQuiet = false ∧ s.rif.recordsQuiet = false ∧
    s.rif.rewriteSequence = 0 ∧ s.rif.rewritePending = false ∧ s.rif.attention = 0 ∧ s.rif.attentionEnable = 0 ∧
    s.port = []) ∧
  (s.bdr.cursor = 0 ∧ s.bdr.status = .running ∧ s.bdr.activity = .idle ∧ s.bdr.sweepContinuing = false ∧
    s.bdr.pendingSweep = false ∧ s.bdr.nextTake = 1 ∧ s.bdr.execution = none ∧ s.bdr.staging = [] ∧ s.bdr.history = [] ∧
    s.bdr.chainageSeen = 0 ∧ s.bdr.sweepTimer = none ∧ s.bdr.runSeen = .stopped) ∧
  (∀ i : SettingId, s.sps.entries[i] = ⟨(settingSpec i).resetValue, none⟩) ∧
  (∀ k : PageKind, (s.sps.page k).valid = false ∧ (s.sps.page k).bytes = List.replicate k.bodyLength 0) ∧
  s.sps.load = none ∧
  (s.msc.state = .standby ∧ s.msc.pauseCause = none ∧ s.msc.haltSeen = .released ∧ s.msc.autoPause = none ∧
    s.msc.travelSeen = .none ∧ s.msc.sideRequested = ⟨.off, .off⟩ ∧ s.msc.sideEffective = ⟨.off, .off⟩ ∧
    s.msc.feedRequested = Vector.replicate 4 .off ∧ s.msc.feedEffective = Vector.replicate 4 .off ∧
    s.msc.heating = .off ∧ s.msc.records = .off) ∧
  (s.trm.busState = .idle ∧ s.trm.errorCounter = 0 ∧ s.trm.filterUse = none ∧ s.trm.travel = .none ∧
    s.trm.outageStart = none ∧ s.trm.travelTimer = none ∧ s.trm.lastCount = none ∧ s.trm.badStepReported = false ∧
    s.trm.chainage = 0 ∧ s.trm.speed = 0 ∧ s.trm.machineSeen = .standby ∧ s.trm.runSeen = .stopped ∧
    s.trm.generator = none ∧ s.inbox = [⟨false, .chainageToBdr 0⟩]) ∧
  (s.hlc.heads = [] ∧ (∀ j : JunctionId, s.hlc.junction j = ⟨.unknown, 0, none, none, none⟩) ∧
    s.hlc.housekeeping = [] ∧ s.hlc.members = [] ∧ s.hlc.strokes = [] ∧ s.hlc.scanner = [] ∧ s.hlc.probes = [] ∧
    s.hlc.line = .free ∧ s.hlc.roundTimer = none ∧ s.hlc.strokeTimer = none ∧ s.hlc.probeTimer = none ∧
    s.hlc.roundNumber = 0 ∧ s.hlc.sideModes = ⟨.off, .off⟩ ∧ s.hlc.recordsMode = .off) ∧
  (s.geu.stroke = ⟨0, 0⟩ ∧ s.geu.bolt = ⟨0, 0⟩ ∧ s.geu.headSeen = ⟨none, none⟩ ∧
    s.geu.geometry = ⟨1500, 1500, ⟨true, true, false, false, false, false⟩, 26, 12, .stale, 0⟩) ∧
  (∀ side,
    let r := s.lvc.sides.get side
    r.kind = .grade ∧ r.modeSeen = .off ∧ r.zero = 0 ∧ r.rebase = 0 ∧ r.inUse = [] ∧ r.lastAverage = none ∧
    r.status = .ok ∧ r.collections = [] ∧ r.valve = .idle ∧ r.pulseEnd = none ∧ r.waiting = none) ∧
  s.lvc.heads = [] ∧
  (s.htc.zones = [] ∧ s.htc.enables = Vector.replicate 24 false ∧ s.htc.waiting = [] ∧
    s.htc.closings = ⟨[], Vector.replicate 6 none⟩ ∧ s.htc.clock = 0 ∧ s.htc.arbiter = none ∧ s.htc.levelSeen = .off ∧
    s.htc.liveSeen = ⟨true, true, false, false, false, false⟩ ∧ s.htc.report = none ∧
    s.htc.budget = 0 ∧ s.htc.budgetLow = false) ∧
  (∀ c : Fin 4,
    let r := s.fdc.channels[c]
    r.manual = 0 ∧ r.modeSeen = .off ∧ r.run = .idle ∧ r.demand = 0 ∧ r.speedCount = 0 ∧ r.stallTimer = none ∧
    r.graceTimer = none ∧ r.coupled = false ∧ r.supplyClosed = false ∧ r.senseTimer = .stopped ∧ r.lastSample = none ∧
    r.level = none ∧ r.invalidCount = 0 ∧ r.validCount = 0) ∧
  (s.fdc.machineSeen = .standby ∧ s.fdc.speedSeen = 0 ∧ s.fdc.halfLeft = 1500 ∧ s.fdc.halfRight = 1500) ∧
  (s.mru.recordsSeen = .off ∧ s.mru.chainageSeen = 0 ∧ s.mru.travelSeen = .none ∧
    s.mru.geometry = ⟨1500, 1500, ⟨true, true, false, false, false, false⟩, 26, 12, .stale, 0⟩ ∧
    s.mru.scannerSeen = none ∧ s.mru.runSeen = .stopped ∧ s.mru.nextTrigger = none ∧ s.mru.fallbackTimer = none ∧
    s.mru.line = none ∧ s.mru.afterStop = false ∧ s.mru.thermalRun = 0 ∧
    s.mru.thermalReported = false ∧ s.mru.queue = [] ∧ s.mru.pendingGap = none ∧ s.mru.pendingStop = none ∧
    s.mru.openPage = none ∧ s.mru.searchIndex = 0 ∧ s.mru.nextEntry = 1 ∧ s.mru.nextPage = 1 ∧
    s.mru.lossReported = false ∧ s.mru.referenceTimer = none ∧ s.mru.postponeCount = 0 ∧
    s.mru.referencePhase = .idle ∧ s.mru.linesProduced = 0 ∧ s.mru.linesWritten = 0 ∧
    s.mru.linesLost = 0 ∧ s.mru.triggersMissed = 0) ∧
  (s.rif.noteOp = .none ∧ s.rif.summaryWrite = none ∧ s.rif.layoutRead = false ∧ s.bdr.op = .none ∧
    s.bdr.startupWrote = false ∧ s.msc.runSeen = .stopped ∧ s.hlc.runSeen = .stopped ∧ s.hlc.mapInForce = false ∧
    (∀ side, (s.lvc.sides.get side).roundBar = 0) ∧ s.htc.runSeen = .stopped ∧ s.mru.op = .none ∧
    s.mru.flushing = false ∧ s.hlc.roundInProgress = false ∧ s.lvc.highestRound = 0 ∧ s.htc.reportAge = none ∧
    s.mru.exposureTimer = none ∧ s.mru.cycleTimer = none))

/-- CONTROL.RUN (R167 to R169): 1 in STOPPED begins a RUN start with the run time at 0, 0 in RUNNING an orderly stop; every
block that follows the run status is told, and nothing else changes. SPS takes no hand-off of it: nothing in SPS changes with
the run status. Any other RUN write and any IDENT write change nothing. STOP_COMPLETE: at the first moment at which all
conditions of R169 hold and the stop has reached the levelling sides and the heating through MSC (R122, R124, log 45: MSC has
taken STOPPING, no run status for MSC, side mode for LVC or heating level for HTC is on its way, both sides are OFF with their
valves IDLE, and heating is OFF with no contactor closed) the run status becomes STOPPED, with one last rewrite. -/
def Obligations.RunStartsAndStops : Prop :=
  ∀ s : State,
    let told (status : RunStatus) : List Waiting :=
      [Follower.msc, .bdr, .trm, .hlc, .htc, .mru].map fun f => ⟨false, .runStatus f status⟩
    let atRest (side : Side) : Prop := (s.lvc.sides.get side).modeSeen = .off ∧ (s.lvc.sides.get side).valve = .idle
    let onItsWay (h : Handoff) : Prop := (∃ status, h = .runStatus .msc status) ∨ (∃ side mode, h = .sideMode side mode) ∨
      ∃ level, h = .heatingLevel level
    let heatingOff := s.htc.levelSeen = .off ∧ ∀ z ∈ s.htc.zones, z.state ≠ .closing ∧ z.state ≠ .on
    let reached := s.msc.runSeen = .stopping ∧ (∀ w ∈ s.inbox, ¬ onItsWay w.handoff) ∧ (∀ side, atRest side) ∧ heatingOff
    (s.rif.runStatus = .stopped →
      exec .runStart s = .next
        { s with rif := { s.rif with runStatus := .starting, layoutRead := true, runTime := 0 }
                 inbox := s.inbox ++ told .starting }) ∧
    (s.rif.runStatus ≠ .stopped → exec .runStart s = .next s ∧ exec (.ignoredRegisterWrite (.run true)) s = .next s) ∧
    (s.rif.runStatus = .running →
      exec .orderlyStop s = .next
        { s with rif := { s.rif with runStatus := .stopping }, inbox := s.inbox ++ told .stopping }) ∧
    (s.rif.runStatus ≠ .running →
      exec .orderlyStop s = .next s ∧ exec (.ignoredRegisterWrite (.run false)) s = .next s) ∧
    (∀ value, exec (.ignoredRegisterWrite (.ident value)) s = .next s) ∧
    (s.rif.runStatus = .stopping → s.rif.boardQuiet = true → s.rif.recordsQuiet = true → s.rif.noteQueue = [] →
      s.rif.noteOp = .none → s.rif.summaryWrite = none → reached →
      exec .stopComplete s = .next
        (State.issueSummary { s with rif := { s.rif with runStatus := .stopped }, inbox := s.inbox ++ told .stopped })) ∧
    (s.rif.runStatus ≠ .stopping ∨ s.rif.boardQuiet = false ∨ s.rif.recordsQuiet = false ∨ s.rif.noteQueue ≠ [] ∨
      s.rif.noteOp ≠ .none ∨ s.rif.summaryWrite ≠ none ∨ ¬ reached → exec .stopComplete s = .next s)

/-- The registers (R167, R171, 12.1). A base is taken only in STOPPED, its low twelve bits 0; a 1 written to a cause clears it
and a 0 leaves it; the enables are stored; and the interrupt output is asserted exactly while a cause is set whose enable is
set. Nothing else changes. IDENT reads the family and part codes, REGION_BASE, ATTENTION and ATTENTION_ENABLE what they hold,
SWEEP 0, and CONTROL reads RUN in bit 0, set in STARTING and RUNNING, the code of the run status in bits 5 to 4; that
the bits 12.1 does not name read 0 is log 46(g). -/
def Obligations.RegisterWritesAndInterrupt : Prop :=
  (∀ (s : State) (value : Word),
    (s.rif.runStatus = .stopped →
      ∃ base : Word, exec (.regionBaseWrite value) s = .next { s with rif := { s.rif with regionBase := base } } ∧
        ∀ i < 32, base.getLsbD i = (decide (12 ≤ i) && value.getLsbD i)) ∧
    (s.rif.runStatus ≠ .stopped → exec (.regionBaseWrite value) s = .next s) ∧
    (∃ causes : BitVec 6, exec (.attentionClear value) s = .next { s with rif := { s.rif with attention := causes } } ∧
      ∀ i < 6, causes.getLsbD i = (s.rif.attention.getLsbD i && !value.getLsbD i)) ∧
    (∃ enables : BitVec 6,
      exec (.attentionEnableWrite value) s = .next { s with rif := { s.rif with attentionEnable := enables } } ∧
      ∀ i < 6, enables.getLsbD i = value.getLsbD i) ∧
    (s.interruptOutput = true ↔ ∃ c : Cause, s.rif.causeSet c = true ∧ s.rif.causeEnabled c = true)) ∧
  (∀ s : State,
    let control := s.readRegister .control
    s.readRegister .ident = 0x0A460460 ∧ s.readRegister .regionBase = s.rif.regionBase ∧ s.readRegister .sweep = 0 ∧
    (s.readRegister .attention).toNat = s.rif.attention.toNat ∧
    (s.readRegister .attentionEnable).toNat = s.rif.attentionEnable.toNat ∧
    (control.getLsbD 0 = true ↔ s.rif.runStatus = .starting ∨ s.rif.runStatus = .running) ∧
    (control.getLsbD 4 = true ↔ s.rif.runStatus = .starting ∨ s.rif.runStatus = .stopping) ∧
    (control.getLsbD 5 = true ↔ s.rif.runStatus = .running ∨ s.rif.runStatus = .stopping) ∧
    (∀ i, i ≠ 0 → i ≠ 4 → i ≠ 5 → control.getLsbD i = false))

/-- LAYOUT_READ_DONE and the start-up pass (R168, R41). A layout that passes its checks is copied and the board's slots are
read in turn; a rewrite left pending until then is issued unless one is in flight (log 10). One that fails sets LAYOUT, drops a
pending rewrite, and the run status goes back to STOPPED. A slot found TAKEN or STAGED is written REFUSED/ABANDONED, BDR's
activity staying IDLE throughout (log 44); after the last slot the run status is RUNNING with the counts, indices and run time
0, the note queue empty and both quiet flags clear, OUTCOME is set where a slot was written, and a rewrite is requested. A slot
is held whose state byte, byte 22, is 2 or 3 (12.3, 12.4). -/
def Obligations.RunStartReadsLayoutAndBoard : Prop :=
  (∀ (l : Layout) (readIndex : Word),
    let areas := [(0, 64), (0x100, 256), (l.boardOffset, 48 * l.slotCount), (l.ringOffset, 4096 * l.pageCount),
      (l.stripOffset, 1024)]
    layoutOk l readIndex = true ↔
      (∀ a ∈ areas, a.1 + a.2 ≤ 2 ^ 20) ∧ (areas.Pairwise fun a b => a.1 + a.2 ≤ b.1 ∨ b.1 + b.2 ≤ a.1) ∧
      l.boardOffset % 8 = 0 ∧ l.ringOffset % 4096 = 0 ∧ l.stripOffset % 16 = 0 ∧ 8 ≤ l.slotCount ∧ l.slotCount ≤ 128 ∧
      2 ≤ l.pageCount ∧ l.pageCount ≤ 256 ∧ readIndex = 0) ∧
  (∀ (s : State) (host : HostWrites), s.rif.layoutRead = true →
    let u := s.hostWrite host
    let l := layoutOf (u.regionRead 0 64)
    let r := readIndexOf (u.regionRead 0 64)
    (layoutOk l r = true →
      let v : State := { u with
        rif := { s.rif with layoutRead := false, layout := some l }
        bdr := { s.bdr with op := .startupRead 0, startupWrote := false } }
      (s.rif.summaryWrite ≠ none ∨ s.rif.rewritePending = false → exec (.layoutReadDone host) s = .next v) ∧
      (s.rif.summaryWrite = none → s.rif.rewritePending = true →
        exec (.layoutReadDone host) s = .next
          (State.issueSummary { v with rif := { v.rif with rewritePending := false } }))) ∧
    (layoutOk l r = false →
      exec (.layoutReadDone host) s = .next
        { u with rif := { s.rif with
                   layoutRead := false, rewritePending := false, runStatus := .stopped
                   attention := s.rif.attention ||| Cause.layout.mask }
                 inbox := s.inbox ++
                   [Follower.msc, .bdr, .trm, .hlc, .htc, .mru].map fun f => ⟨false, .runStatus f .stopped⟩ })) ∧
  (∀ block : List Byte,
    slotHeld block = true ↔ leNat ((block.drop 22).take 1) = 2 ∨ leNat ((block.drop 22).take 1) = 3) ∧
  (∀ (s : State) (host : HostWrites) (k : Nat), s.bdr.op = .startupRead k →
    let u := s.hostWrite host
    let block := u.regionRead (u.slotOffset k) 48
    let o : SlotOutcome := ⟨.refused, 0, ⟨false, false, false, false⟩, .abandoned, s.bdr.chainageSeen, 0⟩
    (slotHeld block = true →
      exec (.startupSlotReadDone host) s = .next
        (State.issueSlot { u with bdr := { s.bdr with op := .startupWrite k o, startupWrote := true } } k o)) ∧
    (slotHeld block = false → k + 1 < s.rif.layoutCopy.slotCount →
      exec (.startupSlotReadDone host) s = .next { u with bdr := { s.bdr with op := .startupRead (k + 1) } }) ∧
    (slotHeld block = false → s.rif.layoutCopy.slotCount ≤ k + 1 →
      exec (.startupSlotReadDone host) s = .next
        (State.enterRunning { u with bdr := { s.bdr with op := .none } } s.bdr.startupWrote))) ∧
  (∀ (s : State) (k : Nat) (o : SlotOutcome), s.bdr.op = .startupWrite k o →
    let u := s.writeDone .board
    (k + 1 < s.rif.layoutCopy.slotCount →
      exec .startupWriteDone s = .next { u with bdr := { s.bdr with op := .startupRead (k + 1) } }) ∧
    (s.rif.layoutCopy.slotCount ≤ k + 1 →
      exec .startupWriteDone s = .next
        (State.enterRunning { u with bdr := { s.bdr with op := .none } } s.bdr.startupWrote))) ∧
  (∀ (s : State) (wrote : Bool),
    s.enterRunning wrote = State.requestRewrite { s with
      rif := { s.rif with
        runStatus := .running, runTime := 0, outcomesWritten := 0, pagesHanded := 0, notesLost := 0, noteWriteIndex := 0
        readIndexSeen := 0, noteQueue := [], boardQuiet := false, recordsQuiet := false
        attention := if wrote then s.rif.attention ||| Cause.outcome.mask else s.rif.attention }
      inbox := s.inbox ++ [Follower.msc, .bdr, .trm, .hlc, .htc, .mru].map fun f => ⟨false, .runStatus f .running⟩ })

/-- Notes, the summary block and the memory port (R24, R170, R172). A note request is discarded outside a run, lost with 16
queued, and otherwise queued with the run time and chainage of the moment; RIF turns to the head request while no note
operation is in flight, and the next one follows the one handled. A read of the read index is followed by the note's write
while the strip has room and by its loss otherwise; a note's write raises the write index and sets NOTE. A request for a
rewrite does nothing in STOPPED (log 10), is left pending while a rewrite is in flight or the layout of a RUN start is unread
(log 10), and else issues one, the sequence raised before the values are taken (log 40). A write issued goes behind those
issued before it, and a completion makes it and all of those visible, piece after piece (log 8). The bytes of the summary
block are those of 12.2, with the codes of 12.4 and STANDBY shown in STOPPED (log 10), and those of a note those of 12.5. A
number stands in its bytes least significant first (12). The codes of 12.4 that a note's subject or value, a result or a page
carries are listed too, each name being read from its own code and from no other; the page kinds are numbered as in 3.3. -/
def Obligations.NotesAndSummaryRewrites : Prop :=
  (∀ (s : State) (kind : NoteKind) (subject : Nat) (value : Word),
    (s.rif.runStatus = .stopped ∨ s.rif.runStatus = .starting → s.postNote kind subject value = s) ∧
    (s.rif.runStatus = .running ∨ s.rif.runStatus = .stopping →
      (s.rif.noteQueue.length < 16 →
        s.postNote kind subject value = { s with rif := Rif.startNote { s.rif with
          noteQueue := s.rif.noteQueue ++ [⟨kind, BitVec.ofNat 8 subject, value, s.rif.runTime, s.trm.chainage⟩] } }) ∧
      (16 ≤ s.rif.noteQueue.length →
        s.postNote kind subject value =
          State.requestRewrite { s with rif := { s.rif with notesLost := s.rif.notesLost + 1 } }))) ∧
  (∀ r : Rif,
    (r.noteOp = .none → r.noteQueue ≠ [] → r.startNote = { r with noteOp := .readIndex }) ∧
    (r.noteOp ≠ .none ∨ r.noteQueue = [] → r.startNote = r) ∧
    r.nextNote = Rif.startNote { r with noteQueue := r.noteQueue.tail, noteOp := .none }) ∧
  (∀ s : State,
    (s.rif.runStatus = .stopped → s.requestRewrite = s) ∧
    (s.rif.runStatus ≠ .stopped →
      (s.rif.summaryWrite ≠ none ∨ s.rif.layoutRead = true →
        s.requestRewrite = { s with rif := { s.rif with rewritePending := true } }) ∧
      (s.rif.summaryWrite = none → s.rif.layoutRead = false → s.requestRewrite = s.issueSummary)) ∧
    (let block := s.summaryBytes (s.rif.rewriteSequence + 1)
     s.issueSummary = State.issueWrite { s with rif := { s.rif with
       rewriteSequence := s.rif.rewriteSequence + 1, summaryWrite := some block } } .summary [(0x100, block)])) ∧
  (∀ (s : State) (host : HostWrites), s.rif.noteOp = .readIndex →
    let u := s.hostWrite host
    let index := BitVec.ofNat 32 (leNat (u.regionRead 16 4))
    (∀ (n : NoteRequest) (rest : List NoteRequest), s.rif.noteQueue = n :: rest →
      (s.rif.noteWriteIndex - index).toNat < 64 →
      exec (.noteReadIndexDone host) s = .next (State.issueWrite
        { u with rif := { s.rif with readIndexSeen := index, noteOp := .write } } .note
        [(s.rif.layoutCopy.stripOffset + 16 * (s.rif.noteWriteIndex.toNat % 64), n.bytes)])) ∧
    (64 ≤ (s.rif.noteWriteIndex - index).toNat →
      exec (.noteReadIndexDone host) s = .next (State.requestRewrite { u with
        rif := Rif.nextNote { s.rif with readIndexSeen := index, notesLost := s.rif.notesLost + 1 } }))) ∧
  (∀ (s : State) (n : NoteRequest) (rest : List NoteRequest), s.rif.noteOp = .write → s.rif.noteQueue = n :: rest →
    exec .noteWriteDone s = .next (State.requestRewrite
      { s.writeDone .note with
        rif := Rif.nextNote { s.rif with
          noteWriteIndex := s.rif.noteWriteIndex + 1, attention := s.rif.attention ||| Cause.note.mask } })) ∧
  (∀ (s : State) (block : List Byte), s.rif.summaryWrite = some block →
    let u : State := { s.writeDone .summary with rif := { s.rif with summaryWrite := none } }
    (s.rif.rewritePending = false ∨ s.rif.layoutRead = true → exec .summaryWriteDone s = .next u) ∧
    (s.rif.rewritePending = true → s.rif.layoutRead = false →
      exec .summaryWriteDone s = .next (State.issueSummary { u with rif := { u.rif with rewritePending := false } }))) ∧
  (∀ (s : State) (user : PortUser) (pieces : List (Nat × List Byte)),
    s.issueWrite user pieces = { s with port := s.port ++
      [⟨user, pieces.map fun x => (s.rif.regionBase.toNat + x.1, x.2)⟩] }) ∧
  (∀ (s : State) (user : PortUser),
    ((∀ w ∈ s.port, w.user ≠ user) → s.writeDone user = s) ∧
    (∀ (earlier later : List PortWrite) (w : PortWrite), s.port = earlier ++ w :: later → w.user = user →
      (∀ x ∈ earlier, x.user ≠ user) →
      s.writeDone user = { s with mem := (earlier ++ [w]).foldl PortWrite.land s.mem, port := later }) ∧
    s.landAll = { s with mem := s.port.foldl PortWrite.land s.mem, port := [] }) ∧
  (∀ (m : Memory) (w : PortWrite), w.land m = w.pieces.foldl (fun m x => m.writeBytes x.1 x.2) m) ∧
  (∀ (m : Memory) (a x : Nat) (bytes : List Byte), m.wf = true →
    (m.writeBytes a bytes).read x = if a ≤ x then (bytes[x - a]?).getD (m.read x) else m.read x) ∧
  (∀ (s : State) (sequence : Word),
    let block := s.summaryBytes sequence
    let field (offset length : Nat) : Nat := leNat ((block.drop offset).take length)
    let sides := [s.msc.sideRequested.left, s.msc.sideEffective.left, s.msc.sideRequested.right, s.msc.sideEffective.right]
    let isLine (i : QueueItem) : Bool := match i with | .entry (.line _) => true | _ => false
    block.length = 256 ∧ field 0 4 = sequence.toNat ∧ field 252 4 = sequence.toNat ∧
    (∀ i, 80 ≤ i → i < 252 → block[i]? = some 0) ∧
    field 4 1 = s.rif.runStatus.code ∧ field 5 1 = (if s.rif.runStatus = .stopped then 0 else s.msc.state.code) ∧
    field 6 1 = (match s.msc.pauseCause with | none => 0 | some .auto => 1 | some .order => 2) ∧
    field 7 1 = (match s.msc.haltSeen with | .released => 0 | .asserted => 1) ∧
    (∀ i < 4, (sides[i]?).map SideMode.code = some (field (8 + i) 1)) ∧
    (∀ c : Fin 4, field (12 + 2 * c) 1 = (s.msc.feedRequested[c]).code ∧
      field (13 + 2 * c) 1 = (s.msc.feedEffective[c]).code) ∧
    field 20 1 = s.msc.heating.code ∧ field 21 1 = s.msc.records.code ∧ field 22 1 = s.trm.travel.code ∧
    field 23 1 = s.trm.busState.code ∧ field 24 4 = s.trm.chainage.toNat ∧ field 28 4 = s.rif.runTime.toNat ∧
    field 32 4 = s.rif.outcomesWritten.toNat ∧ field 36 2 = s.bdr.cursor % 2 ^ 16 ∧
    field 38 1 = (match s.bdr.status with | .running => 0 | .held => 1) ∧ field 39 1 = s.bdr.staging.length % 2 ^ 8 ∧
    field 40 4 = s.rif.pagesHanded.toNat ∧ field 44 4 = s.rif.noteWriteIndex.toNat ∧ field 48 4 = s.rif.notesLost.toNat ∧
    field 52 4 = s.mru.linesProduced.toNat ∧ field 56 4 = s.mru.linesWritten.toNat ∧
    field 60 4 = s.mru.queue.countP isLine % 2 ^ 32 ∧ field 64 4 = s.mru.linesLost.toNat ∧
    field 68 4 = s.mru.triggersMissed.toNat ∧ field 72 4 = s.htc.budget % 2 ^ 32 ∧ field 76 4 = s.htc.draw % 2 ^ 32) ∧
  ([RunStatus.stopped, .starting, .running, .stopping].map RunStatus.code = [0, 1, 2, 3] ∧
    [MachineState.standby, .heatup, .pave, .pause, .transit, .safe].map MachineState.code = [0, 1, 2, 3, 4, 5] ∧
    [SideMode.off, .manual, .auto, .hold].map SideMode.code = [0, 1, 2, 3] ∧
    [FeedMode.off, .manual, .autoLevel, .autoFlow].map FeedMode.code = [0, 1, 2, 3] ∧
    [HeatLevel.off, .hold, .full].map HeatLevel.code = [0, 1, 2] ∧
    [RecordsMode.off, .run, .stopmark].map RecordsMode.code = [0, 1, 2] ∧
    [TravelStatus.none, .live, .silent, .lost].map TravelStatus.code = [0, 1, 2, 3] ∧
    [BusState.idle, .listening, .unreliable].map BusState.code = [0, 1, 2]) ∧
  ([ZoneState.disabled, .locked, .idle, .waiting, .closing, .on, .fault].map ZoneState.code = [0, 1, 2, 3, 4, 5, 6] ∧
    [ZoneFault.openElement, .overcurrent, .welded, .sensor].map ZoneFault.code = [1, 2, 3, 4] ∧
    [HeadState.active, .suspect, .dropped, .mismatch, .unconfirmed].map HeadState.code = [1, 2, 3, 4, 5] ∧
    [HeadKind.sonic, .slope, .stroke, .scanner].map HeadKind.code = [1, 2, 3, 4] ∧
    [TxOutcome.good, .timeout, .charError, .modeMismatch, .nakLatched, .nakEmpty].map TxOutcome.code =
      [0, 1, 2, 3, 4, 5] ∧
    [Section.mainL, .mainR, .extL, .extR, .boltL, .boltR].map Section.code = [0, 1, 2, 3, 4, 5] ∧
    [JunctionId.left, .right, .centre].map JunctionId.code = [0, 1, 2] ∧
    [Side.left, .right].map sideCode = [0, 1] ∧
    [PageKind.zoneMap, .headMap, .filter, .geometry].map PageKind.code = [0, 1, 2, 3] ∧
    [ChangeCause.order, .autoPause, .autoResume, .halt, .runStop].map changeCode = [0, 1, 2, 3, 4]) ∧
  (∀ n : Nat,
    (∀ x, MachineState.ofCode n = some x ↔ x.code = n) ∧ (∀ x, HeadKind.ofCode n = some x ↔ x.code = n) ∧
    (∀ x, Section.ofCode n = some x ↔ x.code = n) ∧ (∀ x, JunctionId.ofCode n = some x ↔ x.code = n) ∧
    (∀ x, sideOfCode n = some x ↔ sideCode x = n) ∧ (∀ x, PageKind.ofCode n = some x ↔ x.code = n)) ∧
  (leNat [] = 0 ∧ (∀ (b : Byte) (bs : List Byte), leNat (b :: bs) = b.toNat + 256 * leNat bs) ∧
    ∀ length v : Nat, (leBytes length v).length = length ∧ leNat (leBytes length v) = v % 256 ^ length) ∧
  (∀ n : NoteRequest,
    let field (offset length : Nat) : Nat := leNat ((n.bytes.drop offset).take length)
    n.bytes.length = 16 ∧ field 0 1 = n.kind.code ∧ field 1 1 = n.subject.toNat ∧ field 2 2 = 0 ∧
    field 4 4 = n.value.toNat ∧ field 8 4 = n.runTime.toNat ∧ field 12 4 = n.chainage.toNat) ∧
  ([NoteKind.zoneFault, .zoneShed, .budgetLow, .headSuspect, .headDropped, .headReadmitted, .headMismatch, .junctionDown,
    .junctionRestored, .busUnreliable, .travelSilent, .travelRestored, .badStep, .stateChanged, .sideHold, .sideRestored,
    .feedJam, .sensorLost, .sensorRestored, .thermalRun, .referenceForced, .recordLoss, .halt].map NoteKind.code =
      (List.range 23).map (· + 1))

/-! ## The board (02) -/

/-- Sweep requests (R26, R32): SWEEP, the sweep timer's expiry and RESUME. Outside RUNNING a request is discarded; in RUNNING
it begins a read of the slot at the cursor on a RUNNING board at rest and sets pending sweep otherwise. The timer restarts at
its expiry, which MRU is handed too; the expiry of a stopped timer changes nothing (log 2, log 3). RESUME of a HELD board
makes it RUNNING with pending sweep clear and makes a request; any other RESUME changes nothing. -/
def Obligations.SweepRequests : Prop :=
  ∀ s : State,
    (∀ b : Bdr,
      (b.runSeen ≠ .running → b.sweepRequest = b) ∧
      (b.runSeen = .running → b.status = .running → b.activity = .idle →
        b.sweepRequest = { b with activity := .reading, op := .slotRead b.cursor }) ∧
      (b.runSeen = .running → b.status = .held ∨ b.activity ≠ .idle → b.sweepRequest = { b with pendingSweep := true })) ∧
    (∀ value, exec (.sweep value) s = .next { s with bdr := s.bdr.sweepRequest }) ∧
    (s.bdr.runSeen = .running → s.bdr.status = .held →
      exec .resume s = .next
        { s with bdr := Bdr.sweepRequest { s.bdr with status := .running, pendingSweep := false } }) ∧
    (s.bdr.runSeen ≠ .running ∨ s.bdr.status = .running → exec .resume s = .next s) ∧
    (∀ expiry, s.bdr.sweepTimer = some expiry →
      let u := s.runTo expiry
      exec .sweepTimerExpiry s = .next
        { u with
          bdr := Bdr.sweepRequest
            { s.bdr with sweepTimer := some (u.rif.runTime + BitVec.ofNat 32 (s.settingNat Setting.sweepPeriod)) }
          inbox := s.inbox ++ [⟨false, .sweepExpiry⟩] }) ∧
    (s.bdr.sweepTimer = none → exec .sweepTimerExpiry s = .next s)

/-- SLOT_READ_DONE (R27, R28, R29). In STOPPING the data is discarded. A due head entry starts, the sweep to continue. A slot
not POSTED ends the sweep, or begins the pending one on a RUNNING board. A good check word takes the order: take index and
TAKEN are written, the cursor and the next take index move, the sweep is to continue, and the order is checked. A bad one
makes the board HELD, sets HELD and writes REFUSED/CHECK, the cursor moving on. The slot's bytes are read as 12.3 lays them
out: a state byte of 1 is POSTED and any other is not (R174); the check word of bytes 20 and 21 is good where it is the CRC-16
of the 20 request bytes; the order carries the stamp, kind, flags, subject, operands and station of its fields, whatever the
reserved bytes and flag bits (R174), and a subject names the setting, page, side, zone or channel of that number (R30). -/
def Obligations.SlotReadDone : Prop :=
  (
  ∀ (s : State) (host : HostWrites) (slot : Nat), s.bdr.op = .slotRead slot →
    let u : State := { s.hostWrite host with bdr := { s.bdr with op := .none } }
    let block := u.regionRead (u.slotOffset slot) 48
    let refusal : SlotOutcome :=
      ⟨.refused, 0, ⟨false, false, false, false⟩, .check, s.bdr.chainageSeen, s.rif.runTime⟩
    let cursor := (s.bdr.cursor + 1) % s.rif.layoutCopy.slotCount
    (s.bdr.runSeen ≠ .running → exec (.slotReadDone host) s = .next u.stopStep) ∧
    (s.bdr.runSeen = .running → s.bdr.headDue = true →
      exec (.slotReadDone host) s = .next (State.startDue { u with bdr := { u.bdr with sweepContinuing := true } })) ∧
    (s.bdr.runSeen = .running → s.bdr.headDue = false →
      (slotPosted block = false → s.bdr.pendingSweep = true → s.bdr.status = .running →
        exec (.slotReadDone host) s = .next
          { u with bdr := { u.bdr with activity := .reading, op := .slotRead s.bdr.cursor, pendingSweep := false } }) ∧
      (slotPosted block = false → s.bdr.pendingSweep = false ∨ s.bdr.status = .held →
        exec (.slotReadDone host) s = .next
          { u with bdr := { u.bdr with activity := .idle, sweepContinuing := false } }) ∧
      (slotPosted block = true → slotCheckGood block = true →
        exec (.slotReadDone host) s = .next (u.takeOrder (orderOfSlot block slot s.bdr.nextTake))) ∧
      (slotPosted block = true → slotCheckGood block = false →
        exec (.slotReadDone host) s = .next
          (State.issueSlot { u with
            bdr := { u.bdr with cursor := cursor, status := .held, op := .checkWrite slot refusal }
            rif := { s.rif with attention := s.rif.attention ||| Cause.held.mask } } slot refusal)))) ∧
  (∀ (block : List Byte) (slot : Nat) (takeIndex : Word),
    let field (offset length : Nat) : Nat := leNat ((block.drop offset).take length)
    let o := orderOfSlot block slot takeIndex
    (slotPosted block = true ↔ field 22 1 = 1) ∧
    (slotCheckGood block = true ↔ (crc16 (block.take 20)).toNat = field 20 2) ∧
    o.slot = slot ∧ o.takeIndex = takeIndex ∧ o.stamp.toNat = field 0 2 ∧ o.kind.toNat = field 2 1 ∧
    o.strict = (field 3 1).testBit 0 ∧ o.chained = (field 3 1).testBit 1 ∧ o.stationPresent = (field 3 1).testBit 2 ∧
    o.subject.toNat = field 4 1 ∧ o.operandA.toNat = field 8 4 ∧ o.operandB.toNat = field 12 4 ∧
    o.station.toNat = field 16 4 ∧
    (field 4 1 < 47 → o.settingId.val = field 4 1) ∧ (field 4 1 < 4 → o.page.code = field 4 1) ∧
    (field 4 1 < 2 → sideCode o.side = field 4 1) ∧ (field 4 1 < 24 → o.zone.val = field 4 1) ∧
    (field 4 1 < 4 → o.channel.val = field 4 1))

/-- What a take does with the order (R29, R33, R36), and STAGED_WRITE_DONE. The slot's take index and TAKEN are written and
become visible behind every write issued before them (log 8); the cursor, the next take index and the sweep move on. Then the
first failed check of R29 refuses the order: the kind, the subject's range of R30, the slot in the staging list, the stamp of a
station order. A station ahead stages it, after every entry whose station is at or below its own, where the list has room, and
no order is in execution while STAGED is written (log 43); with 16 entries it is refused STAGE_FULL. Any other order begins
execution, LATE where it has a station; a CHAINED one is SKIPPED/CHAIN unless the order taken before it is in no staging entry
and in the history as DONE (R37). -/
def Obligations.TakenOrderIsCheckedStagedOrBegun : Prop :=
  (∀ (s : State) (o : Order),
    let offset := s.rif.layoutCopy.boardOffset + 48 * o.slot
    let v := State.landAll (s.issueWrite .board
      [(offset + 24, leBytes 4 o.takeIndex.toNat), (offset + 23, [0]), (offset + 22, [BitVec.ofNat 8 SlotState.taken.code])])
    let u : State := { v with bdr := { s.bdr with
      activity := .executing, execution := some ⟨o, ⟨false, false, false, false⟩, .atOwner⟩
      nextTake := s.bdr.nextTake + 1, cursor := (s.bdr.cursor + 1) % s.rif.layoutCopy.slotCount
      sweepContinuing := true } }
    (∀ reason, s.bdr.takeCheck o = some reason →
      s.takeOrder o = u.issueOutcome .refused 0 reason ⟨false, false, false, false⟩) ∧
    (s.bdr.takeCheck o = none → o.stationPresent = true → s.bdr.chainageSeen < o.station →
      (s.bdr.staging.length < 16 →
        s.takeOrder o = State.issueWrite { u with bdr := { u.bdr with
          staging := stageInsert s.bdr.staging o, execution := none, op := .stagedWrite o.slot } } .board
          [(offset + 23, [0]), (offset + 22, [BitVec.ofNat 8 SlotState.staged.code])]) ∧
      (16 ≤ s.bdr.staging.length →
        s.takeOrder o = u.issueOutcome .refused 0 .stageFull ⟨false, false, false, false⟩)) ∧
    (s.bdr.takeCheck o = none → o.stationPresent = false ∨ o.station ≤ s.bdr.chainageSeen →
      s.takeOrder o = u.beginExecution o o.stationPresent)) ∧
  (∀ (b : Bdr) (o : Order),
    let bound (kind : OrderKind) : Option Nat :=
      match kind with
      | .setValue | .adjustValue | .swapValue | .readValue => some 47
      | .loadPage | .patchPage | .confirmPage | .setFeed => some 4
      | .setState => some 6
      | .setSide | .capture | .jog => some 2
      | .setZone => some 24
      | .clearFault =>
        some (if o.operandB = 0 then 24 else if o.operandB = 1 then 4 else if o.operandB = 2 then 16
          else if o.operandB = 3 then 3 else 0)
      | .clearSafe | .setChainage | .rearmBus | .mark | .flushRecords | .withdraw => none
    (OrderKind.ofCode o.kind.toNat = none → b.takeCheck o = some .badKind) ∧
    (∀ kind, OrderKind.ofCode o.kind.toNat = some kind →
      let inRange : Prop := ∀ n, bound kind = some n → o.subject.toNat < n
      (¬ inRange → b.takeCheck o = some .badSubject) ∧
      (inRange →
        ((∃ e ∈ b.staging, e.slot = o.slot) → b.takeCheck o = some .duplicateStage) ∧
        ((∀ e ∈ b.staging, e.slot ≠ o.slot) →
          (o.stationPresent = true → (∃ e ∈ b.staging, e.stamp = o.stamp) → b.takeCheck o = some .duplicateStamp) ∧
          (o.stationPresent = false ∨ (∀ e ∈ b.staging, e.stamp ≠ o.stamp) → b.takeCheck o = none)))) ∧
    (b.chainPasses o = true ↔
      (∀ e ∈ b.staging, e.takeIndex ≠ o.takeIndex - 1) ∧
      ∃ e ∈ b.history, e.takeIndex = o.takeIndex - 1 ∧ e.state = .done)) ∧
  (∀ (o : Order) (below above : List Order), (∀ e ∈ below, e.station ≤ o.station) → (∀ e ∈ above, o.station < e.station) →
    stageInsert (below ++ above) o = below ++ o :: above) ∧
  (∀ (s : State) (o : Order) (late : Bool),
    let u : State := { s with bdr := { s.bdr with
      activity := .executing, execution := some ⟨o, ⟨false, false, late, false⟩, .atOwner⟩ } }
    (o.chained = false ∨ s.bdr.chainPasses o = true → s.beginExecution o late = u) ∧
    (o.chained = true → s.bdr.chainPasses o = false →
      s.beginExecution o late = u.issueOutcome .skipped 0 .chain ⟨false, false, late, false⟩)) ∧
  (∀ (s : State) (slot : Nat), s.bdr.op = .stagedWrite slot →
    exec .stagedWriteDone s = .next (s.writeDone .board).chooseNext)

/-- OUTCOME_WRITE_DONE (R24, R28, R38, R42) and BDR's choice of its next step (R31). The outcome's fields are written and the
state byte last, the reserved bytes as 0 (R174), and at the completion they are visible; a taken order's outcome joins the
history; RIF counts one more outcome, sets OUTCOME and rewrites the summary; BDR then goes on: with the stop in STOPPING, else
with a due entry, else with the sweep, else with the pending sweep, else it rests. The history keeps the last 32 outcomes, a
new one behind them and the oldest dropped for it (R37). The codes of the slot states, reasons and order kinds and the bits of
the indicators are those of 12.3 and 12.4, an order kind being read from its own code and from no other. -/
def Obligations.OutcomeWriteDone : Prop :=
  (∀ (s : State) (o : SlotOutcome) (e : Execution), s.bdr.op = .outcomeWrite o → s.bdr.execution = some e →
    exec .outcomeWriteDone s = .next
      ((State.countOutcome { s.writeDone .board with bdr := { s.bdr with
        history := pushHistory s.bdr.history ⟨e.order.takeIndex, o.state⟩ } }).chooseNext)) ∧
  (∀ (s : State) (slot : Nat) (o : SlotOutcome), s.bdr.op = .checkWrite slot o →
    exec .outcomeWriteDone s = .next ((s.writeDone .board).countOutcome).chooseNext) ∧
  (∀ (s : State) (order : Order) (o : SlotOutcome), s.bdr.op = .stopWrite order o →
    exec .outcomeWriteDone s = .next
      ((State.countOutcome { s.writeDone .board with bdr := { s.bdr with
        history := pushHistory s.bdr.history ⟨order.takeIndex, o.state⟩ } }).stopStep)) ∧
  (∀ s : State, s.countOutcome = State.requestRewrite { s with rif := { s.rif with
    outcomesWritten := s.rif.outcomesWritten + 1, attention := s.rif.attention ||| Cause.outcome.mask } }) ∧
  (∀ s : State,
    let u : State := { s with bdr := { s.bdr with execution := none, op := .none } }
    (s.bdr.runSeen = .stopping → s.chooseNext = u.stopStep) ∧
    (s.bdr.runSeen ≠ .stopping →
      (s.bdr.headDue = true → s.chooseNext = u.startDue) ∧
      (s.bdr.headDue = false →
        (s.bdr.status = .running → s.bdr.sweepContinuing = true → s.chooseNext = { s with bdr := { s.bdr with
          execution := none, activity := .reading, op := .slotRead s.bdr.cursor, sweepContinuing := false } }) ∧
        (s.bdr.status = .running → s.bdr.sweepContinuing = false → s.bdr.pendingSweep = true →
          s.chooseNext = { s with bdr := { s.bdr with
            execution := none, activity := .reading, op := .slotRead s.bdr.cursor, pendingSweep := false } }) ∧
        (s.bdr.status = .held ∨ s.bdr.sweepContinuing = false ∧ s.bdr.pendingSweep = false →
          s.chooseNext = { u with bdr := { u.bdr with activity := .idle, sweepContinuing := false } })))) ∧
  (∀ (history : List HistoryEntry) (e : HistoryEntry),
    (history.length < 32 → pushHistory history e = history ++ [e]) ∧
    (history.length = 32 → pushHistory history e = history.tail ++ [e])) ∧
  ([SlotState.free, .posted, .taken, .staged, .done, .refused, .skipped, .withdrawn].map SlotState.code =
      [0, 1, 2, 3, 4, 5, 6, 7] ∧
    [Reason.none, .check, .abandoned, .stopped, .badKind, .badSubject, .range, .wrongState, .pageInvalid, .pageContent,
      .stageFull, .duplicateStage, .duplicateStamp, .notStaged, .chain, .haltActive, .slopeTaken, .queueFull,
      .stagedPending, .notFaulted].map Reason.code = List.range 20 ∧
    [OrderKind.setValue, .adjustValue, .swapValue, .readValue, .loadPage, .patchPage, .confirmPage, .setState, .clearSafe,
      .setSide, .capture, .jog, .setZone, .setFeed, .clearFault, .setChainage, .rearmBus, .mark, .flushRecords,
      .withdraw].map OrderKind.code = (List.range 20).map (· + 1) ∧
    (∀ (n : Nat) (kind : OrderKind), OrderKind.ofCode n = some kind ↔ kind.code = n) ∧
    ∀ i : Indicators,
      (List.range 8).map i.byte.getLsbD = [i.limit, i.soft, i.late, i.pending, false, false, false, false]) ∧
  (∀ (s : State) (slot : Nat) (o : SlotOutcome),
    let offset := s.rif.layoutCopy.boardOffset + 48 * slot
    s.issueSlot slot o = s.issueWrite .board
      [(offset + 28, leBytes 4 o.result.toNat ++ [o.indicators.byte, BitVec.ofNat 8 o.reason.code, 0, 0] ++
          leBytes 4 o.finishChainage.toNat ++ leBytes 4 o.finishRunTime.toNat ++ [0, 0, 0, 0]),
        (offset + 23, [0]), (offset + 22, [BitVec.ofNat 8 o.state.code])])

/-- CHAINAGE_REPORT_AT_BDR and RUN_STATUS_AT_BDR (R25, R34, R42). A report sets chainage seen and, in RUNNING with BDR at rest,
starts a due head entry, which leaves the list and begins execution without LATE. STOPPING stops the sweep timer, clears
pending sweep and sweep continuing and, with BDR at rest, refuses the staged orders one by one, its activity EXECUTING
while they are written (log 43), then reports the board quiet;
RUNNING gives the RUN start values with chainage seen kept; the other run statuses stop the timer. -/
def Obligations.ChainageAndRunStatusAtBdr : Prop :=
  ∀ (s : State) (rest : List Waiting),
    let u : State := { s with inbox := rest }
    (∀ c, s.FirstWaiting (fun h => ∃ x, h = .chainageToBdr x) (.chainageToBdr c) rest →
      let v : State := { u with bdr := { s.bdr with chainageSeen := c } }
      (s.bdr.runSeen = .running → s.bdr.activity = .idle → v.bdr.headDue = true →
        exec .chainageReportAtBdr s = .next v.startDue) ∧
      (s.bdr.runSeen ≠ .running ∨ s.bdr.activity ≠ .idle ∨ v.bdr.headDue = false →
        exec .chainageReportAtBdr s = .next v)) ∧
    (∀ status, s.FirstWaiting (fun h => ∃ x, h = .runStatus .bdr x) (.runStatus .bdr status) rest →
      (status = .running → exec .runStatusAtBdr s = .next { u with bdr := { Bdr.reset with
        chainageSeen := s.bdr.chainageSeen, runSeen := .running
        sweepTimer := some (s.rif.runTime + BitVec.ofNat 32 (s.settingNat Setting.sweepPeriod)) } }) ∧
      (status = .starting ∨ status = .stopped → exec .runStatusAtBdr s = .next
        { u with bdr := { s.bdr with runSeen := status, sweepTimer := none } }) ∧
      (status = .stopping →
        let v : State := { u with bdr := { s.bdr with
          runSeen := .stopping, sweepTimer := none, pendingSweep := false, sweepContinuing := false } }
        exec .runStatusAtBdr s = .next (if s.bdr.activity = .idle then v.stopStep else v))) ∧
    (∀ (o : Order) (rest : List Order), s.bdr.staging = o :: rest →
      s.startDue = State.beginExecution { s with bdr := { s.bdr with staging := rest } } o false ∧
      (let refusal : SlotOutcome :=
        ⟨.refused, 0, ⟨false, false, false, false⟩, .stopped, s.bdr.chainageSeen, s.rif.runTime⟩
       s.stopStep = State.issueSlot { s with bdr := { s.bdr with
        staging := rest, activity := .executing, execution := none, op := .stopWrite o refusal } } o.slot refusal)) ∧
    (s.bdr.staging = [] → s.stopStep = { s with
      bdr := { s.bdr with activity := .idle, execution := none, op := .none }
      rif := { s.rif with boardQuiet := true } })

/-- WITHDRAW and WITHDRAWN_WRITE_DONE (R40). A stamp outside 0..65535 is refused RANGE, a stamp no staged order has is refused
NOT_STAGED; else the staged order leaves the list and its slot is written WITHDRAWN, and at that write's completion its take
index joins the history, RIF counts the outcome and the WITHDRAW finishes DONE with the slot as result. An owner's answer
(R36, R38): BDR issues the outcome write with the finish chainage and run time of the moment, LATE as it stands in the order
in execution; a refusal has result 0 and no other indicator. Nothing but BDR's record and the memory port changes. -/
def Obligations.OrdersEndAndAreWithdrawn : Prop :=
  (
  (∀ (s : State) (o : Order), s.orderOf .withdraw = some o →
    (o.operandA.toInt < 0 ∨ 65535 < o.operandA.toInt → exec .withdraw s = .next (s.finishRefused .range)) ∧
    (0 ≤ o.operandA.toInt → o.operandA.toInt ≤ 65535 →
      (s.bdr.staging.find? (fun e => e.stamp == o.operandA.truncate 16) = none →
        exec .withdraw s = .next (s.finishRefused .notStaged)) ∧
      (∀ e, s.bdr.staging.find? (fun e => e.stamp == o.operandA.truncate 16) = some e →
        let out : SlotOutcome :=
          ⟨.withdrawn, 0, ⟨false, false, false, false⟩, .none, s.bdr.chainageSeen, s.rif.runTime⟩
        exec .withdraw s = .next (State.issueSlot { s with bdr := { s.bdr with
          staging := s.bdr.staging.filter fun x => x.stamp != e.stamp
          op := .withdrawnWrite e out
          execution := s.bdr.execution.map fun x => { x with phase := .inFlight } } } e.slot out)))) ∧
  (∀ (s : State) (e : Order) (o : SlotOutcome), s.bdr.op = .withdrawnWrite e o →
    exec .withdrawnWriteDone s = .next
      ((State.countOutcome { s.writeDone .board with bdr := { s.bdr with
        history := pushHistory s.bdr.history ⟨e.takeIndex, o.state⟩ } }).finishDone
        (BitVec.ofNat 32 e.slot) false false false))) ∧
  (
  ∀ (s : State) (e : Execution), s.bdr.execution = some e →
    (∀ (state : SlotState) (result : Word) (reason : Reason) (ind : Indicators),
      let out : SlotOutcome := ⟨state, result, ind, reason, s.bdr.chainageSeen, s.rif.runTime⟩
      s.issueOutcome state result reason ind = State.issueSlot { s with bdr := { s.bdr with
        op := .outcomeWrite out
        execution := some { e with indicators := ind, phase := .writing } } } e.order.slot out) ∧
    (∀ (result : Word) (limit soft pending : Bool),
      let ind : Indicators := ⟨limit, soft, e.indicators.late, pending⟩
      let out : SlotOutcome := ⟨.done, result, ind, .none, s.bdr.chainageSeen, s.rif.runTime⟩
      s.finishDone result limit soft pending = State.issueSlot { s with bdr := { s.bdr with
        op := .outcomeWrite out
        execution := some { e with indicators := ind, phase := .writing } } } e.order.slot out) ∧
    (∀ reason : Reason,
      let ind : Indicators := ⟨false, false, e.indicators.late, false⟩
      let out : SlotOutcome := ⟨.refused, 0, ind, reason, s.bdr.chainageSeen, s.rif.runTime⟩
      s.finishRefused reason = State.issueSlot { s with bdr := { s.bdr with
        op := .outcomeWrite out
        execution := some { e with indicators := ind, phase := .writing } } } e.order.slot out))

/-! ## Machine states and modes (01) -/

/-- SET_STATE and CLEAR_SAFE (R2, R3, R13). The checks stand in R3's order and the first that fails refuses the order, with no
effect, HALT read both as seen and as the input stands, which the command carries (log 12); a SET_STATE that passes makes the
transition, or converts an automatic pause, and finishes DONE with the code of the state at MSC's event (log 9); a SET_STATE
before MSC has taken RUNNING is judged alike, which is log 46(h); a CLEAR_SAFE that passes takes the machine to STANDBY and
finishes DONE with result SAFE. -/
def Obligations.SetStateAndClearSafe : Prop :=
  (∀ (present target : MachineState) (pause : Option PauseCause),
    transitionListed present pause target = true ↔
      (present, target) ∈ ([(.standby, .heatup), (.standby, .transit), (.heatup, .pave), (.transit, .pave),
        (.pave, .pause), (.pause, .pave), (.heatup, .transit), (.pave, .transit), (.pause, .transit),
        (.heatup, .standby), (.pave, .standby), (.pause, .standby), (.transit, .standby)] :
          List (MachineState × MachineState)) ∨
      present = .pause ∧ target = .pause ∧ pause = some .auto) ∧
  (∀ (s : State) (o : Order) (halt : HaltLevel), s.orderOf .setState = some o →
    let present := s.msc.state
    (MachineState.ofCode o.subject.toNat = none → exec (.setState halt) s = .next (s.finishRefused .badSubject)) ∧
    (∀ target, MachineState.ofCode o.subject.toNat = some target →
      let listed := transitionListed present s.msc.pauseCause target
      let halted := present = .standby ∧ target = .heatup ∧ (s.msc.haltSeen = .asserted ∨ halt = .asserted)
      let pagesValid := (present = .standby ∧ target = .heatup → s.sps.zoneMap.valid = true) ∧
        ((present = .heatup ∨ present = .transit) ∧ target = .pave →
          s.sps.zoneMap.valid = true ∧ s.sps.headMap.valid = true ∧ s.sps.geometry.valid = true)
      (s.msc.runSeen = .stopping → exec (.setState halt) s = .next (s.finishRefused .stopped)) ∧
      (s.msc.runSeen ≠ .stopping →
        (listed = false → exec (.setState halt) s = .next (s.finishRefused .wrongState)) ∧
        (listed = true → halted → exec (.setState halt) s = .next (s.finishRefused .haltActive)) ∧
        (listed = true → ¬ halted → ¬ pagesValid → exec (.setState halt) s = .next (s.finishRefused .pageInvalid)) ∧
        (listed = true → ¬ halted → pagesValid →
          (present = .pause → target = .pause → exec (.setState halt) s = .next
            (State.finishDone { s with msc := { s.msc with pauseCause := some .order } } 3 false false false)) ∧
          (present ≠ .pause ∨ target ≠ .pause → exec (.setState halt) s = .next
            ((s.transition target (if target = .pause then some .order else none) .order).finishDone
              (BitVec.ofNat 32 present.code) false false false)))))) ∧
  (∀ (s : State) (o : Order) (halt : HaltLevel), s.orderOf .clearSafe = some o →
    (s.msc.runSeen = .stopping → exec (.clearSafe halt) s = .next (s.finishRefused .stopped)) ∧
    (s.msc.runSeen ≠ .stopping →
      (s.msc.state ≠ .safe → exec (.clearSafe halt) s = .next (s.finishRefused .wrongState)) ∧
      (s.msc.state = .safe →
        (s.msc.haltSeen = .asserted ∨ halt = .asserted →
          exec (.clearSafe halt) s = .next (s.finishRefused .haltActive)) ∧
        (s.msc.haltSeen = .released → halt = .released →
          exec (.clearSafe halt) s = .next
            ((s.transition .standby none .order).finishDone (BitVec.ofNat 32 MachineState.safe.code)
              false false false)))))

/-- R4, R5, R10 and R17: what a change of machine state does. The state, the pause cause, the auto-pause timer and every
effective mode are written, a side's from the reference status LVC holds at the moment (log 43); TRM and FDC get the state,
MRU the end of a pause with the cause it had and the records mode that follows it, and the start of one with its cause, SPS a
PAVE entry ahead of everything else of the transition; each job whose effective mode changes is handed it, but MRU receives
STOPMARK with the pause start and what follows it with the pause end (R21); STATE_CHANGED is noted with the old state and the
cause; ATTENTION.SAFE is set on entry to SAFE; the summary is rewritten. Into SAFE every effective mode becomes OFF. That the note is
posted first, ATTENTION.SAFE set next and the rewrite for RIF requested last, where R4 lists the hand-off to RIF before the
note, is the model's choice (log 11, DESIGN CHOICE). -/
def Obligations.TransitionWritesStateAndHandsOn : Prop :=
  (∀ (s : State) (target : MachineState) (pause : Option PauseCause) (cause : ChangeCause),
    let old := s.msc
    let m : Msc := { s.msc with
      state := target, pauseCause := pause
      autoPause := if target = .pave ∧ old.travelSeen = .live then
        some (s.rif.runTime + BitVec.ofNat 32 (s.settingNat Setting.pauseDelay)) else none
      sideEffective :=
        ⟨effectiveSide old.sideRequested.left target s.lvc.sides.left.status,
         effectiveSide old.sideRequested.right target s.lvc.sides.right.status⟩
      feedEffective := old.feedRequested.map fun r => effectiveFeed r target old.travelSeen
      heating := effectiveHeating target
      records := effectiveRecords target }
    let paveEntry := decide (target = .pave ∧ (old.state = .heatup ∨ old.state = .transit))
    let hands := [Handoff.machineToTrm target, .machineToFdc target] ++
      (if old.state = .pause then [.pauseEnd (old.pauseCause.getD .order) m.records] else []) ++
      (if target = .pause then [.pauseStart (pause.getD .order)] else []) ++ modeHands old m
    let moved : State := { s with
      msc := m
      inbox := s.inbox ++ (if paveEntry then [⟨false, .paveEntry⟩] else []) ++ hands.map (Waiting.mk paveEntry) }
    let noted := moved.postNote .stateChanged target.code (BitVec.ofNat 32 (old.state.code + 256 * changeCode cause))
    (target ≠ .safe → s.transition target pause cause = noted.requestRewrite) ∧
    (target = .safe →
      s.transition target pause cause = State.requestRewrite
        { noted with rif := { noted.rif with attention := noted.rif.attention ||| Cause.safe.mask } } ∧
      m.sideEffective = ⟨.off, .off⟩ ∧ m.feedEffective = Vector.replicate 4 .off ∧ m.heating = .off ∧
      m.records = .off)) ∧
  (∀ old new : Msc,
    (∀ side mode, (Handoff.sideMode side mode ∈ modeHands old new ↔
        old.sideEffective.get side ≠ mode ∧ new.sideEffective.get side = mode) ∧
      (Handoff.sideModeToHlc side mode ∈ modeHands old new ↔
        old.sideEffective.get side ≠ mode ∧ new.sideEffective.get side = mode)) ∧
    (∀ (c : Fin 4) mode, Handoff.feedMode c mode ∈ modeHands old new ↔
      old.feedEffective[c] ≠ mode ∧ new.feedEffective[c] = mode) ∧
    (∀ level, Handoff.heatingLevel level ∈ modeHands old new ↔ old.heating ≠ level ∧ new.heating = level) ∧
    (∀ mode, (Handoff.recordsMode mode ∈ modeHands old new ↔
        old.records ≠ mode ∧ new.records = mode ∧ old.records ≠ .stopmark ∧ mode ≠ .stopmark) ∧
      (Handoff.recordsModeToHlc mode ∈ modeHands old new ↔ old.records ≠ mode ∧ new.records = mode)))

/-- The tables of R18 to R21: the effective mode of a side, the heating level, the effective mode of a feed channel and the
records mode, row by row in the order STANDBY, HEATUP, PAVE, PAUSE, TRANSIT, SAFE. -/
def Obligations.EffectiveModeTables : Prop :=
  let states : List MachineState := [.standby, .heatup, .pave, .pause, .transit, .safe]
  (∀ reference, states.map (effectiveSide .off · reference) = [.off, .off, .off, .off, .off, .off] ∧
    states.map (effectiveSide .manual · reference) = [.off, .manual, .manual, .manual, .manual, .off]) ∧
  states.map (effectiveSide .auto · .ok) = [.off, .hold, .auto, .hold, .hold, .off] ∧
  states.map (effectiveSide .auto · .lost) = [.off, .hold, .hold, .hold, .hold, .off] ∧
  states.map effectiveHeating = [.off, .full, .full, .full, .hold, .off] ∧
  (∀ travel, states.map (effectiveFeed .off · travel) = [.off, .off, .off, .off, .off, .off] ∧
    states.map (effectiveFeed .manual · travel) = [.off, .manual, .manual, .off, .off, .off] ∧
    states.map (effectiveFeed .autoLevel · travel) = [.off, .off, .autoLevel, .autoLevel, .off, .off] ∧
    states.map (effectiveFeed .autoFlow · travel) =
      [.off, .off, if travel = .live then .autoFlow else .autoLevel, .autoLevel, .off, .off]) ∧
  states.map effectiveRecords = [.off, .off, .run, .stopmark, .off, .off]

/-- HALT, the auto-pause timer and a chainage advance at MSC (R7 to R9, R11). An assertion while the run status is RUNNING or
STOPPING is noted and takes the machine to SAFE from any other state; a release is noted and moves nothing; in RUNNING and
STOPPING a change of the level has the summary rewritten (R170). The timer's expiry pauses a machine in PAVE with travel LIVE;
an advance in PAVE restarts the timer with travel seen LIVE and else stops it (log 38), it resumes an automatic pause, and it
changes nothing else. R11 gives the effects of a HALT change no order: that its note comes before its rewrite, and the rewrite
of the transition before that of the level, is the model's choice (log 11, DESIGN CHOICE). So is it that the expiry command
brings time to the timer's expiry (log 2, DESIGN CHOICE). -/
def Obligations.HaltAndAutoPause : Prop :=
  (∀ s : State,
    let level (h : HaltLevel) : State := { s with msc := { s.msc with haltSeen := h } }
    let shown (h : HaltLevel) (t : State) : State :=
      if s.msc.haltSeen ≠ h ∧ (s.rif.runStatus = .running ∨ s.rif.runStatus = .stopping) then t.requestRewrite else t
    let acting := s.msc.runSeen = .running ∨ s.msc.runSeen = .stopping
    (acting → s.msc.state ≠ .safe → exec .haltAsserted s = .next
      (shown .asserted (((level .asserted).postNote .halt 0 1).transition .safe none .halt))) ∧
    (acting → s.msc.state = .safe → exec .haltAsserted s = .next
      (shown .asserted ((level .asserted).postNote .halt 0 1))) ∧
    (acting → exec .haltReleased s = .next (shown .released ((level .released).postNote .halt 0 0))) ∧
    (¬ acting → exec .haltAsserted s = .next (shown .asserted (level .asserted)) ∧
      exec .haltReleased s = .next (shown .released (level .released)))) ∧
  (∀ (s : State) (expiry : Word), s.msc.autoPause = some expiry →
    let t := s.runTo expiry
    let u : State := { t with msc := { s.msc with autoPause := none } }
    (s.msc.state = .pave → s.msc.travelSeen = .live →
      exec .autoPauseTimerExpiry s = .next (u.transition .pause (some .auto) .autoPause)) ∧
    (s.msc.state ≠ .pave ∨ s.msc.travelSeen ≠ .live → exec .autoPauseTimerExpiry s = .next u)) ∧
  (∀ (s : State) (rest : List Waiting), s.FirstWaiting (fun h => h = .advanceToMsc) .advanceToMsc rest →
    let u : State := { s with inbox := rest }
    (s.msc.state = .pave → exec .chainageAdvanceAtMsc s = .next { u with msc := { s.msc with
      autoPause := if s.msc.travelSeen = .live then
        some (s.rif.runTime + BitVec.ofNat 32 (s.settingNat Setting.pauseDelay)) else none } }) ∧
    (s.msc.state = .pause → s.msc.pauseCause = some .auto →
      exec .chainageAdvanceAtMsc s = .next (u.transition .pave none .autoResume)) ∧
    (s.msc.state ≠ .pave → s.msc.state ≠ .pause ∨ s.msc.pauseCause ≠ some .auto →
      exec .chainageAdvanceAtMsc s = .next u))

/-- TRAVEL_STATUS_AT_MSC, REFERENCE_STATUS_AT_MSC and RUN_STATUS_AT_MSC (R1, R7, R14, R17). A travel report is stored, the
timer in PAVE starts at LIVE and stops otherwise, and the modes are recomputed; a reference report recomputes them, a side's
mode from the reference status LVC holds at the moment (log 43); the summary is rewritten where an effective mode changes.
RUNNING with the HALT input asserted is an assertion; STOPPING forces STANDBY but from STANDBY and SAFE; STOPPED is STANDBY
without a transition. -/
def Obligations.ReportsAndRunStatusAtMsc : Prop :=
  ∀ (s : State) (rest : List Waiting),
    let u : State := { s with inbox := rest }
    (∀ status, s.FirstWaiting (fun h => ∃ x, h = .travelToMsc x) (.travelToMsc status) rest →
      let v : State := { u with msc := { s.msc with
        travelSeen := status
        autoPause := if s.msc.state = .pave then
            if status = .live then some (s.rif.runTime + BitVec.ofNat 32 (s.settingNat Setting.pauseDelay)) else none
          else s.msc.autoPause } }
      exec .travelStatusAtMsc s = .next v.recomputeAndShow) ∧
    (∀ side, s.FirstWaiting (fun h => ∃ x, h = .referenceToMsc x) (.referenceToMsc side) rest →
      exec .referenceStatusAtMsc s = .next u.recomputeAndShow) ∧
    (∀ t : State,
      let m : Msc := t.msc.recompute t.lvc.sides.left.status t.lvc.sides.right.status
      let w : State := { t with msc := m, inbox := t.inbox ++ (modeHands t.msc m).map (Waiting.mk false) }
      (modesChanged t.msc m = true → t.recomputeAndShow = w.requestRewrite) ∧
      (modesChanged t.msc m = false → t.recomputeAndShow = w)) ∧
    (∀ status halt, s.FirstWaiting (fun h => ∃ x, h = .runStatus .msc x) (.runStatus .msc status) rest →
      let v : State := { u with msc := { s.msc with runSeen := status } }
      (status = .starting ∨ status = .running ∧ halt = .released → exec (.runStatusAtMsc halt) s = .next v) ∧
      (status = .running → halt = .asserted → ∃ t, exec .haltAsserted v = .next t ∧
        exec (.runStatusAtMsc halt) s = .next t) ∧
      (status = .stopping → s.msc.state = .standby ∨ s.msc.state = .safe →
        exec (.runStatusAtMsc halt) s = .next v) ∧
      (status = .stopping → s.msc.state ≠ .standby → s.msc.state ≠ .safe →
        exec (.runStatusAtMsc halt) s = .next (v.transition .standby none .runStop)) ∧
      (status = .stopped → exec (.runStatusAtMsc halt) s = .next { u with
        msc := { s.msc with runSeen := .stopped, state := .standby, pauseCause := none, autoPause := none }
        inbox := rest ++ [⟨false, .machineToTrm .standby⟩, ⟨false, .machineToFdc .standby⟩] }))

/-- SET_SIDE (R15, R107, R108). The mode, the reference kind and SLOPE_TAKEN are checked in that order. Carried out, a change
of kind ends the pulse, makes a fresh start, discards the round collections and bars the rounds received; a SET_SIDE of a LOST
side that keeps its kind makes a fresh start; a side without members becomes LOST; then the mode is stored, the modes
recomputed and the summary rewritten where either changed, and the order is DONE with the new effective mode, SOFT where it
differs from the mode asked for. The recompute reads the reference status LVC holds at the moment (log 43). SET_FEED (R16,
R152). A mode outside 0..3 is refused RANGE, and with STRICT a demand that would be clamped; else the mode is stored, the
modes recomputed, the manual demand kept at 0..1000 in every mode, and the order is DONE with the new effective mode, LIMIT
for a clamped demand and SOFT for an effective mode other than the one asked for. Where the channel is in effective MANUAL
after the order and not JAMMED, FDC takes in the same event the modes that wait for it, oldest first (log 48), and recomputes,
so that an order which itself brings MANUAL drives its demand at once, from OFF and from an automatic mode alike; a mode that
R5 holds back stays waiting (log 43). -/
def Obligations.SetSideAndSetFeed : Prop :=
  (
  (∀ (s : State) (o : Order), s.orderOf .setSide = some o →
    (o.operandA.toInt < 0 ∨ 2 < o.operandA.toInt ∨ 1 < o.operandB.toNat →
      exec .setSide s = .next (s.finishRefused .range)) ∧
    (∀ mode kind, (o.operandA.toInt, mode) ∈ ([(0, .off), (1, .manual), (2, .auto)] : List (Int × SideMode)) →
      (o.operandB.toNat, kind) ∈ ([(0, .grade), (1, .slope)] : List (Nat × ReferenceKind)) →
      (kind = .slope → (s.lvc.sides.get (otherSide o.side)).kind = .slope →
        exec .setSide s = .next (s.finishRefused .slopeTaken)) ∧
      (kind = .grade ∨ (s.lvc.sides.get (otherSide o.side)).kind = .grade →
        let u := (s.setReference o.side kind).requestSide o.side mode
        let effective := u.msc.sideEffective.get o.side
        exec .setSide s = .next
          (u.finishDone (BitVec.ofNat 32 effective.code) false (decide (effective ≠ mode)) false)))) ∧
  (∀ (s : State) (side : Side) (kind : ReferenceKind),
    let r := s.lvc.sides.get side
    let put (r : SideRecord) : State := { s with lvc := { s.lvc with sides := s.lvc.sides.set side r } }
    (r.kind ≠ kind → s.setReference side kind = State.settleMembers (put { r with
      kind := kind, valve := .idle, pulseEnd := none, waiting := none, lastAverage := none, inUse := [], rebase := 0
      collections := [], roundBar := s.lvc.highestRound }) side) ∧
    (r.kind = kind → r.status = .lost →
      s.setReference side kind = State.settleMembers (put { r with lastAverage := none, inUse := [], rebase := 0 }) side) ∧
    (r.kind = kind → r.status = .ok → s.setReference side kind = s.settleMembers side)) ∧
  (∀ (s : State) (side : Side),
    (s.lvc.members side ≠ [] ∨ (s.lvc.sides.get side).status = .lost → s.settleMembers side = s) ∧
    (s.lvc.members side = [] → (s.lvc.sides.get side).status = .ok →
      s.settleMembers side = State.hand (State.postNote
        { s with lvc := { s.lvc with sides := s.lvc.sides.set side { s.lvc.sides.get side with status := .lost } } }
        .sideHold (sideCode side) 0) (.referenceToMsc side))) ∧
  (∀ (s : State) (side : Side) (mode : SideMode),
    let m : Msc := { s.msc with sideRequested := s.msc.sideRequested.set side mode }
    let n := m.recompute s.lvc.sides.left.status s.lvc.sides.right.status
    let w : State := { s with msc := n, inbox := s.inbox ++ (modeHands s.msc n).map (Waiting.mk false) }
    (s.msc.sideRequested ≠ m.sideRequested ∨ modesChanged s.msc n = true →
      s.requestSide side mode = w.requestRewrite) ∧
    (s.msc.sideRequested = m.sideRequested → modesChanged s.msc n = false → s.requestSide side mode = w))) ∧
  (
  (∀ (s : State) (o : Order), s.orderOf .setFeed = some o →
    let demand := clamp 0 1000 o.operandA.toInt
    (3 < o.operandB.toNat → exec .setFeed s = .next (s.finishRefused .range)) ∧
    (∀ mode, (o.operandB.toNat, mode) ∈
        ([(0, .off), (1, .manual), (2, .autoLevel), (3, .autoFlow)] : List (Nat × FeedMode)) →
      (o.strict = true → demand ≠ o.operandA.toInt → exec .setFeed s = .next (s.finishRefused .range)) ∧
      (o.strict = false ∨ demand = o.operandA.toInt →
        let u := (s.requestFeed o.channel mode).storeManual o.channel demand.toNat
        let effective := u.msc.feedEffective[o.channel]
        exec .setFeed s = .next (u.finishDone (BitVec.ofNat 32 effective.code)
          (decide (demand ≠ o.operandA.toInt)) (decide (effective ≠ mode)) false)))) ∧
  (∀ (s : State) (c : Fin 4) (mode : FeedMode),
    let m : Msc := { s.msc with feedRequested := s.msc.feedRequested.set c mode }
    let n := m.recompute s.lvc.sides.left.status s.lvc.sides.right.status
    let w : State := { s with msc := n, inbox := s.inbox ++ (modeHands s.msc n).map (Waiting.mk false) }
    (s.msc.feedRequested ≠ m.feedRequested ∨ modesChanged s.msc n = true → s.requestFeed c mode = w.requestRewrite) ∧
    (s.msc.feedRequested = m.feedRequested → modesChanged s.msc n = false → s.requestFeed c mode = w)) ∧
  (∀ (s : State) (c : Fin 4) (demand : Nat),
    let t : State := { s with fdc := { s.fdc with
      channels := s.fdc.channels.set c { s.fdc.channels[c] with manual := demand } } }
    let u := t.takeFeedModes c s.inbox.length
    (s.msc.feedEffective[c] = .manual → s.fdc.channels[c].run ≠ .jammed →
      (u.fdc.channels[c].modeSeen = .manual → s.storeManual c demand = u.recomputeDemand c) ∧
      (u.fdc.channels[c].modeSeen ≠ .manual → s.storeManual c demand = u)) ∧
    (s.msc.feedEffective[c] ≠ .manual ∨ s.fdc.channels[c].run = .jammed → s.storeManual c demand = t)) ∧
  (∀ (s : State) (c : Fin 4) (n : Nat),
    let waits (mode : FeedMode) (rest : List Waiting) : Prop :=
      s.FirstWaiting (fun h => ∃ x, h = .feedMode c x) (.feedMode c mode) rest
    s.takeFeedModes c 0 = s ∧
    (∀ mode rest, waits mode rest → ∃ t, exec (.feedModeHandoff c) s = .next t ∧
      s.takeFeedModes c (n + 1) = t.takeFeedModes c n) ∧
    ((∀ mode rest, ¬ waits mode rest) → s.takeFeedModes c n = s)) ∧
  (∀ (s : State) (o : Order), s.orderOf .setFeed = some o → o.operandB.toNat = 1 →
    let c : Fin 4 := Fin.ofNat 4 o.subject.toNat
    let r := s.fdc.channels[c]
    let demand := clamp 0 1000 o.operandA.toInt
    s.msc.state = .heatup ∨ s.msc.state = .pave → o.strict = false ∨ demand = o.operandA.toInt →
    (∀ x ∈ s.inbox, ∀ mode, x.handoff ≠ .feedMode c mode) → r.modeSeen = s.msc.feedEffective[c] →
    (r.modeSeen = .manual → r.run = .running) → r.run ≠ .jammed → r.coupled = false →
    ∃ t, exec .setFeed s = .next t ∧ t.msc.feedEffective[c] = .manual ∧
      t.fdc.channels[c].manual = demand.toNat ∧ t.fdc.channels[c].modeSeen = .manual ∧
      t.fdc.channels[c].run = .running ∧ t.fdc.channels[c].demand = demand.toNat))

/-! ## Settings and pages (03) -/

/-- SET_VALUE, ADJUST_VALUE, SWAP_VALUE and PAVE_ENTRY_AT_SPS (R45 to R48, R50, R51). A STANDBY_ONLY entry outside STANDBY is
refused WRONG_STATE, and with STRICT a value that would be clamped RANGE; else the clamped value is stored, pending for an
AT_PAVE entry in PAVE and PAUSE and in effect otherwise, a changed value in effect is handed on, and the order is DONE with
LIMIT, SOFT and PENDING. The PAVE entry puts every pending AT_PAVE value in effect. -/
def Obligations.ValueOrdersAndPaveEntry : Prop :=
  (∀ (s : State) (o : Order) (c : Instr) (x : Int) (old : Bool),
    let i : SettingId := Fin.ofNat 47 o.subject.toNat
    let e := s.sps.entries[i]
    let latest := e.pending.getD e.value
    (s.orderOf .setValue = some o ∧ c = .setValue ∧ x = o.operandA.toInt ∧ old = false ∨
      s.orderOf .adjustValue = some o ∧ c = .adjustValue ∧ x = latest + o.operandA.toInt ∧ old = false ∨
      s.orderOf .swapValue = some o ∧ c = .swapValue ∧ x = o.operandA.toInt ∧ old = true) →
    let spec := settingSpec i
    let v := max spec.low (min spec.high x)
    let pends := spec.applyClass = .atPave ∧ (s.msc.state = .pave ∨ s.msc.state = .pause)
    let barred := spec.applyClass = .standbyOnly ∧ s.msc.state ≠ .standby
    (barred → exec c s = .next (s.finishRefused .wrongState)) ∧
    (¬ barred → o.strict = true → v ≠ x → exec c s = .next (s.finishRefused .range)) ∧
    (¬ barred → o.strict = false ∨ v = x →
      let soft := match spec.softBand with
        | some (low, high) => decide (v < low ∨ high < v)
        | none => false
      exec c s = .next (State.finishDone
        { s with
          sps := { s.sps with entries := s.sps.entries.set i (if pends then { e with pending := some v } else ⟨v, none⟩) }
          inbox := s.inbox ++
            (if pends then [] else (settingHands i e.value v).map (Waiting.mk false)) }
        (BitVec.ofInt 32 (if old then latest else v)) (decide (v ≠ x)) soft (decide pends)))) ∧
  (∀ (i : SettingId) (old new : Int),
    settingHands i old new = if old = new then [] else if i = 16 ∨ i = 17 then [.budgetSetting]
      else if i = 40 then [.liveStroke] else []) ∧
  (∀ (s : State) (rest : List Waiting), s.FirstWaiting (fun h => h = .paveEntry) .paveEntry rest →
    ∃ entries : Vector SettingEntry 47,
      exec .paveEntryAtSps s = .next { s with
        sps := { s.sps with entries := entries }
        inbox := rest ++ (settingHands 40 s.sps.entries[40].value entries[40].value).map (Waiting.mk false) } ∧
      ∀ i : SettingId,
        (∀ v, s.sps.entries[i].pending = some v → (settingSpec i).applyClass = .atPave → entries[i] = ⟨v, none⟩) ∧
        (s.sps.entries[i].pending = none ∨ (settingSpec i).applyClass ≠ .atPave → entries[i] = s.sps.entries[i]))

/-- READ_VALUE (R49): DONE with the value in effect in every machine state, PENDING exactly where a pending value is held, no
other indicator, the entry as it was, STRICT or not. -/
def Obligations.ReadValue : Prop :=
  ∀ (s : State) (o : Order), s.orderOf .readValue = some o →
    let e := s.sps.entries[(Fin.ofNat 47 o.subject.toNat : SettingId)]
    exec .readValue s = .next (s.finishDone (BitVec.ofInt 32 e.value) false false e.pending.isSome) ∧
    (s.finishDone (BitVec.ofInt 32 e.value) false false e.pending.isSome).sps = s.sps

/-- LOAD_PAGE and IMAGE_READ_DONE (R54, R55). A page other than FILTER outside STANDBY is refused WRONG_STATE, and an image
off a multiple of 8 or outside the region RANGE; else the load record is filled and the order stays in flight. The image read
is refused CHECK where its CRC disagrees, PAGE_CONTENT where its constraints fail, and otherwise replaces the page, sets
VALID, is handed over as newly in force, and the order is DONE with the page's CRC. The load record becomes absent. PATCH_PAGE
(R56, R58). A page other than FILTER outside STANDBY is refused WRONG_STATE, and a field index that is none or a value outside
the field's constraint RANGE; else the field takes operand B little-endian (log 39) and VALID is cleared, a page that was
VALID is handed over as withdrawn, and the order is DONE with the CRC of the patched page. The field indices are R56's with
their places in the image (12.7) and their field constraints of R53. A page newly in force is handed over with the counted
items, the filters or the widths that its bytes hold then, the model's choice (log 46(a)). -/
def Obligations.LoadAndPatchPage : Prop :=
  (
  (∀ (s : State) (o : Order), s.orderOf .loadPage = some o →
    let k := o.page
    let a := o.operandA.toInt
    let placed := 0 ≤ a ∧ a % 8 = 0 ∧ a + (k.bodyLength + 2 : Nat) ≤ 2 ^ 20
    (k ≠ .filter → s.msc.state ≠ .standby → exec .loadPage s = .next (s.finishRefused .wrongState)) ∧
    (k = .filter ∨ s.msc.state = .standby →
      (¬ placed → exec .loadPage s = .next (s.finishRefused .range)) ∧
      (placed → exec .loadPage s = .next { s with
        sps := { s.sps with load := some ⟨k, a.toNat, o.slot⟩ }
        bdr := { s.bdr with execution := s.bdr.execution.map fun e => { e with phase := .inFlight } } }))) ∧
  (∀ (s : State) (host : HostWrites) (l : LoadRecord), s.sps.load = some l →
    let u : State := { s.hostWrite host with sps := { s.sps with load := none } }
    let image := u.regionRead l.offset (l.kind.bodyLength + 2)
    let body := image.take l.kind.bodyLength
    let agrees := (crc16 body).toNat = leNat (image.drop l.kind.bodyLength)
    (¬ agrees → exec (.imageReadDone host) s = .next (u.finishRefused .check)) ∧
    (agrees → pageOk l.kind body = false → exec (.imageReadDone host) s = .next (u.finishRefused .pageContent)) ∧
    (agrees → pageOk l.kind body = true → exec (.imageReadDone host) s = .next (State.finishDone
      { u with sps := u.sps.setPage l.kind ⟨body, true⟩, inbox := s.inbox ++ [⟨false, inForceHand l.kind body⟩] }
      ((crc16 body).zeroExtend 32) false false false)))) ∧
  (
  ∀ (s : State) (o : Order), s.orderOf .patchPage = some o →
    let k := o.page
    let page := s.sps.page k
    let isOpen := k = .filter ∨ s.msc.state = .standby
    (¬ isOpen → exec .patchPage s = .next (s.finishRefused .wrongState)) ∧
    (isOpen → o.operandA.toInt < 0 ∨ patchField k o.operandA.toNat = none →
      exec .patchPage s = .next (s.finishRefused .range)) ∧
    (∀ f, isOpen → 0 ≤ o.operandA.toInt → patchField k o.operandA.toNat = some f →
      (f.ok o.operandB.toNat = false → exec .patchPage s = .next (s.finishRefused .range)) ∧
      (f.ok o.operandB.toNat = true →
        let bytes := page.bytes.take f.offset ++ leBytes f.length o.operandB.toNat ++ page.bytes.drop (f.offset + f.length)
        exec .patchPage s = .next (State.finishDone
          { s with
            sps := s.sps.setPage k ⟨bytes, false⟩
            inbox := s.inbox ++ if page.valid then [⟨false, withdrawnHand k⟩] else [] }
          ((crc16 bytes).zeroExtend 32) false false false)))) ∧
  (
  let names (k : PageKind) (index offset length : Nat) (allowed : Nat → Prop) : Prop :=
    ∃ f, patchField k index = some f ∧ f.offset = offset ∧ f.length = length ∧ ∀ v, f.ok v = true ↔ allowed v
  let width (v : Nat) : Prop := v ≤ 3000 ∧ v % 250 = 0
  names .zoneMap 0 0 1 (fun v => 1 ≤ v ∧ v ≤ 24) ∧ names .headMap 0 0 1 (fun v => 1 ≤ v ∧ v ≤ 16) ∧
  names .geometry 0 0 2 width ∧ names .geometry 1 2 2 width ∧
  (∀ z < 24,
    names .zoneMap (16 * (z + 1)) (4 + 8 * z) 1 (· ≤ 5) ∧
    names .zoneMap (16 * (z + 1) + 1) (8 + 8 * z) 2 (fun v => 500 ≤ v ∧ v ≤ 6000) ∧
    names .zoneMap (16 * (z + 1) + 2) (5 + 8 * z) 1 (· ≤ 23) ∧
    names .zoneMap (16 * (z + 1) + 3) (6 + 8 * z) 1 (· ≤ 23) ∧
    names .zoneMap (16 * (z + 1) + 4) (7 + 8 * z) 1 (· ≤ 23)) ∧
  (∀ h < 16,
    names .headMap (16 * (h + 1)) (4 + 8 * h) 1 (· ≤ 2) ∧
    names .headMap (16 * (h + 1) + 1) (5 + 8 * h) 1 (· ≤ 6) ∧
    names .headMap (16 * (h + 1) + 2) (6 + 8 * h) 1 (fun v => 1 ≤ v ∧ v ≤ 4) ∧
    names .headMap (16 * (h + 1) + 3) (7 + 8 * h) 1 (· ≤ 2) ∧
    names .headMap (16 * (h + 1) + 4) (8 + 8 * h) 1 (· ≤ 4)) ∧
  (∀ n < 8,
    names .filter (16 * (n + 1)) (24 * n) 1 (· ≤ 1) ∧
    names .filter (16 * (n + 1) + 1) (24 * n + 8) 4 (· < 2 ^ 29) ∧
    names .filter (16 * (n + 1) + 2) (24 * n + 12) 4 (· < 2 ^ 29) ∧
    names .filter (16 * (n + 1) + 3) (24 * n + 1) 1 (· ≤ 1) ∧
    names .filter (16 * (n + 1) + 4) (24 * n + 2) 1 (fun v => v ≤ 8 ∨ v = 255) ∧
    names .filter (16 * (n + 1) + 5) (24 * n + 4) 1 (· ≤ 1) ∧
    names .filter (16 * (n + 1) + 6) (24 * n + 16) 4 (fun _ => True) ∧
    names .filter (16 * (n + 1) + 7) (24 * n + 20) 4 (fun _ => True) ∧
    names .filter (16 * (n + 1) + 8) (24 * n + 3) 1 (· ≤ 2)) ∧
  (∀ index,
    (index ≠ 0 → (∀ z f, z < 24 → f ≤ 4 → index ≠ 16 * (z + 1) + f) → patchField .zoneMap index = none) ∧
    (index ≠ 0 → (∀ h f, h < 16 → f ≤ 4 → index ≠ 16 * (h + 1) + f) → patchField .headMap index = none) ∧
    ((∀ n f, n < 8 → f ≤ 8 → index ≠ 16 * (n + 1) + f) → patchField .filter index = none) ∧
    (2 ≤ index → patchField .geometry index = none))) ∧
  (∀ bytes : List Byte,
    let field (offset length : Nat) : Nat := leNat ((bytes.drop offset).take length)
    (pageOk .zoneMap bytes = true → ∃ items, inForceHand .zoneMap bytes = .zoneMapInForce items ∧
      items.length = field 0 1 ∧
      ∀ z item, items[z]? = some item → item.sect.code = field (4 + 8 * z) 1 ∧ item.rating = field (8 + 8 * z) 2 ∧
        item.temperatureInput = field (5 + 8 * z) 1 ∧ item.currentInput = field (6 + 8 * z) 1 ∧
        item.contactorOutput = field (7 + 8 * z) 1) ∧
    (pageOk .headMap bytes = true → ∃ items, inForceHand .headMap bytes = .headMapInForce items ∧
      items.length = field 0 1 ∧
      ∀ h item, items[h]? = some item → item.junction.code = field (4 + 8 * h) 1 ∧ item.port = field (5 + 8 * h) 1 ∧
        item.kind.code = field (6 + 8 * h) 1 ∧
        (match item.side with | some .left => 0 | some .right => 1 | none => 2) = field (7 + 8 * h) 1 ∧
        item.position = field (8 + 8 * h) 1) ∧
    (∃ filters, inForceHand .filter bytes = .filterInForce filters ∧ filters.length = 8 ∧
      ∀ n f, filters[n]? = some f → (f.enabled = true ↔ field (24 * n) 1 = 1) ∧
        (f.extended = true ↔ field (24 * n + 1) 1 = 1) ∧
        f.length = (if field (24 * n + 2) 1 = 255 then none else some (field (24 * n + 2) 1)) ∧
        f.purpose = field (24 * n + 3) 1 ∧ f.identifier.toNat = field (24 * n + 8) 4 ∧ f.mask.toNat = field (24 * n + 12) 4 ∧
        f.dataMask = if field (24 * n + 4) 1 = 1 then some ((bytes.drop (24 * n + 16)).take 8) else none) ∧
    inForceHand .geometry bytes = .geometryInForce (field 0 2) (field 2 2)) ∧
  (withdrawnHand .zoneMap = .zoneMapWithdrawn ∧ withdrawnHand .headMap = .headMapWithdrawn ∧
    withdrawnHand .filter = .filterWithdrawn ∧ withdrawnHand .geometry = .geometryWithdrawn)

/-- CONFIRM_PAGE (R57): in every machine state, PAGE_CONTENT where the page's constraints fail, CHECK where operand B is not
its CRC, VALID untouched by either; else VALID is set, a page not VALID before is handed over as newly in force, and the order
is DONE with the page's CRC. A VALID page that passes changes nothing beyond the outcome. The constraints are R53's, spelled
over the bytes of the image (12.7), a head kind being 1 SONIC, 2 SLOPE, 3 STROKE or 4 SCANNER and a side 0 LEFT, 1 RIGHT or
2 NONE (12.4). -/
def Obligations.ConfirmPage : Prop :=
  ∀ (s : State) (o : Order), s.orderOf .confirmPage = some o →
    let k := o.page
    let page := s.sps.page k
    let crc := crc16 page.bytes
    (pageOk k page.bytes = false → exec .confirmPage s = .next (s.finishRefused .pageContent)) ∧
    (pageOk k page.bytes = true → o.operandB.toNat ≠ crc.toNat → exec .confirmPage s = .next (s.finishRefused .check)) ∧
    (pageOk k page.bytes = true → o.operandB.toNat = crc.toNat →
      (page.valid = true → exec .confirmPage s = .next (s.finishDone (crc.zeroExtend 32) false false false)) ∧
      (page.valid = false → exec .confirmPage s = .next (State.finishDone
        { s with
          sps := s.sps.setPage k ⟨page.bytes, true⟩, inbox := s.inbox ++ [⟨false, inForceHand k page.bytes⟩] }
        (crc.zeroExtend 32) false false false))) ∧
    (∀ reason, (s.finishRefused reason).sps = s.sps) ∧
    ∀ bytes : List Byte,
      let field (offset length : Nat) : Nat := leNat ((bytes.drop offset).take length)
      let count := field 0 1
      (pageOk .zoneMap bytes = true ↔ 1 ≤ count ∧ count ≤ 24 ∧
        (∀ z < count, field (4 + 8 * z) 1 ≤ 5 ∧ field (5 + 8 * z) 1 ≤ 23 ∧ field (6 + 8 * z) 1 ≤ 23 ∧
          field (7 + 8 * z) 1 ≤ 23 ∧ 500 ≤ field (8 + 8 * z) 2 ∧ field (8 + 8 * z) 2 ≤ 6000) ∧
        ∀ y z, y < count → z < count → field (7 + 8 * y) 1 = field (7 + 8 * z) 1 → y = z) ∧
      (let kind (h : Nat) := field (6 + 8 * h) 1
       let side (h : Nat) := field (7 + 8 * h) 1
       let heads (k x : Nat) : List Nat := (List.range count).filter fun h => kind h == k && side h == x
       pageOk .headMap bytes = true ↔ 1 ≤ count ∧ count ≤ 16 ∧
        (∀ h < count, field (4 + 8 * h) 1 ≤ 2 ∧ field (5 + 8 * h) 1 ≤ 6 ∧ 1 ≤ kind h ∧ kind h ≤ 4 ∧ side h ≤ 2 ∧
          field (8 + 8 * h) 1 ≤ 4 ∧ (kind h = 1 ∨ kind h = 3 → side h ≤ 1) ∧ (kind h = 2 ∨ kind h = 4 → side h = 2)) ∧
        (∀ g h, g < count → h < count → field (4 + 8 * g) 1 = field (4 + 8 * h) 1 →
          field (5 + 8 * g) 1 = field (5 + 8 * h) 1 → g = h) ∧
        (∀ x ≤ 1, (heads 1 x).length ≤ 5 ∧ (heads 3 x).length ≤ 1 ∧
          ∀ g ∈ heads 1 x, ∀ h ∈ heads 1 x, field (8 + 8 * g) 1 = field (8 + 8 * h) 1 → g = h) ∧
        (heads 2 2).length ≤ 1 ∧ (heads 4 2).length ≤ 1) ∧
      (pageOk .filter bytes = true ↔ ∀ n < 8, field (24 * n) 1 ≤ 1 ∧ field (24 * n + 1) 1 ≤ 1 ∧
        (field (24 * n + 2) 1 ≤ 8 ∨ field (24 * n + 2) 1 = 255) ∧ field (24 * n + 3) 1 ≤ 2 ∧ field (24 * n + 4) 1 ≤ 1 ∧
        field (24 * n + 8) 4 < 2 ^ 29 ∧ field (24 * n + 12) 4 < 2 ^ 29 ∧
        (field (24 * n + 1) 1 = 0 → field (24 * n + 8) 4 < 2 ^ 11 ∧ field (24 * n + 12) 4 < 2 ^ 11)) ∧
      (pageOk .geometry bytes = true ↔ ∀ x, x = field 0 2 ∨ x = field 2 2 → x ≤ 3000 ∧ x % 250 = 0)

/-! ## Travel and the machine bus (04) -/

/-- GOOD_FRAME (R59 to R62, R66 to R71, R73, R75, R76). Frames are taken only in LISTENING while the run status seen is
RUNNING or STOPPING; a good frame lowers the error counter by 1 unless it is 0. A remote frame and an unmatched one do no
more; a TRAVEL frame of 5 bytes restores travel and goes through the step rules; a GENERATOR frame of 2 bytes is recorded and
handed to HTC; a CONSOLE_MARK frame of 2 bytes is handed to MRU; shorter ones do no more. -/
def Obligations.GoodFrame : Prop :=
  (∀ (s : State) (f : Frame),
    let taken := (s.trm.runSeen = .running ∨ s.trm.runSeen = .stopping) ∧ s.trm.busState = .listening
    let u : State := { s with trm := { s.trm with errorCounter := s.trm.errorCounter - 1 } }
    (¬ taken → exec (.goodFrame f) s = .next s) ∧
    (taken →
      (f.remote = true → exec (.goodFrame f) s = .next u) ∧
      (f.remote = false →
        (s.trm.match f ≠ some 0 → s.trm.match f ≠ some 1 → s.trm.match f ≠ some 2 → exec (.goodFrame f) s = .next u) ∧
        (s.trm.match f = some 0 → 5 ≤ f.data.length → exec (.goodFrame f) s = .next
          (u.travelSeen.travelStep (BitVec.ofNat 16 (leNat (f.data.take 2))) (leNat ((f.data.drop 2).take 1) == 0)
            (BitVec.ofNat 16 (leNat ((f.data.drop 3).take 2))))) ∧
        (s.trm.match f = some 0 → f.data.length < 5 → exec (.goodFrame f) s = .next u) ∧
        (s.trm.match f = some 1 ∨ s.trm.match f = some 2 → f.data.length < 2 → exec (.goodFrame f) s = .next u) ∧
        (s.trm.match f = some 1 → 2 ≤ f.data.length →
          let report : PowerReport := ⟨leNat (f.data.take 2), s.rif.runTime⟩
          exec (.goodFrame f) s = .next { u with
            trm := { u.trm with generator := some report }
            inbox := s.inbox ++ [⟨false, .generatorReport report⟩] }) ∧
        (s.trm.match f = some 2 → 2 ≤ f.data.length → exec (.goodFrame f) s = .next { u with
          inbox := s.inbox ++
            [⟨false, .consoleMark (BitVec.ofNat 16 (leNat (f.data.take 2))) s.rif.runTime s.trm.chainage⟩] })))) ∧
  (∀ (t : Trm) (f : Frame),
    (t.filterUse = none → t.match f = none) ∧
    (∀ fs, t.filterUse = some fs →
      ((∀ x ∈ fs, x.accepts f = false) → t.match f = none) ∧
      (∀ before x after, fs = before ++ x :: after → (∀ y ∈ before, y.accepts f = false) → x.accepts f = true →
        t.match f = some x.purpose))) ∧
  (∀ (x : Filter) (f : Frame), x.accepts f = true ↔
    x.enabled = true ∧ (∀ i < 32, x.mask.getLsbD i = true → f.identifier.getLsbD i = x.identifier.getLsbD i) ∧
    f.extended = x.extended ∧ (∀ n, x.length = some n → f.data.length = n) ∧
    (∀ m : List Byte, x.dataMask = some m → ∃ (i : Nat) (d k : Byte), f.data[i]? = some d ∧ m[i]? = some k ∧ d &&& k ≠ 0))

/-- What a TRAVEL frame does (R68 to R71, R73): the travel timer restarts, travel becomes LIVE and is reported, after SILENT
or LOST with TRAVEL_RESTORED before the report (R68 gives the two no order: the model's choice, log 11). A report made for an
event of TRM that found its record at `old` goes out once the fields are set: a new bus state to RIF, a new travel status to
MSC, MRU and RIF (R59). Then the step rules: no last count, a reverse frame, a bad step, a step of 0 and a step of 1 to
MAX_STEP, applied in PAVE and PAUSE with the chainage saturating and handed to BDR, MRU and MSC. -/
def Obligations.TravelFrameSteps : Prop :=
  (∀ s : State,
    let period := s.settingNat Setting.travelTimeout
    let u : State := { s with trm := { s.trm with
      travel := .live, travelTimer := some ⟨s.rif.runTime + BitVec.ofNat 32 period, period⟩, outageStart := none } }
    (s.trm.travel = .live ∨ s.trm.travel = .none ∨ s.trm.outageStart = none → s.travelSeen = u.reportTravel s.trm) ∧
    (∀ start, s.trm.travel = .silent ∨ s.trm.travel = .lost → s.trm.outageStart = some start →
      s.travelSeen = (u.postNote .travelRestored 0 (s.rif.runTime - start)).reportTravel s.trm)) ∧
  (∀ (s : State) (old : Trm),
    let told (s : State) : State := { s with
      inbox := s.inbox ++ [⟨false, .travelToMsc s.trm.travel⟩, ⟨false, .travelToMru s.trm.travel⟩] }
    (s.trm.busState = old.busState → s.trm.travel = old.travel → s.reportTravel old = s) ∧
    (s.trm.busState ≠ old.busState → s.trm.travel = old.travel → s.reportTravel old = s.requestRewrite) ∧
    (s.trm.busState = old.busState → s.trm.travel ≠ old.travel → s.reportTravel old = (told s).requestRewrite) ∧
    (s.trm.busState ≠ old.busState → s.trm.travel ≠ old.travel →
      s.reportTravel old = (told s.requestRewrite).requestRewrite)) ∧
  (∀ (s : State) (speed : Half),
    (s.trm.speed = speed → s.setSpeed speed = s) ∧
    (s.trm.speed ≠ speed → s.setSpeed speed = { s with
      trm := { s.trm with speed := speed }, inbox := s.inbox ++ [⟨false, .speedToFdc speed.toNat⟩] })) ∧
  (∀ (s : State) (count speed : Half) (forward : Bool),
    let u : State := { s with trm := { s.trm with lastCount := some count } }
    (s.trm.lastCount = none → s.travelStep count forward speed = u) ∧
    (∀ last, s.trm.lastCount = some last →
      let step := (count - last).toNat
      (forward = false → s.travelStep count forward speed = u.setSpeed 0) ∧
      (forward = true → s.settingNat Setting.maxStep < step →
        (s.trm.badStepReported = true → s.travelStep count forward speed = u) ∧
        (s.trm.badStepReported = false →
          let v := u.postNote .badStep 0 (BitVec.ofNat 32 step)
          s.travelStep count forward speed = { v with trm := { v.trm with badStepReported := true } })) ∧
      (forward = true → step ≤ s.settingNat Setting.maxStep →
        let v : State := { u.setSpeed speed with trm := { (u.setSpeed speed).trm with badStepReported := false } }
        let c := BitVec.ofNat 32 (min (s.trm.chainage.toNat + step) 0xFFFFFFFF)
        (step = 0 ∨ c = s.trm.chainage ∨ s.trm.machineSeen ≠ .pave ∧ s.trm.machineSeen ≠ .pause →
          s.travelStep count forward speed = v) ∧
        (step ≠ 0 → c ≠ s.trm.chainage → s.trm.machineSeen = .pave ∨ s.trm.machineSeen = .pause →
          s.travelStep count forward speed = { v with
            trm := { v.trm with chainage := c }
            inbox := v.inbox ++ [⟨false, .chainageToBdr c⟩, ⟨false, .advanceToMru c⟩, ⟨false, .advanceToMsc⟩] }))))

/-- BUS_ERROR and TRAVEL_TIMER_EXPIRY (R62, R63, R72). An error raises the counter; one that finds it at 31 makes the bus
UNRELIABLE and travel LOST, the outage start of a SILENT kept, and notes BUS_UNRELIABLE with the travel status before. The
timer's expiry makes LIVE travel SILENT from that run time, speed 0, the last count absent, and notes TRAVEL_SILENT with the
timeout the timer ran for. Each sets its fields, then notes, then reports, so that no summary shows a part of the event.
REARM_BUS (R64) in every machine state: the error counter becomes 0 and is the result; a LISTENING bus stays so, and so does an
IDLE one, which is the model's choice (log 44); an UNRELIABLE bus becomes LISTENING, reported, and LOST travel SILENT,
reported, the outage start and the stopped timer as they were. An expiry command brings time to the timer's expiry, which is
the model's choice (log 2). -/
def Obligations.BusErrorTravelTimerAndRearm : Prop :=
  (
  (∀ s : State,
    let taken := (s.trm.runSeen = .running ∨ s.trm.runSeen = .stopping) ∧ s.trm.busState = .listening
    (¬ taken → exec .busError s = .next s) ∧
    (taken → s.trm.errorCounter < 31 → exec .busError s = .next
      { s with trm := { s.trm with errorCounter := s.trm.errorCounter + 1 } }) ∧
    (taken → 31 ≤ s.trm.errorCounter →
      let u : State := { s with trm := { s.trm with
        busState := .unreliable, errorCounter := 32, travel := .lost, travelTimer := none, lastCount := none
        badStepReported := false
        outageStart := if s.trm.travel = .silent ∨ s.trm.travel = .lost then s.trm.outageStart else some s.rif.runTime } }
      exec .busError s = .next
        (((u.postNote .busUnreliable 0 (BitVec.ofNat 32 s.trm.travel.code)).reportTravel s.trm).setSpeed 0))) ∧
  (∀ (s : State) (timer : TravelTimer), s.trm.travelTimer = some timer →
    let t := s.runTo timer.expiry
    (s.trm.travel = .live → exec .travelTimerExpiry s = .next
      (((State.postNote { t with trm := { s.trm with
          travel := .silent, travelTimer := none, lastCount := none, badStepReported := false
          outageStart := some timer.expiry } }
        .travelSilent 0 (BitVec.ofNat 32 timer.period)).reportTravel s.trm).setSpeed 0)) ∧
    (s.trm.travel ≠ .live → exec .travelTimerExpiry s = .next { t with trm := { s.trm with travelTimer := none } }))) ∧
  (
  ∀ (s : State) (o : Order), s.orderOf .rearmBus = some o →
    let result := BitVec.ofNat 32 s.trm.errorCounter
    (s.trm.busState ≠ .unreliable → exec .rearmBus s = .next
      (State.finishDone { s with trm := { s.trm with errorCounter := 0 } } result false false false)) ∧
    (s.trm.busState = .unreliable → s.trm.travel = .lost → exec .rearmBus s = .next
      (State.finishDone (State.reportTravel
        { s with trm := { s.trm with errorCounter := 0, busState := .listening, travel := .silent } } s.trm)
        result false false false)))

/-- SET_CHAINAGE (R74): WRONG_STATE while the machine state seen is PAVE or PAUSE, STAGED_PENDING while an order is staged;
else chainage becomes operand B, BDR is told, MRU and MSC are not, the last count, travel and speed stay, and the order is
DONE with the chainage before. MACHINE_STATE_AT_TRM, FILTER_HANDOFF and RUN_STATUS_AT_TRM (R60, R61, R65). The state seen is
copied; filter use becomes the eight filters in force or none; STARTING makes an IDLE bus LISTENING, travel NONE or, on an
UNRELIABLE bus, LOST from run time 0, and hands HTC the absence of a report; STOPPED stops the timer, forgets the last count
(R70: and bad step reported) and makes travel other than LOST NONE. That SET_CHAINAGE's own outcome is made with the chainage
BDR has seen before it is log 46(b), and that the outage start is kept at STOPPED is log 42: the model's choices. -/
def Obligations.SetChainageAndHandoffsAtTrm : Prop :=
  (
  ∀ (s : State) (o : Order), s.orderOf .setChainage = some o →
    let paving := s.trm.machineSeen = .pave ∨ s.trm.machineSeen = .pause
    (paving → exec .setChainage s = .next (s.finishRefused .wrongState)) ∧
    (¬ paving → s.bdr.staging ≠ [] → exec .setChainage s = .next (s.finishRefused .stagedPending)) ∧
    (¬ paving → s.bdr.staging = [] → exec .setChainage s = .next (State.finishDone
      { s with
        trm := { s.trm with chainage := o.operandB }, inbox := s.inbox ++ [⟨false, .chainageToBdr o.operandB⟩] }
      s.trm.chainage false false false))) ∧
  (
  ∀ (s : State) (rest : List Waiting),
    let u : State := { s with inbox := rest }
    (∀ state, s.FirstWaiting (fun h => ∃ x, h = .machineToTrm x) (.machineToTrm state) rest →
      exec .machineStateAtTrm s = .next { u with trm := { s.trm with machineSeen := state } }) ∧
    (∀ filters, s.FirstWaiting (fun h => (∃ x, h = .filterInForce x) ∨ h = .filterWithdrawn) (.filterInForce filters) rest →
      exec .filterHandoff s = .next { u with trm := { s.trm with filterUse := some filters } }) ∧
    (s.FirstWaiting (fun h => (∃ x, h = .filterInForce x) ∨ h = .filterWithdrawn) .filterWithdrawn rest →
      exec .filterHandoff s = .next { u with trm := { s.trm with filterUse := none } }) ∧
    (∀ status, s.FirstWaiting (fun h => ∃ x, h = .runStatus .trm x) (.runStatus .trm status) rest →
      (status = .running ∨ status = .stopping →
        exec .runStatusAtTrm s = .next { u with trm := { s.trm with runSeen := status } }) ∧
      (status = .starting →
        let lost := s.trm.busState = .unreliable
        let fresh : Trm := { s.trm with
          runSeen := .starting, travelTimer := none, generator := none, lastCount := none, badStepReported := false
          busState := if lost then .unreliable else .listening
          travel := if lost then .lost else .none
          outageStart := if lost then some 0 else none }
        exec .runStatusAtTrm s = .next (State.hand
          ((State.reportTravel { u with trm := fresh } s.trm).setSpeed 0) .generatorAbsence)) ∧
      (status = .stopped →
        let v : State := { u with trm := { s.trm with
          runSeen := .stopped, travelTimer := none, lastCount := none, badStepReported := false
          travel := if s.trm.travel = .lost then .lost else .none } }
        exec .runStatusAtTrm s = .next ((v.reportTravel s.trm).setSpeed 0))))

/-- R71: no command lowers the chainage but SET_CHAINAGE and the two resets. -/
def Obligations.ChainageNeverFalls : Prop :=
  ∀ (c : Instr) (s t : State), exec c s = .next t → c ≠ .setChainage → c ≠ .powerOnReset → (∀ v, c ≠ .softReset v) →
    s.trm.chainage ≤ t.trm.chainage

/-! ## The head link (05) -/

/-- QUIET_INTERVAL_END and CHARACTER_TIMEOUT (R77 to R79, R82, R85, R89, R92 to R95). The chosen request's transaction begins:
the junction's next step, SET_MODE, CLEAR or JSTATUS at port 7, a probe's SET_MODE to the target mode, a confirming STATUS of
an UNCONFIRMED head in place of its READING, a head probe's STATUS, the scanner's command whatever has become of the scanner's
state since it was chosen (log 43(i)); the mode expected is the mode seen at that moment. The part sends SELECT and, after an
ACK it accepts, the command and a write's data, with the check in checked mode, every character in odd parity. A character
that does not begin ends the transaction TIMEOUT, judged by its request; one begun before the head table was rebuilt only
frees the line, a scanner's being answered as failed (log 17). The scheduler then chooses again. The codes of the
commands and of the answers are those of 12.8; a character in error carries no answer, which is log 16's choice. -/
def Obligations.LinkTransactionsBegin : Prop :=
  (∀ (s : State) (r : LinkRequest), s.hlc.line = .quiet r →
    (∀ t, s.transactionOf r = some t →
      exec .quietIntervalEnd s = .next { s with hlc := { s.hlc with line := .busy t } }) ∧
    (s.transactionOf r = none →
      exec .quietIntervalEnd s = .next (State.schedule { s with hlc := { s.hlc with line := .free } }))) ∧
  (∀ (s : State) (t : Transaction), s.hlc.line = .busy t →
    let u : State := { s with hlc := { s.hlc with line := .free } }
    (t.stale = false →
      (∀ j, t.request = .step j →
        exec .characterTimeout s = .next (u.housekeepingStep t j .timeout []).schedule) ∧
      (∀ j, t.request = .orderedProbe j ∨ t.request = .junctionProbe j →
        exec .characterTimeout s = .next (u.junctionProbed t j .timeout).schedule) ∧
      (∀ i, t.request = .headProbe i →
        exec .characterTimeout s = .next (u.headProbeEnds i t .timeout []).schedule) ∧
      (∀ i, t.request = .member i ∨ t.request = .stroke i ∨ t.request = .scannerStatus i ∨
          (∃ ask, t.request = .scanner i ask) →
        exec .characterTimeout s = .next (u.headEnds i t .timeout []).schedule)) ∧
    (t.stale = true →
      (∀ i ask, t.request = .scanner i ask → exec .characterTimeout s = .next
        (State.schedule { u with inbox := s.inbox ++ [⟨false, .scannerAnswer .failed s.hlc.scannerState⟩] })) ∧
      ((∀ i ask, t.request ≠ .scanner i ask) → exec .characterTimeout s = .next u.schedule))) ∧
  (∀ (s : State) (j : JunctionId),
    let r := s.hlc.junction j
    let issue (request : LinkRequest) (command : LinkCommand) (payload : List Byte) : Option Transaction :=
      some ⟨request, s.hlc.roundNumber, j, 7, command, payload, r.modeSeen, false⟩
    let target : List Byte := [if s.sps.entries[(43 : SettingId)].value = 1 then 1 else 0]
    s.transactionOf (.junctionProbe j) = issue (.junctionProbe j) .setMode target ∧
    s.transactionOf (.orderedProbe j) = issue (.orderedProbe j) .setMode target ∧
    (∀ kind, r.sequence = some ⟨kind, .setMode⟩ → s.transactionOf (.step j) = issue (.step j) .setMode target) ∧
    (∀ kind, r.sequence = some ⟨kind, .clear⟩ → s.transactionOf (.step j) = issue (.step j) .clear [0]) ∧
    (∀ kind, r.sequence = some ⟨kind, .jstatus⟩ → s.transactionOf (.step j) = issue (.step j) .jstatus [])) ∧
  (∀ (s : State) (i : Nat) (x : Head), s.hlc.heads[i]? = some x →
    let issue (r : LinkRequest) (command : LinkCommand) (payload : List Byte) : Option Transaction :=
      some ⟨r, s.hlc.roundNumber, x.junction, x.port, command, payload, (s.hlc.junction x.junction).modeSeen, false⟩
    let poll := if x.state = .unconfirmed then LinkCommand.status else .reading
    s.transactionOf (.member i) = issue (.member i) poll [] ∧ s.transactionOf (.stroke i) = issue (.stroke i) poll [] ∧
    s.transactionOf (.headProbe i) = issue (.headProbe i) .status [] ∧
    s.transactionOf (.scannerStatus i) = issue (.scannerStatus i) .status [] ∧
    s.transactionOf (.scanner i .line) = issue (.scanner i .line) .line [] ∧
    s.transactionOf (.scanner i .trigger) = issue (.scanner i .trigger) .trigger [0] ∧
    s.transactionOf (.scanner i .reference) = issue (.scanner i .reference) .reference [0]) ∧
  (∀ (t : Transaction) (received : List LinkChar),
    let reading : Bool := t.command == .reading || t.command == .status || t.command == .line || t.command == .jstatus
    let select : Byte := BitVec.ofNat 8 (t.junction.code * 64 + t.port * 8 + if reading then 4 else 0)
    let command : Byte := BitVec.ofNat 8 t.command.code
    let accepted (mode : LinkMode) : Prop := t.command = .setMode ∨ t.expected = some mode
    let acked (mode : LinkMode) : Prop := ∃ c rest, received = c :: rest ∧
      charAnswer c = some (if mode = .plain then .ackPlain else .ackChecked)
    (∀ mode, acked mode → accepted mode → reading = true →
      t.sends received = [select, command].map sentChar) ∧
    (acked .plain → accepted .plain → reading = false →
      t.sends received = ([select, command] ++ t.payload).map sentChar) ∧
    (acked .checked → accepted .checked → reading = false →
      t.sends received =
        ([select, command] ++ t.payload ++ [crc8 ([select, command] ++ t.payload)]).map sentChar) ∧
    ((∀ mode, acked mode → ¬ accepted mode) → t.sends received = [sentChar select])) ∧
  (∀ b : Byte, (sentChar b).data = b ∧ charGood (sentChar b) = true) ∧
  ([LinkCommand.reading, .status, .trigger, .line, .reference, .clear, .setMode, .jstatus].map LinkCommand.code =
    [0x01, 0x02, 0x03, 0x04, 0x05, 0x10, 0x11, 0x12]) ∧
  (∀ (c : LinkChar) (a : Answer), charAnswer c = some a ↔ charGood c = true ∧
    (c.data, a) ∈ ([(0x21, .ackPlain), (0x22, .ackChecked), (0x41, .nakEmpty), (0x42, .nakLatched)] :
      List (Byte × Answer)))

/-- HOUSEKEEPING_END, JUNCTION_PROBE_END, HEAD_TRANSACTION_END and HEAD_PROBE_END (R78, R79, R83 to R85, R90, R92): the
outcome is that of the first row of R79 that applies, the transaction is judged by its request, and the scheduler chooses
again. An answer in error or that is no answer is a CHAR_ERROR and a transaction begun before the head table was rebuilt only
frees the line (log 16, log 17). A READING brings 3 data characters, a STATUS 2, a LINE 128 and a JSTATUS 1, and every other
command writes. The check of the head link is the CRC-8 of the SELECT, the command and the data, in line order. R173's two check
codes: bits most significant first, CRC-16 with polynomial 0x1021 from 0xFFFF and CRC-8 with 0x07 from 0; over the string
"123456789" they give 0x29B1 and 0xF4. -/
def Obligations.LinkTransactionsEnd : Prop :=
  (∀ (s : State) (t : Transaction) (received : List LinkChar) (outcome : TxOutcome) (data : List Byte),
    s.hlc.line = .busy t → t.judge received = (outcome, data) →
    let u : State := { s with hlc := { s.hlc with line := .free } }
    (t.stale = false →
      (∀ j, t.request = .step j →
        exec (.housekeepingEnd received) s = .next (u.housekeepingStep t j outcome data).schedule) ∧
      (∀ j, t.request = .orderedProbe j ∨ t.request = .junctionProbe j →
        exec (.junctionProbeEnd received) s = .next (u.junctionProbed t j outcome).schedule) ∧
      (∀ i, t.request = .headProbe i →
        exec (.headProbeEnd received) s = .next (u.headProbeEnds i t outcome data).schedule) ∧
      (∀ i, t.request = .member i ∨ t.request = .stroke i ∨ t.request = .scannerStatus i ∨
          (∃ ask, t.request = .scanner i ask) →
        exec (.headTransactionEnd received) s = .next (u.headEnds i t outcome data).schedule)) ∧
    (t.stale = true →
      (∀ j, t.request = .step j → exec (.housekeepingEnd received) s = .next u.schedule) ∧
      (∀ j, t.request = .orderedProbe j ∨ t.request = .junctionProbe j →
        exec (.junctionProbeEnd received) s = .next u.schedule) ∧
      (∀ i, t.request = .headProbe i → exec (.headProbeEnd received) s = .next u.schedule) ∧
      (∀ i, t.request = .member i ∨ t.request = .stroke i ∨ t.request = .scannerStatus i →
        exec (.headTransactionEnd received) s = .next u.schedule) ∧
      (∀ i ask, t.request = .scanner i ask →
        exec (.headTransactionEnd received) s = .next (u.answerScanner .failed).schedule))) ∧
  (∀ t : Transaction,
    t.judge [] = (.timeout, []) ∧
    (∀ c rest,
      (charAnswer c = none → t.judge (c :: rest) = (.charError, [])) ∧
      (charAnswer c = some .nakLatched → t.judge (c :: rest) = (.nakLatched, [])) ∧
      (charAnswer c = some .nakEmpty → t.judge (c :: rest) = (.nakEmpty, [])) ∧
      (∀ mode, (charAnswer c, mode) ∈
          ([(some .ackPlain, .plain), (some .ackChecked, .checked)] : List (Option Answer × LinkMode)) →
        (t.command ≠ .setMode → t.expected ≠ some mode → t.judge (c :: rest) = (.modeMismatch, [])) ∧
        (t.command = .setMode ∨ t.expected = some mode →
          let n := t.command.readLength
          let all := if mode = .checked then n + 1 else n
          let data := (rest.take n).map (·.data)
          (n = 0 → t.judge (c :: rest) = (.good, [])) ∧
          (0 < n → rest.length < all → t.judge (c :: rest) = (.timeout, [])) ∧
          (0 < n → all ≤ rest.length → (∃ x ∈ rest.take all, charGood x = false) →
            t.judge (c :: rest) = (.charError, [])) ∧
          (0 < n → (∀ x ∈ rest.take all, charGood x = true) →
            (∀ check, mode = .checked → rest[n]? = some check →
              t.judge (c :: rest) =
                if check.data = t.check data then (.good, data) else (.charError, [])) ∧
            (mode = .plain → n ≤ rest.length → t.judge (c :: rest) = (.good, data))))))) ∧
  (∀ c : LinkChar, charGood c = true ↔
    c.stop = true ∧ ((List.range 8).countP (fun i => c.data.getLsbD i) + c.parity.toNat) % 2 = 1) ∧
  ([LinkCommand.reading, .status, .trigger, .line, .reference, .clear, .setMode, .jstatus].map LinkCommand.readLength =
    [3, 2, 0, 128, 0, 0, 0, 1]) ∧
  (∀ (t : Transaction) (data : List Byte),
    let reading : Bool := t.command == .reading || t.command == .status || t.command == .line || t.command == .jstatus
    let select : Byte := BitVec.ofNat 8 (t.junction.code * 64 + t.port * 8 + if reading then 4 else 0)
    t.check data = crc8 ([select, BitVec.ofNat 8 t.command.code] ++ data)) ∧
  (crc16 [] = 0xFFFF ∧ crc8 [] = 0 ∧
    (∀ (bs : List Byte) (b : Byte),
      crc16 (bs ++ [b]) = (List.range 8).foldl
        (fun (c : Half) _ => if c.getLsbD 15 = true then (c <<< 1) ^^^ 0x1021 else c <<< 1)
        (crc16 bs ^^^ (b.zeroExtend 16 <<< 8)) ∧
      crc8 (bs ++ [b]) = (List.range 8).foldl
        (fun (c : Byte) _ => if c.getLsbD 7 = true then (c <<< 1) ^^^ 0x07 else c <<< 1) (crc8 bs ^^^ b)) ∧
    (let digits : List Byte := [0x31, 0x32, 0x33, 0x34, 0x35, 0x36, 0x37, 0x38, 0x39]
     crc16 digits = 0x29B1 ∧ crc8 digits = 0xF4))

/-- The junctions' sequences (R83 to R85). A SET_MODE that ends GOOD sets mode seen and a CLEAR follows; a CLEAR ends a
RECOVER and is followed by a JSTATUS in a SYNC; a JSTATUS with the mode seen and a clear latch ends the SYNC; a failure raises
failures and begins the sequence again, as SYNC where the mode was wrong, and the third makes the junction DOWN. A head
transaction through a READY junction latches it or resynchronises it. A GOOD probe restores a DOWN junction; a probe that ends
when its junction is no longer DOWN changes nothing (log 18), and neither does a GOOD step of a sequence begun again since
whose command is not that of the present step, while one whose command is counts as it (log 17). Class 1 holds one step for
each junction. -/
def Obligations.JunctionSequences : Prop :=
  (∀ (s : State) (t : Transaction) (j : JunctionId) (q : LinkSequence) (data : List Byte),
    (s.hlc.junction j).sequence = some q →
    let r := s.hlc.junction j
    let put (r : Junction) : Hlc := s.hlc.setJunction j r
    let ready : State := { s with hlc := put { r with state := .ready, failures := 0, sequence := none } }
    let stepCommand : LinkCommand := match q.step with | .setMode => .setMode | .clear => .clear | .jstatus => .jstatus
    let mode : LinkMode := if leNat (t.payload.take 1) = 1 then .checked else .plain
    let shown : LinkMode := if (leNat (data.take 1)).testBit 0 then .checked else .plain
    (∀ outcome, outcome ≠ .good → s.housekeepingStep t j outcome data =
      s.junctionFails j outcome.code (outcome == .modeMismatch)) ∧
    (t.command ≠ stepCommand → s.housekeepingStep t j .good data = s) ∧
    (q.step = .setMode → t.command = .setMode → s.housekeepingStep t j .good data =
      { s with hlc := Hlc.queueStep (put { r with modeSeen := some mode, sequence := some ⟨q.kind, .clear⟩ }) j }) ∧
    (q.step = .clear → t.command = .clear → q.kind = .recover → s.housekeepingStep t j .good data = ready) ∧
    (q.step = .clear → t.command = .clear → q.kind = .sync → s.housekeepingStep t j .good data =
      { s with hlc := Hlc.queueStep (put { r with sequence := some ⟨.sync, .jstatus⟩ }) j }) ∧
    (q.step = .jstatus → t.command = .jstatus →
      (r.modeSeen ≠ some shown → s.housekeepingStep t j .good data = s.junctionFails j 6 true) ∧
      (r.modeSeen = some shown → (leNat (data.take 1)).testBit 1 = true →
        s.housekeepingStep t j .good data = s.junctionFails j 6 false) ∧
      (r.modeSeen = some shown → (leNat (data.take 1)).testBit 1 = false →
        s.housekeepingStep t j .good data = ready))) ∧
  (∀ (s : State) (j : JunctionId) (code : Nat) (wrongMode : Bool),
    let r := s.hlc.junction j
    (2 ≤ r.failures → s.junctionFails j code wrongMode = State.postNote
      { s with hlc := { (s.hlc.setJunction j ⟨.down, 3, r.modeSeen, none, some s.rif.runTime⟩) with
        housekeeping := s.hlc.housekeeping.filter (· != .step j) } }
      .junctionDown j.code (BitVec.ofNat 32 code)) ∧
    (r.failures < 2 → wrongMode = true → s.junctionFails j code wrongMode =
      { s with hlc := Hlc.queueStep (s.hlc.setJunction j { r with
        failures := r.failures + 1, state := .resync, sequence := some ⟨.sync, .setMode⟩ }) j }) ∧
    (∀ q, r.failures < 2 → wrongMode = false → r.sequence = some q → s.junctionFails j code wrongMode =
      { s with hlc := Hlc.queueStep (s.hlc.setJunction j { r with
        failures := r.failures + 1, sequence := some ⟨q.kind, if q.kind = .sync then .setMode else .clear⟩ }) j })) ∧
  (∀ (s : State) (j : JunctionId) (outcome : TxOutcome),
    ((s.hlc.junction j).state ≠ .ready ∨ outcome = .good ∨ outcome = .nakEmpty → s.headJunction j outcome = s) ∧
    ((s.hlc.junction j).state = .ready →
      (outcome = .timeout ∨ outcome = .charError ∨ outcome = .nakLatched → s.headJunction j outcome =
        { s with hlc := Hlc.queueStep (s.hlc.setJunction j { s.hlc.junction j with
          state := .latched, sequence := some ⟨.recover, .clear⟩ }) j }) ∧
      (outcome = .modeMismatch → s.headJunction j outcome = s.junctionFails j outcome.code true))) ∧
  (∀ (s : State) (t : Transaction) (j : JunctionId) (outcome : TxOutcome),
    let r := s.hlc.junction j
    ((r.state ≠ .down ∨ outcome ≠ .good) → s.junctionProbed t j outcome = s) ∧
    (∀ since, r.state = .down → outcome = .good → r.downSince = some since →
      let mode : LinkMode := if leNat (t.payload.take 1) = 1 then .checked else .plain
      s.junctionProbed t j outcome = State.postNote { s with hlc := s.hlc.setJunction j ⟨.ready, 0, some mode, none, none⟩ }
        .junctionRestored j.code (s.rif.runTime - since))) ∧
  (∀ (h : Hlc) (j : JunctionId), h.queueStep j =
    if (h.runSeen = .running ∨ h.runSeen = .stopping) ∧ h.mapInForce = true ∧ .step j ∉ h.housekeeping then
      { h with housekeeping := h.housekeeping ++ [.step j] } else h)

/-- The charges of a head (R88 to R90), its confirmation and its probes, and what the end of its transaction hands on (R84,
R91, R93 to R95): the counter and state as the tables have them, with their notes; after NAK_LATCHED and MODE_MISMATCH the
request stays waiting in its class, a head probe whatever its head's state has become (log 18) and a stroke poll once (R94), or
is handed on where its round or the scheduler has ended; otherwise the reading is kept
and the result handed to the consumer of the head's kind with the state after the charge. A round member's STATUS read is
handed as not polled (log 37); a GOOD STATUS of a STROKE head or of the scanner hands nothing; a probe or a scanner STATUS
that fails is handed as failed. A probe of a head no longer DROPPED is charged as any STATUS read (log 18). A change of state
is handed on, and a head that became DROPPED or MISMATCH loses its requests, its probe only in MISMATCH: a round member is
handed as not polled (log 17), a scanner request answered as not issued. -/
def Obligations.HeadCharges : Prop :=
  (∀ counter, chargedCounter counter .good = counter - 1 ∧ chargedCounter counter .timeout = min 16 (counter + 1) ∧
    chargedCounter counter .charError = min 16 (counter + 1) ∧ chargedCounter counter .nakEmpty = min 16 (counter + 1) ∧
    chargedCounter counter .modeMismatch = counter ∧ chargedCounter counter .nakLatched = counter) ∧
  (∀ counter, counter ≤ 16 →
    chargedState .active counter = (if 8 ≤ counter then (.suspect, some .headSuspect) else (.active, none)) ∧
    chargedState .suspect counter = (if counter = 16 then (.dropped, some .headDropped)
      else if counter < 4 then (.active, none) else (.suspect, none)) ∧
    chargedState .unconfirmed counter =
      (if counter = 16 then (.dropped, some .headDropped) else (.unconfirmed, none)) ∧
    chargedState .dropped counter = (.dropped, none) ∧ chargedState .mismatch counter = (.mismatch, none)) ∧
  (∀ (s : State) (i : Nat) (x : Head) (data : List Byte),
    let kind := leNat (data.take 1)
    let readyFlag := (leNat ((data.drop 1).take 1)).testBit 0
    let c := x.counter - 1
    (kind ≠ x.kind.code → s.confirmHead i x data = s.setHead i c .mismatch (some .headMismatch) kind) ∧
    (kind = x.kind.code → readyFlag = false → s.confirmHead i x data = s.setHead i c .unconfirmed none 0) ∧
    (kind = x.kind.code → readyFlag = true → c < 8 → s.confirmHead i x data = s.setHead i c .active none 0) ∧
    (kind = x.kind.code → readyFlag = true → 8 ≤ c →
      s.confirmHead i x data = s.setHead i c .suspect (some .headSuspect) c) ∧
    (kind ≠ x.kind.code →
      s.probeHead i x .good data = s.setHead i x.counter .mismatch (some .headMismatch) kind) ∧
    (kind = x.kind.code → x.counter - 4 < 8 →
      s.probeHead i x .good data = s.setHead i (x.counter - 4) .active (some .headReadmitted) (x.counter - 4)) ∧
    (kind = x.kind.code → 8 ≤ x.counter - 4 →
      s.probeHead i x .good data = s.setHead i (x.counter - 4) .dropped none 0) ∧
    (∀ outcome, outcome = .timeout ∨ outcome = .charError ∨ outcome = .nakEmpty →
      s.probeHead i x outcome data = s.setHead i (min 16 (x.counter + 1)) .dropped none 0)) ∧
  (∀ (s : State) (i counter value : Nat) (state : HeadState),
    let u : State := { s with hlc := { s.hlc with
      heads := s.hlc.heads.modify i fun x => { x with counter := counter, state := state } } }
    s.setHead i counter state none value = u ∧
    ∀ note, s.setHead i counter state (some note) value = u.postNote note i (BitVec.ofNat 32 value)) ∧
  (∀ (s : State) (i : Nat) (x : Head) (t : Transaction) (outcome : TxOutcome) (data : List Byte),
    s.hlc.heads[i]? = some x →
    let u := s.headJunction t.junction outcome
    (outcome = .nakLatched ∨ outcome = .modeMismatch → s.headEnds i t outcome data = u.requeue t ∧
      s.headProbeEnds i t outcome data = u.requeue t) ∧
    (outcome ≠ .nakLatched → outcome ≠ .modeMismatch →
      let settled := if t.command = .status ∧ outcome = .good ∧ x.state = .unconfirmed then u.confirmHead i x data
        else u.setHead i (chargedCounter x.counter outcome)
          (chargedState x.state (chargedCounter x.counter outcome)).1
          (chargedState x.state (chargedCounter x.counter outcome)).2 (chargedCounter x.counter outcome)
      let probed := if x.state = .dropped then u.probeHead i x outcome data else settled
      s.headEnds i t outcome data =
        ((settled.keepReading i t outcome data).handResult i x t outcome data).announceHead i x.state ∧
      (outcome = .good → s.headProbeEnds i t outcome data = probed.announceHead i x.state) ∧
      (outcome ≠ .good → s.headProbeEnds i t outcome data = (probed.handFailed i x).announceHead i x.state))) ∧
  (∀ (s : State) (i : Nat) (x : Head) (t : Transaction) (outcome : TxOutcome) (data : List Byte) (now : Head),
    s.hlc.heads[i]? = some now →
    let value : Half := BitVec.ofNat 16 (leNat (data.take 2))
    let status : ReadingStatus := if (leNat ((data.drop 2).take 1)).testBit 0 then .invalid else .valid
    let kept := outcome = .good ∧ t.command = .reading
    (kept → s.keepReading i t outcome data = { s with hlc := { s.hlc with
      heads := s.hlc.heads.modify i fun x => { x with lastReading := value, readingStatus := status } } }) ∧
    (¬ kept → s.keepReading i t outcome data = s) ∧
    (t.request = .member i → t.command ≠ .status → s.handResult i x t outcome data = s.hand (.delivery
      ⟨t.round, i, if outcome = .good then .reading value status else .failed, now.state⟩)) ∧
    (t.request = .member i → t.command = .status →
      s.handResult i x t outcome data = s.hand (.delivery ⟨t.round, i, .notPolled, now.state⟩)) ∧
    (∀ side, t.request = .stroke i → x.side = some side →
      (outcome ≠ .good → s.handResult i x t outcome data = s.hand (.strokePoll side .failed now.state)) ∧
      (kept → s.handResult i x t outcome data = s.hand (.strokePoll side (.reading value status) now.state)) ∧
      (outcome = .good → t.command = .status → s.handResult i x t outcome data = s)) ∧
    (t.request = .scannerStatus i →
      (outcome = .good → s.handResult i x t outcome data = s) ∧
      (outcome ≠ .good → s.handResult i x t outcome data = s.handFailed i x)) ∧
    (∀ ask, t.request = .scanner i ask →
      (outcome ≠ .good → s.handResult i x t outcome data = s.hand (.scannerAnswer .failed s.hlc.scannerState)) ∧
      (outcome = .good → s.handResult i x t outcome data = s.hand (.scannerAnswer
        (.completed ask (if ask = .line then
          (List.range 64).map fun p => BitVec.ofNat 16 (leNat ((data.drop (2 * p)).take 2)) else []))
        s.hlc.scannerState))) ∧
    (x.kind = .sonic ∨ x.kind = .slope → s.handFailed i x = s.hand (.headFailedToLvc i now.state)) ∧
    (∀ side, x.kind = .stroke → x.side = some side → s.handFailed i x = s.hand (.strokePoll side .failed now.state)) ∧
    (x.kind = .scanner → s.handFailed i x = s.hand (.scannerAnswer .statusFailed (some now.state)))) ∧
  (∀ (s : State) (t : Transaction),
    let put (h : Hlc) : State := { s with hlc := h }
    (∀ i, t.request = .member i →
      let inRound := s.hlc.scheduling = true ∧ s.hlc.roundInProgress = true ∧ s.hlc.roundNumber = t.round
      (∀ below above, inRound → s.hlc.members = below ++ above → (∀ k ∈ below, k < i) → (∀ k ∈ above, i ≤ k) →
        s.requeue t = put { s.hlc with members := below ++ i :: above }) ∧
      (¬ inRound → s.requeue t = s.deliver t.round i .notPolled)) ∧
    (∀ i, t.request = .stroke i →
      (s.hlc.scheduling = true → i ∉ s.hlc.strokes →
        s.requeue t = put { s.hlc with strokes := i :: s.hlc.strokes }) ∧
      (s.hlc.scheduling = false ∨ i ∈ s.hlc.strokes → s.requeue t = s)) ∧
    (∀ i, t.request = .scannerStatus i ∨ (∃ ask, t.request = .scanner i ask) →
      (s.hlc.scheduling = true → s.requeue t = put { s.hlc with scanner := t.request :: s.hlc.scanner })) ∧
    (∀ i, t.request = .scannerStatus i → s.hlc.scheduling = false → s.requeue t = s) ∧
    (∀ i ask, t.request = .scanner i ask → s.hlc.scheduling = false → s.requeue t = s.answerScanner .notIssued) ∧
    (∀ i, t.request = .headProbe i →
      (s.hlc.scheduling = true → s.requeue t = put { s.hlc with probes := t.request :: s.hlc.probes }) ∧
      (s.hlc.scheduling = false → s.requeue t = s))) ∧
  (∀ (s : State) (round i : Nat) (outcome : DeliveryOutcome) (answer : ScannerAnswer),
    s.answerScanner answer = s.hand (.scannerAnswer answer s.hlc.scannerState) ∧
    (∀ x, s.hlc.heads[i]? = some x → s.deliver round i outcome = s.hand (.delivery ⟨round, i, outcome, x.state⟩))) ∧
  (∀ (s : State) (i : Nat) (old : HeadState) (x : Head), s.hlc.heads[i]? = some x →
    let told : List Handoff := match x.kind, x.side with
      | .sonic, _ | .slope, _ => [.headStateToLvc i x.state]
      | .stroke, some side => [.strokeState side x.state]
      | .stroke, none => []
      | .scanner, _ => [.scannerState (some x.state)]
    let u : State := { s with inbox := s.inbox ++ told.map (Waiting.mk false) }
    (x.state = old → s.announceHead i old = s) ∧
    (x.state ≠ old →
      (x.state = .dropped → s.announceHead i old = u.dropHead i true) ∧
      (x.state = .mismatch → s.announceHead i old = u.dropHead i false) ∧
      (x.state ≠ .dropped → x.state ≠ .mismatch → s.announceHead i old = u)) ∧
    (∀ keepProbe : Bool,
      let ofHead (r : LinkRequest) : Bool := match r with
        | .member k | .stroke k | .scannerStatus k | .scanner k _ => k == i
        | _ => false
      let chosen : List LinkRequest := match s.hlc.line with | .quiet r => [r] | _ => []
      let asked := (chosen ++ s.hlc.scanner).countP fun r => match r with | .scanner k _ => k == i | _ => false
      let member := s.hlc.members.contains i || chosen.contains (.member i)
      s.dropHead i keepProbe = { s with
        hlc := { s.hlc with
          members := s.hlc.members.filter (· != i), strokes := s.hlc.strokes.filter (· != i)
          scanner := s.hlc.scanner.filter fun r => !ofHead r
          probes := if keepProbe then s.hlc.probes else s.hlc.probes.filter (· != .headProbe i)
          line := match s.hlc.line with
            | .quiet r => if ofHead r || (!keepProbe && r == .headProbe i) then .free else .quiet r
            | l => l }
        inbox := s.inbox ++ List.replicate asked ⟨false, .scannerAnswer .notIssued s.hlc.scannerState⟩ ++
          if member then [⟨false, .delivery ⟨s.hlc.roundNumber, i, .notPolled, x.state⟩⟩] else [] }))

/-- ROUND_TIMER_EXPIRY, STROKE_TIMER_EXPIRY, PROBE_TIMER_EXPIRY, SCANNER_REQUEST and MODE_HANDOFF_AT_HLC, and the scheduler
(R88, R91 to R95): the timer restarts; a round in progress is ended, its members not yet issued handed as not polled, and a
wanted one begins with every levelling head in map order; stroke polls and probes are queued once each, the junctions' probes
LEFT, RIGHT, CENTRE and then the heads' in index order; a scanner request is queued, behind a STATUS read where the scanner is
UNCONFIRMED, or answered as not issued, as every one is while the scheduler does not run (log 44). With the line free the
scheduler takes the first request that may be chosen and puts it on the line; one for a head whose junction is DOWN is charged
and handed as failed instead, and the next is taken. Two clauses are the model's choices: a request chosen for a scanner that
is not ACTIVE or SUSPECT is answered as not issued (log 43(i)), and a scanner STATUS or head probe that is missed is charged
and handed as failed whatever the head's state (log 18). The probe timer runs exactly while there is something to probe. An
expiry command brings time to the timer's expiry, which is the model's choice (log 2). -/
def Obligations.LinkTimersAndRequests : Prop :=
  (∀ (s : State) (expiry : Word),
    let t := s.runTo expiry
    let after (ms : Nat) : Timer := some (t.rif.runTime + BitVec.ofNat 32 ms)
    (s.hlc.roundTimer = some expiry →
      let u := State.endRound { t with hlc := { s.hlc with roundTimer := after (s.settingNat Setting.roundPeriod) } }
      exec .roundTimerExpiry s = .next (if u.hlc.roundWanted then u.beginRound.schedule else u.schedule)) ∧
    (s.hlc.strokeTimer = some expiry → exec .strokeTimerExpiry s = .next (State.schedule
      { t with hlc := { s.hlc with
        strokeTimer := after 100
        strokes := s.hlc.strokes ++ (List.range s.hlc.heads.length).filter fun i =>
          ((s.hlc.heads[i]?).any fun x => x.kind == .stroke && x.state != .dropped && x.state != .mismatch) &&
          !s.hlc.strokes.contains i && s.hlc.line != .quiet (.stroke i) } })) ∧
    (s.hlc.probeTimer = some expiry → exec .probeTimerExpiry s = .next (State.schedule
      { t with hlc := { s.hlc with
        probeTimer := after (s.settingNat Setting.probeInterval), probes := s.hlc.probes ++ s.hlc.newProbes } }))) ∧
  (∀ s : State,
    let waiting : List Nat := (match s.hlc.line with | .quiet (.member i) => [i] | _ => []) ++ s.hlc.members
    s.endRound = { s with
      hlc := { s.hlc with
        members := [], roundInProgress := false
        line := match s.hlc.line with | .quiet (.member _) => .free | l => l }
      inbox := s.inbox ++ waiting.filterMap fun i =>
        (s.hlc.headState i).map fun st => ⟨false, .delivery ⟨s.hlc.roundNumber, i, .notPolled, st⟩⟩ }) ∧
  (∀ h : Hlc,
    (∀ j, .junctionProbe j ∈ h.newProbes ↔ (h.junction j).state = .down ∧ h.line ≠ .quiet (.junctionProbe j) ∧
      h.line ≠ .quiet (.orderedProbe j) ∧ .junctionProbe j ∉ h.probes ∧ .orderedProbe j ∉ h.probes ∧
      .junctionProbe j ∉ h.housekeeping ∧ .orderedProbe j ∉ h.housekeeping) ∧
    (∀ i, .headProbe i ∈ h.newProbes ↔ h.headState i = some .dropped ∧ h.line ≠ .quiet (.headProbe i) ∧
      .headProbe i ∉ h.probes ∧ .headProbe i ∉ h.housekeeping) ∧
    (∃ (junctions : List JunctionId) (heads : List Nat),
      h.newProbes = junctions.map LinkRequest.junctionProbe ++ heads.map LinkRequest.headProbe ∧
      junctions.Sublist [.left, .right, .centre] ∧ heads.Pairwise (· < ·)) ∧
    (h.roundWanted = true ↔ h.sideModes.left ≠ .off ∨ h.sideModes.right ≠ .off ∨ (∃ x ∈ h.heads, x.kind = .stroke) ∨
      (∃ x ∈ h.heads, x.kind = .scanner) ∧ h.recordsMode ≠ .off) ∧
    (h.scheduling = true ↔ (h.runSeen = .running ∨ h.runSeen = .stopping) ∧ h.mapInForce = true)) ∧
  (∀ s : State,
    let levelling (x : Head) : Bool := x.kind == .sonic || x.kind == .slope
    let shut (x : Head) : Bool := x.state == .dropped || x.state == .mismatch
    let pick (p : Head → Bool) := (List.range s.hlc.heads.length).filter fun i => (s.hlc.heads[i]?).any p
    ∃ hands : List Handoff,
      s.beginRound = { s with
        hlc := { s.hlc with
          roundNumber := s.hlc.roundNumber + 1, roundInProgress := true
          members := pick fun x => levelling x && !shut x }
        inbox := s.inbox ++ hands.map (Waiting.mk false) } ∧
      hands = (pick fun x => levelling x && shut x).filterMap fun i =>
        (s.hlc.headState i).map fun st => .delivery ⟨s.hlc.roundNumber + 1, i, .notPolled, st⟩) ∧
  (∀ (s : State) (rest : List Waiting) (ask : ScannerAsk),
    s.FirstWaiting (fun h => ∃ x, h = .scannerRequest x) (.scannerRequest ask) rest →
    let u : State := { s with inbox := rest }
    let refused := State.hand u (.scannerAnswer .notIssued s.hlc.scannerState)
    (s.hlc.scheduling = false ∨ s.hlc.scannerState = none ∨ s.hlc.scannerState = some .dropped ∨
        s.hlc.scannerState = some .mismatch →
      exec .scannerRequest s = .next refused.schedule) ∧
    (∀ i, s.hlc.scannerIndex = some i → s.hlc.scheduling = true →
      (s.hlc.scannerState = some .active ∨ s.hlc.scannerState = some .suspect →
        exec .scannerRequest s = .next (State.schedule
          { u with hlc := { s.hlc with scanner := s.hlc.scanner ++ [.scanner i ask] } })) ∧
      (s.hlc.scannerState = some .unconfirmed →
        let behind := .scannerStatus i ∈ s.hlc.scanner ∨ s.hlc.line = .quiet (.scannerStatus i)
        (behind → exec .scannerRequest s = .next (State.schedule
          { u with hlc := { s.hlc with scanner := s.hlc.scanner ++ [.scanner i ask] } })) ∧
        (¬ behind → exec .scannerRequest s = .next (State.schedule
          { u with hlc := { s.hlc with scanner := s.hlc.scanner ++ [.scannerStatus i, .scanner i ask] } }))))) ∧
  (∀ (s : State) (rest : List Waiting),
    (∀ side mode, s.FirstWaiting (fun h => (∃ x y, h = .sideModeToHlc x y) ∨ ∃ x, h = .recordsModeToHlc x)
        (.sideModeToHlc side mode) rest →
      exec .modeHandoffAtHlc s = .next
        { s with inbox := rest, hlc := { s.hlc with sideModes := s.hlc.sideModes.set side mode } }) ∧
    (∀ mode, s.FirstWaiting (fun h => (∃ x y, h = .sideModeToHlc x y) ∨ ∃ x, h = .recordsModeToHlc x)
        (.recordsModeToHlc mode) rest →
      exec .modeHandoffAtHlc s = .next { s with inbox := rest, hlc := { s.hlc with recordsMode := mode } })) ∧
  (∀ h : Hlc, h.pick =
    (h.housekeeping ++ h.members.map LinkRequest.member ++ h.strokes.map LinkRequest.stroke ++ h.scanner.take 1 ++
      h.probes).find? fun r : LinkRequest =>
      match r with
      | .step _ | .orderedProbe _ | .junctionProbe _ => true
      | .member i | .stroke i | .scannerStatus i | .scanner i _ | .headProbe i =>
        (h.heads[i]?).any fun x => (h.junction x.junction).state == .ready || (h.junction x.junction).state == .down) ∧
  (∀ s : State,
    (s.hlc.line ≠ .free ∨ s.hlc.pick = none → s.schedule = s.settleProbe) ∧
    (∀ r, s.hlc.line = .free → s.hlc.pick = some r →
      let u : State := { s with hlc := s.hlc.remove r }
      let issued : State := State.settleProbe { u with hlc := { u.hlc with line := .quiet r } }
      let down (i : Nat) : Prop := ∃ x, s.hlc.heads[i]? = some x ∧ (s.hlc.junction x.junction).state = .down
      let up (i : Nat) : Prop := s.hlc.headState i = some .active ∨ s.hlc.headState i = some .suspect
      ((∃ j, r = .step j ∨ r = .orderedProbe j ∨ r = .junctionProbe j) → s.schedule = issued) ∧
      (∀ i, r = .member i ∨ r = .stroke i ∨ r = .scannerStatus i ∨ r = .headProbe i →
        (down i → s.schedule = (u.miss r i).schedule) ∧ (¬ down i → s.schedule = issued)) ∧
      (∀ i ask, r = .scanner i ask →
        (¬ up i → s.schedule = (u.answerScanner .notIssued).schedule) ∧
        (up i → down i → s.schedule = (u.miss r i).schedule) ∧ (up i → ¬ down i → s.schedule = issued)))) ∧
  (∀ (h : Hlc) (r : LinkRequest), h.remove r = { h with
    housekeeping := h.housekeeping.erase r
    members := match r with | .member i => h.members.erase i | _ => h.members
    strokes := match r with | .stroke i => h.strokes.erase i | _ => h.strokes
    scanner := h.scanner.erase r
    probes := h.probes.erase r }) ∧
  (∀ (s : State) (i : Nat) (x : Head), s.hlc.heads[i]? = some x →
    let c := min 16 (x.counter + 1)
    let charged := s.setHead i c (chargedState x.state c).1 (chargedState x.state c).2 c
    (∀ now, charged.hlc.heads[i]? = some now →
      s.miss (.member i) i =
        (charged.hand (.delivery ⟨s.hlc.roundNumber, i, .failed, now.state⟩)).announceHead i x.state ∧
      (∀ side, x.side = some side →
        s.miss (.stroke i) i = (charged.hand (.strokePoll side .failed now.state)).announceHead i x.state) ∧
      s.miss (.scannerStatus i) i = (charged.handFailed i x).announceHead i x.state ∧
      s.miss (.headProbe i) i = (charged.handFailed i x).announceHead i x.state ∧
      (∀ ask, s.miss (.scanner i ask) i = (charged.answerScanner .failed).announceHead i x.state))) ∧
  (∀ s : State,
    let probing := s.hlc.scheduling = true ∧
      ((∃ j, (s.hlc.junction j).state = .down) ∨ ∃ x ∈ s.hlc.heads, x.state = .dropped)
    (¬ probing → s.settleProbe = { s with hlc := { s.hlc with probeTimer := none } }) ∧
    (probing → s.hlc.probeTimer ≠ none → s.settleProbe = s) ∧
    (probing → s.hlc.probeTimer = none → s.settleProbe = { s with hlc := { s.hlc with
      probeTimer := some (s.rif.runTime + BitVec.ofNat 32 (s.settingNat Setting.probeInterval)) } }))

/-- HEAD_MAP_NEWLY_IN_FORCE, HEAD_MAP_WITHDRAWN, RUN_STATUS_AT_HLC, CLEAR_FAULT_JUNCTION and CLEAR_FAULT_HEAD (R82, R86, R87,
R90 to R94). A map in force gives one UNCONFIRMED record per head, its last reading at 0 (log 44), drops what waited and is
handed on; a withdrawal and the end of a run stop the scheduler; RUNNING makes every head not in MISMATCH UNCONFIRMED and
resynchronises the junctions, in the order LEFT, RIGHT, CENTRE, one not named with no mode seen (log 44). A transaction on the
line at a rebuild goes stale (log 17); at a RUN start it runs to its end and is judged. LVC's round numbering starts again
(log 19). A DOWN junction is probed at once and the order is DONE with 3, without a probe where the scheduler does not run
(log 43); a SUSPECT or DROPPED head becomes UNCONFIRMED with counter 0 and the order is DONE with the counter it had. -/
def Obligations.HeadTableRunsAndFaultClears : Prop :=
  (∀ (s : State) (rest : List Waiting),
    let u : State := { s with inbox := rest }
    (∀ items, s.FirstWaiting (fun h => (∃ x, h = .headMapInForce x) ∨ h = .headMapWithdrawn) (.headMapInForce items) rest →
      let v := u.dropWaiting.makeStale
      let heads := items.map fun x => ⟨x.junction, x.port, x.kind, x.side, x.position, .unconfirmed, 0, 0, .none⟩
      exec .headMapNewlyInForce s = .next
        ((State.handRebuild { v with hlc := { v.hlc with heads := heads, mapInForce := true } }).startScheduler)) ∧
    (s.FirstWaiting (fun h => (∃ x, h = .headMapInForce x) ∨ h = .headMapWithdrawn) .headMapWithdrawn rest →
      let v := u.dropWaiting
      exec .headMapWithdrawn s = .next (State.unconfirmHeads { v with hlc := { v.hlc with
        roundTimer := none, strokeTimer := none, probeTimer := none, mapInForce := false } })) ∧
    (∀ status, s.FirstWaiting (fun h => ∃ x, h = .runStatus .hlc x) (.runStatus .hlc status) rest →
      let v : State := { u with hlc := { s.hlc with runSeen := status } }
      (status = .stopping → exec .runStatusAtHlc s = .next v) ∧
      (status = .stopped ∨ status = .starting →
        let w := v.dropWaiting
        exec .runStatusAtHlc s = .next
          { w with hlc := { w.hlc with roundTimer := none, strokeTimer := none, probeTimer := none } }) ∧
      (status = .running →
        let w := v.dropWaiting
        exec .runStatusAtHlc s = .next (State.startScheduler (State.unconfirmHeads { w with
          hlc := { w.hlc with roundNumber := 0 }
          lvc := { w.lvc with highestRound := 0, sides :=
            ⟨{ w.lvc.sides.left with roundBar := 0 }, { w.lvc.sides.right with roundBar := 0 }⟩ } }))))) ∧
  (∀ s : State,
    let chosen : List LinkRequest := match s.hlc.line with | .quiet r => [r] | _ => []
    let asked := (chosen ++ s.hlc.scanner).countP fun r => match r with | .scanner _ _ => true | _ => false
    let members := (chosen.filterMap fun r => match r with | .member i => some i | _ => none) ++ s.hlc.members
    s.dropWaiting = { s with
      hlc := { s.hlc with
        housekeeping := [], members := [], strokes := [], scanner := [], probes := [], roundInProgress := false
        line := match s.hlc.line with | .quiet _ => .free | l => l }
      inbox := s.inbox ++ List.replicate asked ⟨false, .scannerAnswer .notIssued s.hlc.scannerState⟩ ++
        members.filterMap fun i =>
          (s.hlc.headState i).map fun st => ⟨false, .delivery ⟨s.hlc.roundNumber, i, .notPolled, st⟩⟩ }) ∧
  (∀ s : State,
    ((∀ t, s.hlc.line ≠ .busy t) → s.makeStale = s) ∧
    (∀ t, s.hlc.line = .busy t →
      let u : State := { s with hlc := { s.hlc with line := .busy { t with stale := true } } }
      (∀ i st, t.request = .member i → t.stale = false → s.hlc.headState i = some st →
        s.makeStale = { u with inbox := s.inbox ++ [⟨false, .delivery ⟨t.round, i, .notPolled, st⟩⟩] }) ∧
      (t.stale = true ∨ (∀ i, t.request ≠ .member i) → s.makeStale = u))) ∧
  (∀ s : State,
    let stroke (side : Side) : Option HeadState :=
      (s.hlc.heads.find? fun x => x.kind == .stroke && x.side == some side).map (·.state)
    s.handRebuild = { s with inbox := s.inbox ++
      [⟨false, .rebuildToLvc (s.hlc.heads.map fun x => ⟨x.kind, x.side, x.position, x.state⟩)⟩,
        ⟨false, .rebuildToGeu (stroke .left) (stroke .right)⟩, ⟨false, .scannerState s.hlc.scannerState⟩] }) ∧
  (∀ s : State,
    (s.hlc.scheduling = false → s.startScheduler = s) ∧
    (s.hlc.scheduling = true →
      let after (ms : Nat) : Word := s.rif.runTime + BitVec.ofNat 32 ms
      s.startScheduler = State.schedule { s with hlc := { s.hlc.resync with
        roundTimer := some (s.hlc.roundTimer.getD (after (s.settingNat Setting.roundPeriod)))
        strokeTimer := if s.hlc.heads.any fun x => x.kind == .stroke then
          some (s.hlc.strokeTimer.getD (after 100)) else none } })) ∧
  (∀ s : State,
    let lost (x : Head) : Bool := x.state != .mismatch && x.state != .unconfirmed
    s.unconfirmHeads = { s with
      hlc := { s.hlc with heads := s.hlc.heads.map fun x =>
        if x.state = .mismatch then x else { x with state := .unconfirmed, counter := 0, readingStatus := .none } }
      inbox := s.inbox ++ (List.range s.hlc.heads.length).flatMap fun i =>
        match s.hlc.heads[i]? with
        | some x => if lost x then (match x.kind, x.side with
            | .sonic, _ | .slope, _ => [⟨false, .headStateToLvc i .unconfirmed⟩]
            | .stroke, some side => [⟨false, .strokeState side .unconfirmed⟩]
            | .stroke, none => []
            | .scanner, _ => [⟨false, .scannerState (some .unconfirmed)⟩]) else []
        | none => [] }) ∧
  (∀ h : Hlc,
    let named (j : JunctionId) : Bool := h.heads.any fun x => x.junction == j
    let put (j : JunctionId) : Junction :=
      if named j then ⟨.resync, 0, none, some ⟨.sync, .setMode⟩, none⟩ else ⟨.unknown, 0, none, none, none⟩
    h.resync = { h with
      junctions := ⟨put .left, put .right, put .centre⟩
      housekeeping := h.housekeeping ++
        (([.left, .right, .centre].filter fun j =>
          named j && h.scheduling && !h.housekeeping.contains (.step j)).map LinkRequest.step) }) ∧
  (∀ (s : State) (o : Order), s.clearFaultOf 3 = some o →
    let j := (JunctionId.ofCode o.subject.toNat).getD .left
    let r := s.hlc.junction j
    (r.state ≠ .down → exec .clearFaultJunction s = .next (s.finishRefused .notFaulted)) ∧
    (r.state = .down → s.hlc.scheduling = true → exec .clearFaultJunction s = .next
      ((State.schedule { s with hlc := { s.hlc with
        housekeeping := s.hlc.housekeeping ++ [.orderedProbe j]
        probeTimer := some (s.rif.runTime + BitVec.ofNat 32 (s.settingNat Setting.probeInterval)) } }).finishDone
        (BitVec.ofNat 32 r.failures) false false false)) ∧
    (r.state = .down → s.hlc.scheduling = false → exec .clearFaultJunction s = .next
      (s.finishDone (BitVec.ofNat 32 r.failures) false false false))) ∧
  (∀ (s : State) (o : Order), s.clearFaultOf 2 = some o →
    let i := o.subject.toNat
    (s.hlc.heads[i]? = none → exec .clearFaultHead s = .next (s.finishRefused .notFaulted)) ∧
    (∀ x, s.hlc.heads[i]? = some x →
      (x.state = .active ∨ x.state = .unconfirmed → exec .clearFaultHead s = .next (s.finishRefused .notFaulted)) ∧
      (x.state = .mismatch → exec .clearFaultHead s = .next (s.finishRefused .wrongState)) ∧
      (x.state = .suspect ∨ x.state = .dropped →
        let u : State := { s with hlc := { s.hlc with
          heads := s.hlc.heads.modify i fun x => { x with counter := 0, state := .unconfirmed }
          probes := s.hlc.probes.filter (· != .headProbe i)
          line := if s.hlc.line = .quiet (.headProbe i) then .free else s.hlc.line } }
        exec .clearFaultHead s = .next (((u.announceHead i x.state).schedule).finishDone (BitVec.ofNat 32 x.counter)
          false false false))))

/-! ## Geometry (06) -/

/-- STROKE_HEAD_STATE_CHANGE, STROKE_POLL_HANDOFF, HEAD_TABLE_REBUILD_AT_GEU, GEOMETRY_PAGE_HANDOFF and LIVE_STROKE_HANDOFF
(R97 to R104). The state of a side's STROKE head is seen first; a valid reading under a GOOD width that moves the stroke by
GEOMETRY_STEP or more replaces it; a page always, and the rest where the width status, a stroke or the live zone set changes,
is one geometry change event: half-widths, live zones, window and width brought up to date, the sequence raised by 1 and the
record handed to HTC, FDC and MRU. A change of state may be taken before the poll of the same transaction (R104). -/
def Obligations.GeometryFollowsStrokesAndPages : Prop :=
  (∀ (s : State) (side : Side) (rest : List Waiting),
    let seen (st : Option HeadState) : State :=
      { s with inbox := rest, geu := { s.geu with headSeen := s.geu.headSeen.set side st } }
    let settle (u : State) : State := if widthOf u.geu.headSeen = u.geu.geometry.width then u else u.geometryEvent
    let channel := fun h => Handoff.strokeOf side h = true
    (∀ st, s.FirstWaiting channel (.strokeState side st) rest →
      exec (.strokeHeadStateChange side) s = .next (settle (seen (some st)))) ∧
    (∀ st result pre mid post,
      s.inbox = pre ++ ⟨false, .strokePoll side result st⟩ :: (mid ++ ⟨false, .strokeState side st⟩ :: post) →
      rest = pre ++ ⟨false, .strokePoll side result st⟩ :: (mid ++ post) →
      (∀ x ∈ pre ++ mid, ¬ channel x.handoff) →
      exec (.strokeHeadStateChange side) s = .next (settle (seen (some st)))) ∧
    (∀ st result, s.FirstWaiting channel (.strokePoll side result st) rest →
      let u := seen (some st)
      let old := s.geu.stroke.get side
      (∀ value, result = .reading value .valid → widthOf u.geu.headSeen = .good →
        let new := (max 0 (min 2500 value.toInt)).toNat
        (s.settingNat Setting.geometryStep ≤ max (new - old) (old - new) → exec (.strokePollHandoff side) s = .next
          (State.geometryEvent { u with geu := { u.geu with stroke := s.geu.stroke.set side new } })) ∧
        (max (new - old) (old - new) < s.settingNat Setting.geometryStep →
          exec (.strokePollHandoff side) s = .next (settle u))) ∧
      (widthOf u.geu.headSeen = .stale ∨ result = .failed ∨ (∃ value, result = .reading value .invalid) →
        exec (.strokePollHandoff side) s = .next (settle u)))) ∧
  (∀ (s : State) (rest : List Waiting),
    let u : State := { s with inbox := rest }
    (∀ left right, s.FirstWaiting (fun h => (Handoff.strokeOf .left h || Handoff.strokeOf .right h) = true)
        (.rebuildToGeu left right) rest →
      let v : State := { u with geu := { s.geu with headSeen := ⟨left, right⟩ } }
      exec .headTableRebuildAtGeu s = .next
        (if widthOf v.geu.headSeen = s.geu.geometry.width then v else v.geometryEvent)) ∧
    (∀ left right, s.FirstWaiting (fun h => (∃ x y, h = .geometryInForce x y) ∨ h = .geometryWithdrawn)
        (.geometryInForce left right) rest →
      exec .geometryPageHandoff s = .next (State.geometryEvent { u with geu := { s.geu with bolt := ⟨left, right⟩ } })) ∧
    (s.FirstWaiting (fun h => (∃ x y, h = .geometryInForce x y) ∨ h = .geometryWithdrawn) .geometryWithdrawn rest →
      exec .geometryPageHandoff s = .next (State.geometryEvent { u with geu := { s.geu with bolt := ⟨0, 0⟩ } })) ∧
    (s.FirstWaiting (fun h => h = .liveStroke) .liveStroke rest →
      exec .liveStrokeHandoff s = .next
        (if liveSet s.geu.stroke s.geu.bolt (s.settingNat Setting.liveStroke) = s.geu.geometry.live then u
         else u.geometryEvent))) ∧
  (∀ s : State,
    let left := 1500 + s.geu.stroke.left + s.geu.bolt.left
    let right := 1500 + s.geu.stroke.right + s.geu.bolt.right
    let live := s.settingNat Setting.liveStroke
    ∃ record : GeometryRecord,
      s.geometryEvent = { s with
        geu := { s.geu with geometry := record }
        inbox := s.inbox ++ [⟨false, .geometryToHtc record⟩, ⟨false, .geometryToFdc record⟩,
          ⟨false, .geometryToMru record⟩] } ∧
      record.halfLeft = left ∧ record.halfRight = right ∧ record.sequence = s.geu.geometry.sequence + 1 ∧
      record.live = ⟨true, true, decide (live ≤ s.geu.stroke.left), decide (live ≤ s.geu.stroke.right),
        decide (0 < s.geu.bolt.left), decide (0 < s.geu.bolt.right)⟩ ∧
      (record.width = .good ↔ s.geu.headSeen.left = some .active ∧ s.geu.headSeen.right = some .active) ∧
      (left ≤ 7040 → right ≤ 7040 →
        ∀ i, record.windowFirst ≤ i ∧ i < record.windowFirst + record.windowCount ↔
          7040 - left ≤ 220 * i ∧ 220 * (i + 1) ≤ 7040 + right))

/-! ## Levelling (07) -/

/-- ROUND_MEMBER_DELIVERY, HEAD_STATE_CHANGE_AT_LVC, HEAD_TABLE_REBUILD_AT_LVC and SIDE_MODE_HANDOFF (R106, R109, R110, R122).
A delivery joins its round's collection on each side the head is a member of; the one that completes it removes the collection
and makes the correction of the side. A head's state is taken with a change and with the failure of a probe, from which LVC
takes nothing else (log 18). A rebuild takes the heads, discards the collections and makes fresh starts, the left side settled
first (log 44); a mode is stored, OFF and HOLD ending the pulse and OFF making a fresh start. That a round at or below the bar
of R107 opens nothing is the rule's; the round numbers at a RUN start, and that a round above HLC's number raises no highest
round, are log 19's. -/
def Obligations.SidesFollowRoundsAndModes : Prop :=
  (∀ (s : State) (rest : List Waiting),
    let u : State := { s with inbox := rest }
    let channel := fun h => (∃ x, h = Handoff.delivery x) ∨ (∃ x y, h = .headStateToLvc x y) ∨
      (∃ x y, h = .headFailedToLvc x y) ∨ ∃ x, h = .rebuildToLvc x
    (∀ d, s.FirstWaiting channel (.delivery d) rest →
      let v : State := { u with lvc := { s.lvc with
        highestRound := if d.round ≤ s.hlc.roundNumber then max s.lvc.highestRound d.round else s.lvc.highestRound } }
      exec .roundMemberDelivery s = .next ((v.deliverSide .left d).deliverSide .right d)) ∧
    (∀ i st, s.FirstWaiting channel (.headStateToLvc i st) rest ∨ s.FirstWaiting channel (.headFailedToLvc i st) rest →
      exec .headStateChangeAtLvc s = .next { u with lvc := { s.lvc with
        heads := s.lvc.heads.modify i fun x => { x with state := st } } }) ∧
    (∀ heads, s.FirstWaiting channel (.rebuildToLvc heads) rest →
      let fresh (r : SideRecord) : SideRecord := { r with lastAverage := none, inUse := [], rebase := 0, collections := [] }
      exec .headTableRebuildAtLvc s = .next ((State.settleMembers { u with lvc := { s.lvc with
        heads := heads, sides := ⟨fresh s.lvc.sides.left, fresh s.lvc.sides.right⟩ } } .left).settleMembers .right)) ∧
    (∀ side mode, s.FirstWaiting (fun h => ∃ x, h = .sideMode side x) (.sideMode side mode) rest →
      let r := s.lvc.sides.get side
      let put (r : SideRecord) : State := { u with lvc := { s.lvc with sides := s.lvc.sides.set side r } }
      let still : SideRecord := { r with valve := .idle, pulseEnd := none, waiting := none, modeSeen := mode }
      (mode = .off → exec (.sideModeHandoff side) s = .next
        (put { still with lastAverage := none, inUse := [], rebase := 0 })) ∧
      (mode = .hold → exec (.sideModeHandoff side) s = .next (put still)) ∧
      (mode = .manual ∨ mode = .auto → exec (.sideModeHandoff side) s = .next (put { r with modeSeen := mode })))) ∧
  (∀ (s : State) (side : Side) (d : Delivery),
    let r := s.lvc.sides.get side
    let members := s.lvc.members side
    let open_ := r.collections.any fun c => c.round == d.round
    let collections := if open_ then
        r.collections.map fun c => if c.round = d.round then { c with deliveries := c.deliveries ++ [d] } else c
      else r.collections ++ [⟨d.round, [d]⟩]
    let put (cs : List Collection) : State :=
      { s with lvc := { s.lvc with sides := s.lvc.sides.set side { r with collections := cs } } }
    let full (c : Collection) : Prop := c.round = d.round ∧ ∀ i ∈ members, ∃ x ∈ c.deliveries, x.head = i
    (d.head ∉ members ∨ d.round ≤ r.roundBar → s.deliverSide side d = s) ∧
    (d.head ∈ members → r.roundBar < d.round →
      ((∀ c ∈ collections, ¬ full c) → s.deliverSide side d = put collections) ∧
      (∀ before c after, collections = before ++ c :: after → (∀ x ∈ before, ¬ full x) → full c →
        s.deliverSide side d =
          (put (collections.filter fun x => x.round != d.round)).correction side c.deliveries)))

/-- The corrections (R110 to R118). In OFF nothing changes. A grade correction's candidates are its members' VALID readings
from ACTIVE heads inside the window; too few make the side LOST, a change of status noted as SIDE_HOLD or SIDE_RESTORED with
its value and reported to MSC (R116); else the outlier of 4 or 5 is left out of the mean, the rebase absorbs a change of
heads, and the error past the deadband gives a pulse, started only in AUTO. A slope correction does so from the slope head's
deviation. The rebase and the corrected average are free values outside 32 bits (log 13). -/
def Obligations.CorrectionsMakeAveragesAndPulses : Prop :=
  (∀ (s : State) (side : Side) (ds : List Delivery),
    let r := s.lvc.sides.get side
    (r.modeSeen = .off → s.correction side ds = s) ∧
    (r.modeSeen ≠ .off → r.kind = .grade →
      let found := (s.lvc.members side).filterMap fun i =>
        (ds.find? fun d => d.head == i).bind fun d => (r.candidate (s.setting Setting.sonicWindow) d).map fun v => (i, v)
      (found.length < s.settingNat Setting.minHeads →
        s.correction side ds = s.settleReference side .lost found.length) ∧
      (s.settingNat Setting.minHeads ≤ found.length →
        let t := s.settleReference side .ok found.length
        let now := t.lvc.sides.get side
        let mean := meanReading (found.map (·.2))
        let rebase := match now.lastAverage with
          | some a => if found.map (·.1) = now.inUse then now.rebase else to32 (a.toInt - mean)
          | none => now.rebase
        let average := to32 (mean + rebase.toInt)
        let u : State := { t with lvc := { t.lvc with sides := t.lvc.sides.set side { now with
          inUse := found.map (·.1), rebase := rebase, lastAverage := some average } } }
        let e := now.zero.toInt + s.setting (if side = .left then 0 else 1) - average.toInt
        let width := min (s.settingNat Setting.pulseMax) (s.settingNat Setting.pulseMin +
          (e.natAbs - s.settingNat Setting.gradeDeadband) * s.settingNat Setting.gradeGain)
        (e.natAbs ≤ s.settingNat Setting.gradeDeadband ∨ r.modeSeen ≠ .auto → s.correction side ds = u) ∧
        (s.settingNat Setting.gradeDeadband < e.natAbs → r.modeSeen = .auto →
          s.correction side ds = u.givePulse side ⟨if 0 < e then .up else .down, width⟩))) ∧
    (∀ d more, r.modeSeen ≠ .off → r.kind = .slope → ds = d :: more →
      (d.state ≠ .active ∨ (∀ v, d.outcome ≠ .reading v .valid) →
        s.correction side ds = s.settleReference side .lost d.state.code) ∧
      (∀ v, d.state = .active → d.outcome = .reading v .valid →
        let t := s.settleReference side .ok 1
        let x := v.toInt - s.setting Setting.slopeSet
        let width := min (s.settingNat Setting.pulseMax) (s.settingNat Setting.pulseMin +
          (x.natAbs - s.settingNat Setting.slopeDeadband) * s.settingNat Setting.slopeGain)
        (x.natAbs ≤ s.settingNat Setting.slopeDeadband ∨ r.modeSeen ≠ .auto → s.correction side ds = t) ∧
        (s.settingNat Setting.slopeDeadband < x.natAbs → r.modeSeen = .auto →
          s.correction side ds = t.givePulse side
            ⟨if decide (0 < x) = decide (side = .left) then .up else .down, width⟩)))) ∧
  (∀ (s : State) (side : Side) (status : ReferenceStatus) (value : Nat),
    let r := s.lvc.sides.get side
    (r.status = status → s.settleReference side status value = s) ∧
    (r.status ≠ status → s.settleReference side status value = State.hand (State.postNote
      { s with lvc := { s.lvc with sides := s.lvc.sides.set side { r with status := status } } }
      (if status = .lost then .sideHold else .sideRestored) (if side = .left then 0 else 1) (BitVec.ofNat 32 value))
      (.referenceToMsc side))) ∧
  (∀ (r : SideRecord) (window : Int) (d : Delivery) (v : Int), r.candidate window d = some v ↔
    ∃ reading, d.outcome = .reading reading .valid ∧ d.state = .active ∧ v = reading.toInt ∧
      ∀ a, r.lastAverage = some a →
        a.toInt - window ≤ reading.toInt + r.rebase.toInt ∧ reading.toInt + r.rebase.toInt ≤ a.toInt + window) ∧
  (∀ vs : List Int,
    (vs.length < 4 → meanReading vs = vs.sum.tdiv vs.length) ∧
    (vs.length = 4 ∨ vs.length = 5 → ∃ k, k < vs.length ∧ meanReading vs = (vs.eraseIdx k).sum.tdiv (vs.length - 1) ∧
      ∃ sorted : List Int, sorted.Perm vs ∧ sorted.Pairwise (· ≤ ·) ∧
        let twiceMedian := if vs.length = 4 then sorted.getD 1 0 + sorted.getD 2 0 else 2 * sorted.getD 2 0
        let far (i : Nat) : Nat := (2 * vs.getD i 0 - twiceMedian).natAbs
        (∀ i < vs.length, far i ≤ far k) ∧ ∀ i < vs.length, far i = far k → i ≤ k)) ∧
  (∀ (s : State) (side : Side) (p : Pulse),
    let r := s.lvc.sides.get side
    let put (r : SideRecord) : State := { s with lvc := { s.lvc with sides := s.lvc.sides.set side r } }
    let pulsing : ValveState := match p.direction with | .up => .pulsingUp | .down => .pulsingDown
    (r.valve = .idle ∨ r.valve = pulsing → s.givePulse side p = put { r with
      valve := pulsing, pulseEnd := some (s.rif.runTime + BitVec.ofNat 32 p.width), waiting := none }) ∧
    (r.valve ≠ .idle → r.valve ≠ pulsing → r.valve ≠ .reversalGap → s.givePulse side p = put { r with
      valve := .reversalGap, waiting := some p
      pulseEnd := some (s.rif.runTime + BitVec.ofNat 32 (s.settingNat Setting.reversalGap)) }) ∧
    (r.valve = .reversalGap → s.givePulse side p = put { r with waiting := some p }))

/-- PULSE_END (R119): the expiry of the pulse end time ends a running pulse; ends a gap by starting its waiting pulse as from
IDLE with its full width from this moment; and ends a gap without one. That the command brings time to the expiry is log 2's.
-/
def Obligations.PulseEnd : Prop :=
  ∀ (s : State) (side : Side) (expiry : Word), (s.lvc.sides.get side).pulseEnd = some expiry →
    let t := s.runTo expiry
    let r := s.lvc.sides.get side
    let put (r : SideRecord) : State := { t with lvc := { s.lvc with sides := s.lvc.sides.set side r } }
    (r.valve = .pulsingUp ∨ r.valve = .pulsingDown → ∃ u, exec (.pulseEnd side) s = .next u ∧
      u = put { r with valve := .idle, pulseEnd := none, waiting := none } ∧
      u.upOutput side = false ∧ u.downOutput side = false) ∧
    (∀ p, r.valve = .reversalGap → r.waiting = some p → exec (.pulseEnd side) s = .next (put { r with
      valve := match p.direction with | .up => .pulsingUp | .down => .pulsingDown
      pulseEnd := some (t.rif.runTime + BitVec.ofNat 32 p.width), waiting := none })) ∧
    (r.valve = .reversalGap → r.waiting = none →
      exec (.pulseEnd side) s = .next (put { r with valve := .idle, pulseEnd := none, waiting := none }))

/-- CAPTURE (R120): refused WRONG_STATE unless the side's kind is GRADE, its status OK and its last corrected average present;
else the rebase offset becomes 0 and the last corrected average and the zero become their difference before, the in-use set
is kept, and the order is DONE with the new zero. The difference is a free value outside 32 bits (log 13). -/
def Obligations.Capture : Prop :=
  ∀ (s : State) (o : Order), s.orderOf .capture = some o →
    let side : Side := if o.subject = 0 then .left else .right
    let r := s.lvc.sides.get side
    (r.kind ≠ .grade ∨ r.status ≠ .ok ∨ r.lastAverage = none → exec .capture s = .next (s.finishRefused .wrongState)) ∧
    (∀ a, r.kind = .grade → r.status = .ok → r.lastAverage = some a →
      let d := to32 (a.toInt - r.rebase.toInt)
      exec .capture s = .next (State.finishDone
        { s with lvc := { s.lvc with sides := s.lvc.sides.set side { r with rebase := 0, lastAverage := some d, zero := d } } }
        d false false false))

/-- JOG (R121): refused WRONG_STATE outside MANUAL, then RANGE where operand A is not 0 or 1, then RANGE where STRICT forbids a
clamped width; else the width, raised to PULSE_MIN and then lowered to PULSE_MAX, is given to the valve and is the result,
LIMIT set where clamping changed it. In MANUAL no correction starts a pulse, and OFF and HOLD end a running one. -/
def Obligations.JogGivesAPulse : Prop :=
  (∀ (s : State) (o : Order), s.orderOf .jog = some o →
    let side : Side := if o.subject = 0 then .left else .right
    let w := min (s.settingNat Setting.pulseMax) (max (s.settingNat Setting.pulseMin) o.operandB.toNat)
    let limit := decide (w ≠ o.operandB.toNat)
    ((s.lvc.sides.get side).modeSeen ≠ .manual → exec .jog s = .next (s.finishRefused .wrongState)) ∧
    ((s.lvc.sides.get side).modeSeen = .manual →
      (o.operandA.toInt ≠ 0 → o.operandA.toInt ≠ 1 → exec .jog s = .next (s.finishRefused .range)) ∧
      (∀ direction, (o.operandA.toInt, direction) ∈ ([(0, .up), (1, .down)] : List (Int × Direction)) →
        (o.strict = true → limit = true → exec .jog s = .next (s.finishRefused .range)) ∧
        (o.strict = false ∨ limit = false → exec .jog s = .next
          ((s.givePulse side ⟨direction, w⟩).finishDone (BitVec.ofNat 32 w) limit false false)))) ∧
    (∀ reason, (s.finishRefused reason).lvc = s.lvc)) ∧
  (∀ (s : State) (side : Side) (p : Option Pulse), (s.lvc.sides.get side).modeSeen = .manual → s.duePulse side p = s) ∧
  (∀ (r : SideRecord) (mode : SideMode), mode = .off ∨ mode = .hold →
    (r.takeMode mode).valve = .idle ∧ (r.takeMode mode).pulseEnd = none ∧ (r.takeMode mode).waiting = none)

/-! ## Heating (08) -/

/-- ZONE_SAMPLE, CONFIRM_TIMER_EXPIRY and MAX_ON_EXPIRY (R125, R126, R129 to R132). A sample of a counted zone is stored while
the converter runs, then checked: a current fault first, a sensor failure next, and otherwise the temperature moves IDLE,
WAITING and ON. The confirm's end stores the reading and makes the zone ON or FAULT/OPEN_ELEMENT; the max-on timer's end of a
zone in ON rotates it. A fault stores its kind, opens the contactor, is noted, sheds and brings a grant attempt. That max-on
acts in ON alone is the rule's reading of log 33. An expiry command brings time to the timer's expiry, which is the model's
choice (log 2). -/
def Obligations.ZoneSamplesAndTimers : Prop :=
  (∀ (s : State) (k : Fin 24) (z : Zone) (temperature : Int) (current : Nat), s.htc.zones[k.val]? = some z →
    (s.htc.runSeen ≠ .running → s.htc.runSeen ≠ .stopping → exec (.zoneSample k temperature current) s = .next s) ∧
    (s.htc.runSeen = .running ∨ s.htc.runSeen = .stopping →
      let stored : State := { s with htc := { s.htc with
        zones := s.htc.zones.modify k fun z => { z with temperature := some temperature, current := some current } } }
      let closed := z.state = .closing ∨ z.state = .on
      let tooHigh := closed ∧ 1300 < current
      let welds := ¬ closed ∧ 100 ≤ current ∧ 200 ≤ (s.rif.runTime - z.openSince).toNat ∧
        ¬ (z.state = .fault ∧ z.faultKind = some .welded)
      let fails := (4000 < temperature ∨ temperature < -400) ∧ z.state ≠ .disabled ∧ z.state ≠ .fault
      let setpoint := s.setpoint z.sect
      let low := temperature < setpoint - s.setting Setting.hysteresis
      (tooHigh → exec (.zoneSample k temperature current) s = .next (stored.enterFault k .overcurrent)) ∧
      (welds → exec (.zoneSample k temperature current) s = .next (stored.enterFault k .welded)) ∧
      (¬ tooHigh → ¬ welds →
        (fails → exec (.zoneSample k temperature current) s = .next (stored.enterFault k .sensor)) ∧
        (¬ fails →
          (z.state = .idle → low → exec (.zoneSample k temperature current) s = .next (stored.waitZone k).attempt) ∧
          (z.state = .waiting ∨ z.state = .on → setpoint ≤ temperature →
            exec (.zoneSample k temperature current) s = .next (stored.leaveZone k .idle).attempt) ∧
          (z.state = .idle ∧ ¬ low ∨ (z.state = .waiting ∨ z.state = .on) ∧ temperature < setpoint ∨
              z.state = .disabled ∨ z.state = .locked ∨ z.state = .closing ∨ z.state = .fault →
            exec (.zoneSample k temperature current) s = .next stored))))) ∧
  (∀ (s : State) (k : Fin 24) (z : Zone) (expiry : Word) (current : Nat), s.htc.zones[k.val]? = some z →
    let t := s.runTo expiry
    let read (f : Zone → Zone) : State := { t with htc := { t.htc with zones := s.htc.zones.modify k f } }
    z.confirmTimer = some expiry →
    (500 ≤ current → exec (.confirmTimerExpiry k current) s = .next
      (read fun z => { z with current := some current, confirmTimer := none, state := .on })) ∧
    (current < 500 → exec (.confirmTimerExpiry k current) s = .next
      ((read fun z => { z with current := some current, confirmTimer := none }).enterFault k .openElement))) ∧
  (∀ (s : State) (k : Fin 24) (z : Zone) (expiry : Word), s.htc.zones[k.val]? = some z → z.state = .on →
    z.maxOnTimer = some expiry →
    let t := s.runTo expiry
    ((∀ x, z.temperature = some x → x < s.setpoint z.sect) → exec (.maxOnExpiry k) s = .next (t.waitZone k).attempt) ∧
    (∀ x, z.temperature = some x → s.setpoint z.sect ≤ x → exec (.maxOnExpiry k) s = .next (t.leaveZone k .idle).attempt)) ∧
  (∀ (s : State) (sect : Section), s.setpoint sect =
    s.setting (if sect = .mainL ∨ sect = .mainR then 12 else 13) -
      if s.htc.levelSeen = .hold then s.setting Setting.holdOffset else 0) ∧
  (∀ (s : State) (i : Nat) (state : ZoneState),
    let opened (z : Zone) : Zone := { z with
      openSince := if z.state = .closing ∨ z.state = .on then s.rif.runTime else z.openSince
      confirmTimer := none, maxOnTimer := none, state := state }
    s.leaveZone i state = { s with htc := { s.htc with
      zones := s.htc.zones.modify i opened, waiting := s.htc.waiting.filter (· != i) } }) ∧
  (∀ (s : State) (i : Nat) (kind : ZoneFault),
    let t := s.leaveZone i .fault
    let u : State := { t with htc := { t.htc with
      zones := t.htc.zones.modify i fun z => { z with faultKind := some kind } } }
    s.enterFault i kind = ((u.postNote .zoneFault i (BitVec.ofNat 32 kind.code)).shedAll).attempt)

/-- ARBITER_TIMER_EXPIRY, the grant attempt and the grant (R136 to R138). The timer's expiry brings the closing clock to its
moment and makes an attempt: the first waiting zone whose rating fits the available power less the draw and whose time has come
is granted; the arbiter timer is then set to the earliest moment at which a waiting zone that fits meets the time rules. A
grant makes the zone CLOSING, takes it from the list, records the closing and starts the confirm and max-on timers. That the
expiry command brings the run time and the clock to the timer's moment is the model's choice (log 2). -/
def Obligations.PowerArbiterGrants : Prop :=
  (∀ (s : State) (moment : Nat), s.htc.arbiter = some moment →
    exec .arbiterTimerExpiry s = .next (s.advance (moment - s.htc.clock)).attempt) ∧
  (∀ s : State,
    let arbiter (t : State) : State := { t with htc := { t.htc with
      arbiter := (t.htc.waiting.filterMap t.htc.moment).min? } }
    ((∀ i ∈ s.htc.waiting, s.htc.grantable i = false) → s.attempt = arbiter s) ∧
    (∀ before i after, s.htc.waiting = before ++ i :: after → (∀ k ∈ before, s.htc.grantable k = false) →
      s.htc.grantable i = true → s.attempt = arbiter (s.grant i))) ∧
  (∀ (h : Htc) (i : Nat) (z : Zone), h.zones[i]? = some z →
    (h.grantable i = true ↔ h.draw + z.rating ≤ h.available ∧ h.closings.earliest z.sect ≤ h.clock) ∧
    (∀ m, h.moment i = some m ↔ h.draw + z.rating ≤ h.available ∧ m = h.closings.earliest z.sect)) ∧
  (∀ (c : ClosingHistory) (sect : Section) (now : Nat), c.latest.length ≤ 4 → (∀ x ∈ c.latest, x ≤ now) →
    c.latest.Pairwise (· ≤ ·) →
    (c.earliest sect ≤ now ↔
      (∀ x ∈ c.latest, x + 100 ≤ now) ∧ (∀ x, c.bySection.toList[sect.code]? = some (some x) → x + 500 ≤ now) ∧
      c.latest.countP (fun x => decide (now < x + 2000)) < 4)) ∧
  (∀ (s : State) (i : Nat) (z : Zone), s.htc.zones[i]? = some z →
    let timer (setting : SettingId) : Timer := some (s.rif.runTime + BitVec.ofNat 32 (s.settingNat setting))
    s.grant i = { s with htc := { s.htc with
      waiting := s.htc.waiting.filter (· != i)
      closings := ⟨(s.htc.closings.latest ++ [s.htc.clock]).drop (s.htc.closings.latest.length - 3),
        s.htc.closings.bySection.setIfInBounds z.sect.code (some s.htc.clock)⟩
      zones := s.htc.zones.modify i fun z => { z with
        state := .closing, grantTime := some s.rif.runTime, onCount := z.onCount + 1
        confirmTimer := timer Setting.confirmTime, maxOnTimer := timer Setting.maxOn } } })

/-- R137, R138: whatever the command, resets apart, either the closing history stays and no zone enters CLOSING, or one
closing is recorded, at the present moment of the closing clock, of a zone now in CLOSING whose section's time rules that
moment meets, the draw with its rating at or below the available power, and no other zone enters CLOSING. -/
def Obligations.ClosingsKeepTheTimeRules : Prop :=
  ∀ (c : Instr) (s t : State), exec c s = .next t → c ≠ .powerOnReset → (∀ v, c ≠ .softReset v) →
    let inClosing (u : State) (k : Nat) : Prop := ∃ z, u.htc.zones[k]? = some z ∧ z.state = .closing
    t.htc.closings = s.htc.closings ∧ (∀ k, inClosing t k → inClosing s k) ∨
    ∃ i z, t.htc.zones[i]? = some z ∧ z.state = .closing ∧
      t.htc.closings = s.htc.closings.push z.sect t.htc.clock ∧ s.htc.closings.earliest z.sect ≤ t.htc.clock ∧
      t.htc.draw ≤ t.htc.available ∧ ∀ k, k ≠ i → inClosing t k → inClosing s k

/-- REPORT_AGE_EXPIRY, GENERATOR_REPORT, GENERATOR_ABSENCE and BUDGET_SETTING_HANDOFF (R133 to R135): the report held and its
freshness, then the budget in force recomputed. A higher one clears budget low reported and brings an attempt; a lower one
sheds while the draw exceeds the available power, EXTENSION before MAIN and the latest grant first, compares for BUDGET_LOW
and, where it shed, brings an attempt; the same one does nothing. Shedding ends with the draw at or below the available power,
and the zone of BUDGET_LOW is the waiting zone of the least rating, the lower index on a tie. The report age's start and the
moment GEN_TIMEOUT is read, the order of the effects of a fall and the tie of two grants are the model's choices (log 20, log
21, log 22). An expiry command brings time to the timer's expiry, which is the model's choice (log 2). -/
def Obligations.BudgetAndShedding : Prop :=
  (∀ (s : State) (expiry : Word), s.htc.reportAge = some expiry →
    let t := s.runTo expiry
    exec .reportAgeExpiry s = .next (State.recomputeBudget { t with htc := { t.htc with
      reportAge := none, report := s.htc.report.map fun r => { r with fresh := false } } })) ∧
  (∀ (s : State) (rest : List Waiting),
    let u : State := { s with inbox := rest }
    (∀ r, s.FirstWaiting (fun h => (∃ x, h = .generatorReport x) ∨ h = .generatorAbsence) (.generatorReport r) rest →
      exec .generatorReport s = .next (State.recomputeBudget { u with htc := { s.htc with
        report := some ⟨r.power, r.arrival, true⟩
        reportAge := some (r.arrival + BitVec.ofNat 32 (s.settingNat Setting.genTimeout)) } })) ∧
    (s.FirstWaiting (fun h => (∃ x, h = .generatorReport x) ∨ h = .generatorAbsence) .generatorAbsence rest →
      exec .generatorAbsence s = .next
        (State.recomputeBudget { u with htc := { s.htc with report := none, reportAge := none } })) ∧
    (s.FirstWaiting (fun h => h = .budgetSetting) .budgetSetting rest →
      exec .budgetSettingHandoff s = .next u.recomputeBudget)) ∧
  (∀ s : State,
    (∀ r, s.htc.report = some r → r.fresh = true → s.budgetNow = min (s.settingNat Setting.budgetHost) r.power) ∧
    ((∀ r, s.htc.report = some r → r.fresh = false) →
      s.budgetNow = s.settingNat Setting.budgetHost * s.settingNat Setting.fallbackPercent / 100) ∧
    (let u : State := { s with htc := { s.htc with budget := s.budgetNow } }
     (s.budgetNow = s.htc.budget → s.recomputeBudget = u) ∧
     (s.htc.budget < s.budgetNow →
       s.recomputeBudget = State.attempt { u with htc := { u.htc with budgetLow := false } }) ∧
     (s.budgetNow < s.htc.budget →
       (u.htc.draw ≤ u.htc.available → s.recomputeBudget = u.reportLow) ∧
       (u.htc.available < u.htc.draw → s.recomputeBudget = u.shedAll.reportLow.attempt)))) ∧
  (∀ h : Htc, h.available = h.budget * 100 -
      (h.zones.map fun z => if z.state = .fault ∧ z.faultKind = some .welded then z.rating else 0).sum ∧
    h.draw = (h.zones.map fun z => if z.state = .closing ∨ z.state = .on then z.rating else 0).sum) ∧
  (∀ (s : State) (fuel : Nat),
    (s.htc.draw ≤ s.htc.available → State.shed fuel s = s) ∧
    (∀ i, s.htc.available < s.htc.draw → s.htc.victim s.rif.runTime = some i →
      State.shed (fuel + 1) s =
        State.shed fuel ((s.waitZone i).postNote .zoneShed i (BitVec.ofNat 32 s.htc.budget))) ∧
    (∀ i, s.htc.victim s.rif.runTime = some i →
      i ∈ s.htc.closedOf (s.htc.isMain i) ∧ (s.htc.isMain i = true → s.htc.closedOf false = []) ∧
      ∀ k ∈ s.htc.closedOf (s.htc.isMain i), s.htc.grantAge s.rif.runTime i ≤ s.htc.grantAge s.rif.runTime k ∧
        (s.htc.grantAge s.rif.runTime i = s.htc.grantAge s.rif.runTime k → i ≤ k))) ∧
  (∀ s : State, s.shedAll = State.shed s.htc.zones.length s ∧ s.shedAll.htc.draw ≤ s.shedAll.htc.available) ∧
  (∀ h : Htc,
    let rating (i : Nat) : Nat := ((h.zones[i]?).map (·.rating)).getD 0
    (h.smallestWaiting = none ↔ ∀ i ∈ h.waiting, h.zones.length ≤ i) ∧
    (∀ i, h.smallestWaiting = some i → i ∈ h.waiting ∧ i < h.zones.length ∧
      ∀ k ∈ h.waiting, k < h.zones.length → rating i ≤ rating k ∧ (rating i = rating k → i ≤ k))) ∧
  (∀ s : State,
    (s.htc.smallestWaiting = none → s.reportLow = s) ∧
    (∀ i z, s.htc.smallestWaiting = some i → s.htc.zones[i]? = some z →
      (s.htc.budgetLow = true ∨ z.rating ≤ s.htc.budget * 100 → s.reportLow = s) ∧
      (s.htc.budgetLow = false → s.htc.budget * 100 < z.rating →
        let t := s.postNote .budgetLow i (BitVec.ofNat 32 s.htc.budget)
        s.reportLow = { t with htc := { t.htc with budgetLow := true } })))

/-- HEATING_LEVEL_HANDOFF, GEOMETRY_AT_HTC, ZONE_MAP_NEWLY_IN_FORCE, ZONE_MAP_WITHDRAWN and RUN_STATUS_AT_HTC (R124, R127,
R128, R136, R139). Level OFF disables every zone but a WELDED one, opens every contactor and empties the list; a level from
OFF settles the DISABLED zones; a live zone set locks the zones that left it and makes those that entered IDLE, with one
attempt; a map rebuilds or empties the table; a RUN start clears the counts and samples. That open since is set only where the
contactor was commanded closed before is log 43(c), and that a withdrawal leaves the arbiter timer as it stands log 43(g): the
model's choices. -/
def Obligations.HeatingLevelGeometryAndMap : Prop :=
  (∀ (s : State) (rest : List Waiting),
    let u : State := { s with inbox := rest }
    let opened (z : Zone) (state : ZoneState) : Zone := { z with
      openSince := if z.state = .closing ∨ z.state = .on then s.rif.runTime else z.openSince
      confirmTimer := none, maxOnTimer := none, state := state }
    (∀ level, s.FirstWaiting (fun h => ∃ x, h = .heatingLevel x) (.heatingLevel level) rest →
      (level = .off → exec .heatingLevelHandoff s = .next { u with htc := { s.htc with
        levelSeen := .off, waiting := [], arbiter := none
        zones := s.htc.zones.map fun z =>
          if z.state = .fault ∧ z.faultKind = some .welded then z else { opened z .disabled with faultKind := none } } }) ∧
      (level ≠ .off → s.htc.levelSeen ≠ .off →
        exec .heatingLevelHandoff s = .next { u with htc := { s.htc with levelSeen := level } }) ∧
      (level ≠ .off → s.htc.levelSeen = .off → exec .heatingLevelHandoff s = .next { u with htc := { s.htc with
        levelSeen := level
        zones := s.htc.zones.mapIdx fun i z =>
          let standing : ZoneState :=
            if s.htc.enabled i = false then .disabled else if s.htc.liveSeen.has z.sect then .idle else .locked
          if z.state = .disabled then { z with state := standing } else z } })) ∧
    (∀ g, s.FirstWaiting (fun h => ∃ x, h = .geometryToHtc x) (.geometryToHtc g) rest →
      let zones := s.htc.zones.map fun z =>
        if (z.state = .idle ∨ z.state = .waiting ∨ z.state = .closing ∨ z.state = .on) ∧ g.live.has z.sect = false then
          opened z .locked
        else if z.state = .locked ∧ g.live.has z.sect = true then { z with state := .idle } else z
      exec .geometryAtHtc s = .next (State.attempt { u with htc := { s.htc with
        liveSeen := g.live, zones := zones
        waiting := s.htc.waiting.filter fun i => (zones[i]?).any fun z => z.state == .waiting } })) ∧
    (∀ items, s.FirstWaiting (fun h => (∃ x, h = .zoneMapInForce x) ∨ h = .zoneMapWithdrawn) (.zoneMapInForce items) rest →
      exec .zoneMapNewlyInForce s = .next (State.attempt { u with htc := { s.htc with
        waiting := []
        zones := items.mapIdx fun i z =>
          ⟨z.sect, z.rating, z.temperatureInput, z.currentInput, z.contactorOutput, s.htc.settled i z.sect, none, none,
           none, s.rif.runTime, none, 0, none, none⟩ } })) ∧
    (s.FirstWaiting (fun h => (∃ x, h = .zoneMapInForce x) ∨ h = .zoneMapWithdrawn) .zoneMapWithdrawn rest →
      exec .zoneMapWithdrawn s = .next { u with htc := { s.htc with zones := [], waiting := [] } }) ∧
    (∀ status, s.FirstWaiting (fun h => ∃ x, h = .runStatus .htc x) (.runStatus .htc status) rest →
      (status ≠ .running → exec .runStatusAtHtc s = .next { u with htc := { s.htc with runSeen := status } }) ∧
      (status = .running → exec .runStatusAtHtc s = .next { u with htc := { s.htc with
        runSeen := .running, budgetLow := false
        zones := s.htc.zones.map fun z =>
          { z with onCount := 0, temperature := none, current := none, openSince := 0 } } }))) ∧
  (∀ (h : Htc) (i : Nat) (sect : Section), h.settled i sect =
    if h.enabled i = false ∨ h.levelSeen = .off then .disabled else if h.liveSeen.has sect then .idle else .locked) ∧
  (∀ (s : State) (i : Nat), s.waitZone i =
    let t := s.leaveZone i .waiting
    let joined := if t.htc.isMain i then
        t.htc.waiting.filter t.htc.isMain ++ i :: t.htc.waiting.filter (fun k => !t.htc.isMain k)
      else t.htc.waiting ++ [i]
    { t with htc := { t.htc with waiting := joined } })

/-- SET_ZONE and CLEAR_FAULT_ZONE (R140, R141). An operand A other than 0 or 1 is refused RANGE; else the enable is stored, a
DISABLED zone enabled is settled and a zone that may heat disabled leaves its state with an attempt, and the order is DONE
with the zone's state, SOFT for an enabled zone that cannot heat. A zone not in FAULT is refused NOT_FAULTED, a WELDED one
whose current may still flow WRONG_STATE; else it is settled with an attempt, which for a fault other than WELDED is log
46(c), and the order is DONE with its on-count. -/
def Obligations.ZoneOrders : Prop :=
  (∀ (s : State) (o : Order), s.orderOf .setZone = some o →
    let i : Fin 24 := Fin.ofNat 24 o.subject.toNat
    (o.operandA.toInt ≠ 0 → o.operandA.toInt ≠ 1 → exec .setZone s = .next (s.finishRefused .range)) ∧
    (∀ on, o.operandA.toInt = (if on then 1 else 0) →
      let stored : State := { s with htc := { s.htc with enables := s.htc.enables.set i on } }
      let done (t : State) (shown : ZoneState) : State := t.finishDone (BitVec.ofNat 32 shown.code) false
        (on && decide (shown = .disabled ∨ shown = .locked ∨ shown = .fault)) false
      (s.htc.zones[i.val]? = none → exec .setZone s = .next (done stored .disabled)) ∧
      (∀ z, s.htc.zones[i.val]? = some z →
        let leaves := z.state = .locked ∨ z.state = .idle ∨ z.state = .waiting ∨ z.state = .closing ∨ z.state = .on
        let settled := stored.htc.settled i z.sect
        (z.state = .disabled → on = true → exec .setZone s = .next (done { stored with htc := { stored.htc with
          zones := s.htc.zones.modify i fun z => { z with state := settled } } } settled)) ∧
        (leaves → on = false → ∃ t, t = (stored.leaveZone i .disabled).attempt ∧
          exec .setZone s = .next (done t .disabled)) ∧
        (z.state = .fault ∨ z.state = .disabled ∧ on = false ∨ leaves ∧ on = true →
          exec .setZone s = .next (done stored z.state))))) ∧
  (∀ (s : State) (o : Order), s.clearFaultOf 0 = some o →
    let i := o.subject.toNat
    (s.htc.zones[i]? = none → exec .clearFaultZone s = .next (s.finishRefused .notFaulted)) ∧
    (∀ z, s.htc.zones[i]? = some z →
      let held := z.faultKind = some .welded ∧ ∀ c, z.current = some c → 100 ≤ c
      (z.state ≠ .fault → exec .clearFaultZone s = .next (s.finishRefused .notFaulted)) ∧
      (z.state = .fault → held → exec .clearFaultZone s = .next (s.finishRefused .wrongState)) ∧
      (z.state = .fault → ¬ held → exec .clearFaultZone s = .next
        ((State.attempt { s with htc := { s.htc with zones := s.htc.zones.modify i fun x =>
          { x with faultKind := none, state := s.htc.settled i x.sect } } }).finishDone (BitVec.ofNat 32 z.onCount)
          false false false))))

/-! ## Feed (09) -/

/-- FEED_MODE_HANDOFF, MACHINE_STATE_AT_FDC, SENSE_PERIOD_EXPIRY, ON_TIME_END and GRACE_EXPIRY (R143 to R146). A mode starts or
stops the sensing and moves a run state other than JAMMED; the period's expiry closes the switch for SENSE_ON; the end of the
on-time stores the sample, opens the switch, restarts the period less the on-time and judges the sample; three invalid samples
hold the demand for SENSOR_GRACE and three valid ones return the channel; the grace's expiry in HOLDING loses the sensor. An
expiry command brings time to the timer's expiry, which is the model's choice (log 2). -/
def Obligations.FeedModesAndSensing : Prop :=
  (∀ (s : State) (rest : List Waiting),
    let u : State := { s with inbox := rest }
    (∀ state, s.FirstWaiting (fun h => ∃ x, h = .machineToFdc x) (.machineToFdc state) rest →
      exec .machineStateAtFdc s = .next { u with fdc := { s.fdc with machineSeen := state } }) ∧
    (∀ c mode, s.FirstWaiting (fun h => ∃ x, h = .feedMode c x) (.feedMode c mode) rest →
      let r := s.fdc.channels[c]
      let put (r : Channel) : State := { u with fdc := { s.fdc with channels := s.fdc.channels.set c r } }
      let moved (run : FeedState) : Channel :=
        if r.run = .jammed ∨ r.run = run then r else { r with run := run, speedCount := 0 }
      let quiet (r : Channel) : Channel := { r with
        modeSeen := mode, senseTimer := .stopped, supplyClosed := false, invalidCount := 0, validCount := 0, level := none }
      let automatic (m : FeedMode) := m = .autoLevel ∨ m = .autoFlow
      (mode = .off → exec (.feedModeHandoff c) s = .next
        ((put { quiet (moved .idle) with graceTimer := none }).recomputeDemand c)) ∧
      (mode = .manual → exec (.feedModeHandoff c) s = .next
        ((put { quiet (moved .running) with graceTimer := none }).recomputeDemand c)) ∧
      (automatic mode → ¬ automatic r.modeSeen →
        let first := s.rif.runTime + BitVec.ofNat 32 (if s.fdc.machineSeen = .pave then 50 else 200)
        exec (.feedModeHandoff c) s = .next
          ((put { quiet (moved .running) with senseTimer := .period first }).recomputeDemand c)) ∧
      (automatic mode → automatic r.modeSeen → exec (.feedModeHandoff c) s = .next
        ((put { r with modeSeen := mode }).recomputeDemand c)))) ∧
  (∀ (s : State) (c : Fin 4) (expiry : Word),
    let t := s.runTo expiry
    let r := s.fdc.channels[c]
    let put (r : Channel) : State := { t with fdc := { s.fdc with channels := s.fdc.channels.set c r } }
    let moved (r : Channel) (run : FeedState) : Channel := { r with run := run, speedCount := 0 }
    let grace : Timer := some (t.rif.runTime + BitVec.ofNat 32 (s.settingNat Setting.sensorGrace))
    let length := s.settingNat Setting.senseOn
    (r.senseTimer = .period expiry → exec (.sensePeriodExpiry c) s = .next (put { r with
      supplyClosed := true, senseTimer := .onTime (t.rif.runTime + BitVec.ofNat 32 length) length })) ∧
    (∀ on sample, r.senseTimer = .onTime expiry on →
      let valid := 50 ≤ sample ∧ sample ≤ 950
      let read : Channel := { r with
        lastSample := some sample, supplyClosed := false
        senseTimer := .period (t.rif.runTime + BitVec.ofNat 32 ((if s.fdc.machineSeen = .pave then 50 else 200) - on))
        level := if valid then some ((sample - 50) * 1000 / 900) else r.level
        invalidCount := if valid then 0 else min 3 (r.invalidCount + 1)
        validCount := if valid then min 3 (r.validCount + 1) else 0 }
      (r.run = .running → valid → exec (.onTimeEnd c sample) s = .next ((put read).recomputeDemand c)) ∧
      (r.run = .running → ¬ valid → read.invalidCount < 3 → exec (.onTimeEnd c sample) s = .next (put read)) ∧
      (r.run = .running → ¬ valid → read.invalidCount = 3 → exec (.onTimeEnd c sample) s = .next
        ((put { moved read .holding with graceTimer := grace }).settleStall c)) ∧
      (r.run = .holding → valid → read.validCount = 3 → exec (.onTimeEnd c sample) s = .next
        ((put { moved read .running with graceTimer := none }).recomputeDemand c)) ∧
      (r.run = .sensorLost → valid → read.validCount = 3 → exec (.onTimeEnd c sample) s = .next
        (((put { moved read .running with graceTimer := none }).recomputeDemand c).postNote .sensorRestored c.val
          (BitVec.ofNat 32 ((sample - 50) * 1000 / 900)))) ∧
      (r.run = .idle ∨ r.run = .jammed ∨ (r.run = .holding ∨ r.run = .sensorLost) ∧ (¬ valid ∨ read.validCount < 3) →
        exec (.onTimeEnd c sample) s = .next (put read))) ∧
    (r.graceTimer = some expiry →
      (r.run = .holding → exec (.graceExpiry c) s = .next
        ((put { moved r .sensorLost with graceTimer := none, demand := 0, stallTimer := none }).postNote .sensorLost c.val
          (BitVec.ofNat 32 (r.lastSample.getD 0)))) ∧
      (r.run ≠ .holding → exec (.graceExpiry c) s = .next (put { r with graceTimer := none }))))

/-- STALL_EXPIRY, SPEED_PULSE, SPEED_HANDOFF, GEOMETRY_AT_FDC and CLEAR_FAULT_CHANNEL, the demand and the stall timer (R147 to
R151, R153). The expiry jams the channel, noted with its demand, and a jammed auger couples its conveyor; a pulse is counted
and restarts a running stall timer while the demand is at or above JAM_DEMAND, read then; speed and half-widths move the
AUTO_FLOW channels; CLEAR_FAULT of a JAMMED channel gives it the run state of its mode, uncouples its conveyor and is DONE with
the speed count. A pulse on a running timer whose demand is by then below JAM_DEMAND stops it, for which R150 states nothing:
that is the model's choice (log 49, DESIGN CHOICE). An expiry command brings time to the timer's expiry, which is the model's
choice (log 2). -/
def Obligations.FeedDemandJamsAndClears : Prop :=
  (∀ (s : State) (c : Fin 4),
    let r := s.fdc.channels[c]
    (∀ expiry, r.stallTimer = some expiry →
      let t := s.runTo expiry
      let jammed : Channel := { r with
        run := .jammed, demand := 0, stallTimer := none, graceTimer := none
        speedCount := if r.run = .jammed then r.speedCount else 0 }
      let u := State.postNote { t with fdc := { s.fdc with channels := s.fdc.channels.set c jammed } } .feedJam c.val
        (BitVec.ofNat 32 r.demand)
      (c = 0 ∨ c = 1 → exec (.stallExpiry c) s = .next u) ∧
      (∀ k : Fin 4, (c, k) ∈ ([(2, 0), (3, 1)] : List (Fin 4 × Fin 4)) →
        let coupled := u.fdc.channels.set k { u.fdc.channels[k] with coupled := true, demand := 0 }
        exec (.stallExpiry c) s = .next (State.settleStall { u with fdc := { u.fdc with channels := coupled } } k))) ∧
    exec (.speedPulse c) s = .next { s with fdc := { s.fdc with channels := s.fdc.channels.set c { r with
      speedCount := r.speedCount + 1
      stallTimer := if r.stallTimer ≠ none ∧ s.settingNat Setting.jamDemand ≤ r.demand ∧ r.run ≠ .jammed then
          some (s.rif.runTime + BitVec.ofNat 32 (s.settingNat Setting.stallTime)) else none } } }) ∧
  (∀ (s : State) (rest : List Waiting),
    let flow (t : State) : State := ([0, 1, 2, 3] : List (Fin 4)).foldl
      (fun t c => if (t.fdc.channels[c]).modeSeen = .autoFlow then t.recomputeDemand c else t) t
    (∀ speed, s.FirstWaiting (fun h => ∃ x, h = .speedToFdc x) (.speedToFdc speed) rest →
      exec .speedHandoff s = .next (flow { s with inbox := rest, fdc := { s.fdc with speedSeen := speed } })) ∧
    (∀ g, s.FirstWaiting (fun h => ∃ x, h = .geometryToFdc x) (.geometryToFdc g) rest →
      exec .geometryAtFdc s = .next
        (flow { s with inbox := rest, fdc := { s.fdc with halfLeft := g.halfLeft, halfRight := g.halfRight } }))) ∧
  (∀ (s : State) (o : Order), s.clearFaultOf 1 = some o →
    let c : Fin 4 := Fin.ofNat 4 o.subject.toNat
    let r := s.fdc.channels[c]
    (r.run ≠ .jammed → exec .clearFaultChannel s = .next (s.finishRefused .notFaulted)) ∧
    (r.run = .jammed →
      let run : FeedState := match r.modeSeen with
        | .off => .idle
        | .manual => .running
        | .autoLevel | .autoFlow => if r.invalidCount < 3 then .running else .holding
      let cleared : Channel := { r with
        run := run, speedCount := 0
        graceTimer := if run = .holding then some (s.rif.runTime + BitVec.ofNat 32 (s.settingNat Setting.sensorGrace))
          else none }
      let u := State.recomputeDemand { s with fdc := { s.fdc with channels := s.fdc.channels.set c cleared } } c
      let done (t : State) : State := t.finishDone (BitVec.ofNat 32 r.speedCount) false false false
      (c = 0 ∨ c = 1 → exec .clearFaultChannel s = .next (done u)) ∧
      (∀ k : Fin 4, (c, k) ∈ ([(2, 0), (3, 1)] : List (Fin 4 × Fin 4)) →
        let free := u.fdc.channels.set k { u.fdc.channels[k] with coupled := false }
        exec .clearFaultChannel s = .next
          (done (State.recomputeDemand { u with fdc := { u.fdc with channels := free } } k))))) ∧
  (∀ (s : State) (c : Fin 4),
    let r := s.fdc.channels[c]
    let levelSet := s.setting (Fin.ofNat 47 (21 + c.val))
    let term (level : Nat) : Int := ((levelSet - level) * s.setting Setting.levelGain).tdiv 10
    let drive := s.fdc.speedSeen * s.settingNat Setting.flowFactor
    let flow := if c = 2 then drive * s.fdc.halfLeft / 150000 else if c = 3 then drive * s.fdc.halfRight / 150000
      else drive * (s.fdc.halfLeft + s.fdc.halfRight) / 300000
    ∃ demand : Nat,
      s.recomputeDemand c = State.settleStall
        { s with fdc := { s.fdc with channels := s.fdc.channels.set c { r with demand := demand } } } c ∧
      (r.coupled = true ∨ r.run = .idle ∨ r.run = .sensorLost ∨ r.run = .jammed → demand = 0) ∧
      (r.coupled = false → r.run = .holding → demand = r.demand) ∧
      (r.coupled = false → r.run = .running →
        (r.modeSeen = .off → demand = 0) ∧ (r.modeSeen = .manual → demand = r.manual) ∧
        (r.modeSeen = .autoLevel ∨ r.modeSeen = .autoFlow → r.level = none → demand = 0) ∧
        (∀ level, r.level = some level →
          (r.modeSeen = .autoLevel → levelSet ≤ level → demand = 0) ∧
          (r.modeSeen = .autoLevel → level < levelSet → (demand : Int) = max 0 (min 1000 (s.setting Setting.feedBase + term level))) ∧
          (r.modeSeen = .autoFlow → (demand : Int) = max 0 (min 1000 (flow + term level)))))) ∧
  (∀ (s : State) (c : Fin 4),
    let r := s.fdc.channels[c]
    s.settleStall c = { s with fdc := { s.fdc with channels := s.fdc.channels.set c { r with
      stallTimer := if s.settingNat Setting.jamDemand ≤ r.demand ∧ r.run ≠ .jammed then
          match r.stallTimer with
          | some expiry => some expiry
          | none => some (s.rif.runTime + BitVec.ofNat 32 (s.settingNat Setting.stallTime))
        else none } } })

/-! ## Records (10) -/

/-- CHAINAGE_ADVANCE_AT_MRU, TRAVEL_STATUS_AT_MRU, FALLBACK_TIMER_EXPIRY and GEOMETRY_AT_MRU, and every trigger (R154, R156 to
R158, R160). In RUN with travel LIVE an advance that crosses k trigger points makes one trigger and counts k − 1 missed; in
STOPMARK the next trigger only moves on. The fallback timer runs in RUN while travel is not LIVE and each expiry makes an
UNPLACED trigger. A trigger is missed in a reference cycle, with a line in flight or without a scanner; else it captures the
line. That an advance while travel is not LIVE makes no trigger is log 38's, and that the one trigger is judged before the
others are counted is log 24's. An expiry command brings time to the timer's expiry, which is the model's choice (log 2). -/
def Obligations.TriggersByChainageAndTime : Prop :=
  (∀ (s : State) (c : Word) (rest : List Waiting),
    s.FirstWaiting (fun h => ∃ x, h = .advanceToMru x) (.advanceToMru c) rest →
    let seen := if s.mru.chainageSeen ≤ c then c else s.mru.chainageSeen
    let u : State := { s with inbox := rest, mru := { s.mru with chainageSeen := seen } }
    let spacing := s.settingNat Setting.lineSpacing
    (s.mru.recordsSeen = .off ∨ s.mru.nextTrigger = none ∨ s.mru.recordsSeen = .run ∧ s.mru.travelSeen ≠ .live →
      exec .chainageAdvanceAtMru s = .next u) ∧
    (∀ next, s.mru.nextTrigger = some next →
      let k := 1 + (seen.toNat - next) / spacing
      (s.mru.recordsSeen ≠ .off → seen.toNat < next → exec .chainageAdvanceAtMru s = .next u) ∧
      (s.mru.recordsSeen = .run → s.mru.travelSeen = .live → next ≤ seen.toNat →
        let t := u.trigger false
        exec .chainageAdvanceAtMru s = .next
          { t with mru := { t.mru.miss (k - 1) .spacing with nextTrigger := some (next + k * spacing) } }) ∧
      (s.mru.recordsSeen = .stopmark → next ≤ seen.toNat →
        exec .chainageAdvanceAtMru s = .next { u with mru := { u.mru with nextTrigger := some (next + k * spacing) } } ∧
        (0 < spacing → seen.toNat < next + k * spacing)))) ∧
  (∀ (s : State) (rest : List Waiting),
    let after (ms : Nat) (u : State) : Word := u.rif.runTime + BitVec.ofNat 32 ms
    let interval := s.settingNat Setting.fallbackInterval
    (∀ status, s.FirstWaiting (fun h => ∃ x, h = .travelToMru x) (.travelToMru status) rest →
      let put (timer : Timer) : State :=
        { s with inbox := rest, mru := { s.mru with travelSeen := status, fallbackTimer := timer } }
      (s.mru.recordsSeen ≠ .run ∨ status = .live → exec .travelStatusAtMru s = .next (put none)) ∧
      (s.mru.recordsSeen = .run → status ≠ .live → exec .travelStatusAtMru s = .next
        (put (some (s.mru.fallbackTimer.getD (after interval s)))))) ∧
    (∀ g, s.FirstWaiting (fun h => ∃ x, h = .geometryToMru x) (.geometryToMru g) rest →
      exec .geometryAtMru s = .next { s with inbox := rest, mru := { s.mru with geometry := g } }) ∧
    (∀ expiry, s.mru.fallbackTimer = some expiry →
      let t := s.runTo expiry
      exec .fallbackTimerExpiry s = .next
        (State.trigger { t with mru := { s.mru with fallbackTimer := some (after interval t) } } true))) ∧
  (∀ (s : State) (unplaced : Bool),
    let m := s.mru
    let missed (reason : GapReason) : State := { s with mru := m.miss 1 reason }
    (m.referencePhase ≠ .idle → s.trigger unplaced = missed .reference) ∧
    (m.referencePhase = .idle → m.line.isSome = true → s.trigger unplaced = missed .busy) ∧
    (m.referencePhase = .idle → m.line = none →
      m.scannerSeen = none ∨ m.scannerSeen = some .dropped ∨ m.scannerSeen = some .mismatch →
      s.trigger unplaced = missed .scanner) ∧
    (m.referencePhase = .idle → m.line = none →
      m.scannerSeen = some .active ∨ m.scannerSeen = some .suspect ∨ m.scannerSeen = some .unconfirmed →
      let g := m.geometry
      let line : LineInFlight := ⟨m.chainageSeen, s.rif.runTime, g.windowFirst, g.windowCount, g.halfLeft, g.halfRight,
        g.sequence, unplaced, decide (g.width = .stale), m.afterStop, .triggerWait⟩
      s.trigger unplaced = { s with
        mru := { m with line := some line, afterStop := false, queue := m.queue ++ [.linePlace] }
        inbox := s.inbox ++ [⟨false, .scannerRequest .trigger⟩] })) ∧
  (∀ (m : Mru) (n : Nat) (reason : GapReason),
    m.miss 0 reason = m ∧
    (0 < n → m.miss n reason = { m with
      triggersMissed := m.triggersMissed + BitVec.ofNat 32 n
      pendingGap := some (match m.pendingGap with
        | some g => { g with missed := g.missed + BitVec.ofNat 32 n }
        | none => ⟨0, BitVec.ofNat 32 n, reason⟩) }))

/-- SCANNER_RESULT, SCANNER_STATE_AT_MRU and EXPOSURE_TIMER_EXPIRY (R158 to R160, R165). A TRIGGER completed starts the 20 ms
exposure, whose end asks for the LINE; a LINE completed produces one line, checked, counted toward the thermal run and joined
to the queue at its trigger's place with 12 or fewer entries queued, or 11 or fewer behind a pending GAP, else lost; a failure
gives the line up and misses its trigger. The pending GAP of a line is that of its records period: where a later period has
begun since its trigger, what the line's own period left at its close mark (log 27). A result that nothing waits for leaves only the state seen (log 3), and so does the
failure of a STATUS read, which no line and no reference cycle has asked for (log 18). An expiry command brings time to the
timer's expiry, which is the model's choice (log 2). -/
def Obligations.LinesAreReadCheckedAndOffered : Prop :=
  (∀ (s : State) (rest : List Waiting) (seen : Option HeadState),
    let channel := fun h => (∃ x y, h = Handoff.scannerAnswer x y) ∨ ∃ x, h = .scannerState x
    let u : State := { s with inbox := rest, mru := { s.mru with scannerSeen := seen } }
    let after (ms : Nat) : Timer := some (s.rif.runTime + BitVec.ofNat 32 ms)
    (s.FirstWaiting channel (.scannerState seen) rest → exec .scannerStateAtMru s = .next u) ∧
    (∀ points, s.FirstWaiting channel (.scannerAnswer (.completed .trigger points) seen) rest →
      (∀ l, s.mru.line = some l → l.phase = .triggerWait → exec .scannerResult s = .next { u with
        mru := { u.mru with line := some { l with phase := .exposing }, exposureTimer := after 20 } }) ∧
      ((∀ l, s.mru.line = some l → l.phase ≠ .triggerWait) → exec .scannerResult s = .next u)) ∧
    (∀ points, s.FirstWaiting channel (.scannerAnswer (.completed .line points) seen) rest →
      (∀ l, s.mru.line = some l → l.phase = .lineWait → exec .scannerResult s = .next (u.produceLine l points)) ∧
      ((∀ l, s.mru.line = some l → l.phase ≠ .lineWait) → exec .scannerResult s = .next u)) ∧
    (∀ points, s.FirstWaiting channel (.scannerAnswer (.completed .reference points) seen) rest →
      (s.mru.referencePhase = .wait → exec .scannerResult s = .next { u with
        mru := { u.mru with referencePhase := .busy, cycleTimer := after 1500 } }) ∧
      (s.mru.referencePhase ≠ .wait → exec .scannerResult s = .next u)) ∧
    (∀ answer, answer = .failed ∨ answer = .notIssued → s.FirstWaiting channel (.scannerAnswer answer seen) rest →
      (∀ l, s.mru.line = some l → l.phase ≠ .exposing → exec .scannerResult s = .next u.giveUpLine) ∧
      (∀ l, s.mru.line = some l → l.phase = .exposing → exec .scannerResult s = .next u) ∧
      (s.mru.line = none → s.mru.referencePhase = .wait → exec .scannerResult s = .next u.endCycle) ∧
      (s.mru.line = none → s.mru.referencePhase ≠ .wait → exec .scannerResult s = .next u)) ∧
    (s.FirstWaiting channel (.scannerAnswer .statusFailed seen) rest → exec .scannerResult s = .next u) ∧
    (∀ expiry, s.mru.exposureTimer = some expiry →
      let t := s.runTo expiry
      (∀ l, s.mru.line = some l → l.phase = .exposing → exec .exposureTimerExpiry s = .next { t with
        mru := { s.mru with exposureTimer := none, line := some { l with phase := .lineWait } }
        inbox := s.inbox ++ [⟨false, .scannerRequest .line⟩] }) ∧
      ((∀ l, s.mru.line = some l → l.phase ≠ .exposing) → exec .exposureTimerExpiry s = .next
        { t with mru := { s.mru with exposureTimer := none } }))) ∧
  (∀ (s : State) (l : LineInFlight) (points : List Half),
    let e := s.checkLine l points
    let without (m : Mru) : Mru := { m with line := none }
    let place (q : List QueueItem) (es : List Entry) : List QueueItem :=
      q.flatMap fun i => if i = .linePlace then es.map .entry else [i]
    (s.produceLine l points = State.releaseCycle (State.offerLine (State.followThermal
      { s with mru := { without s.mru with linesProduced := s.mru.linesProduced + 1 } } e) e)) ∧
    let counted (lost missed : Word) (reason : GapReason) : Mru := (without s.mru).setLineGap (some
      (match s.mru.lineGap with
        | some g => { g with lost := g.lost + lost, missed := g.missed + missed }
        | none => ⟨lost, missed, reason⟩))
    (s.giveUpLine = State.releaseCycle (State.drive (let m := counted 0 1 .scanner
      { s with mru := { m with queue := place m.queue [], triggersMissed := m.triggersMissed + 1 } }) false)) ∧
    (s.releaseCycle = if s.mru.referencePhase = .pending then
        { s with mru := { s.mru with referencePhase := .wait }, inbox := s.inbox ++ [⟨false, .scannerRequest .reference⟩] }
      else s) ∧
    (∀ e : LineEntry,
      let lost : State := State.drive (State.reportLoss (let m := counted 1 0 .queue
        { s with mru := { m with line := s.mru.line, queue := place m.queue [], linesLost := m.linesLost + 1 } }) 0) false
      (s.mru.lineGap = none →
        (s.mru.entriesQueued ≤ 12 → s.offerLine e = State.drive
          { s with mru := { s.mru with queue := place s.mru.queue [.line e] } } true) ∧
        (12 < s.mru.entriesQueued → s.offerLine e = lost)) ∧
      (∀ g, s.mru.lineGap = some g →
        let gap : Entry := .gap e.line.chainage e.line.runTime g.lost g.missed g.reason
        (s.mru.entriesQueued ≤ 11 → s.offerLine e = State.drive (let m := s.mru.setLineGap none
          { s with mru := { m with queue := place m.queue [gap, .line e] } }) true) ∧
        (11 < s.mru.entriesQueued → s.offerLine e = lost)))) ∧
  (∀ (m : Mru) (gap : Option PendingGap),
    let noneLeft (q : List QueueItem) : Prop := ∀ left, .closePast left ∉ q
    (noneLeft m.queue ∨ .linePlace ∉ m.queue → m.lineGap = m.pendingGap ∧ m.setLineGap gap = { m with pendingGap := gap }) ∧
    (∀ pre post, m.queue = pre ++ .linePlace :: post → .linePlace ∉ pre →
      (noneLeft post → m.lineGap = m.pendingGap ∧ m.setLineGap gap = { m with pendingGap := gap }) ∧
      (∀ between left rest, post = between ++ .closePast left :: rest → noneLeft between → m.lineGap = left.gap ∧
        m.setLineGap gap =
          { m with queue := pre ++ .linePlace :: (between ++ .closePast { left with gap := gap } :: rest) }))) ∧
  (∀ (s : State) (l : LineInFlight) (points : List Half),
    let e := s.checkLine l points
    let window := (points.drop l.windowFirst).take l.windowCount
    let readings := (window.filter fun p => p != 0x8000#16).map (·.toInt)
    let cold := readings.countP fun v => decide (v < s.setting Setting.coldLimit)
    e.line = l ∧ e.points = window ∧ e.coldCount = cold ∧ (e.cold = true ↔ 0 < cold) ∧
    (readings = [] → 0 ≤ s.setting Setting.spreadLimit →
      e.mean = -32768 ∧ e.minIndex = 255 ∧ e.maxIndex = 255 ∧ e.spread = false ∧ e.cold = false) ∧
    (readings ≠ [] → e.mean = readings.sum.tdiv readings.length) ∧
    (∀ low high, low ∈ readings → high ∈ readings → (∀ v ∈ readings, low ≤ v ∧ v ≤ high) →
      (e.spread = true ↔ s.setting Setting.spreadLimit < high - low) ∧
      let first (v : Int) (i : Nat) : Prop := (window[i]?).map (·.toInt) = some v ∧
        ∀ j < i, (window[j]?).map (·.toInt) ≠ some v
      first low e.minIndex ∧ first high e.maxIndex)) ∧
  (∀ (s : State) (e : LineEntry),
    let readings := (e.points.filter fun p => p != 0x8000#16).map (·.toInt)
    let count := min 50 (s.mru.thermalRun + 1)
    let u : State := { s with mru := { s.mru with thermalRun := count } }
    (e.spread = true ∨ e.cold = true →
      (s.settingNat Setting.runCount ≤ count → s.mru.thermalReported = false →
        let v := u.postNote .thermalRun 0 (BitVec.ofInt 32 (spreadOf readings))
        s.followThermal e = { v with mru := { v.mru with thermalReported := true } }) ∧
      (count < s.settingNat Setting.runCount ∨ s.mru.thermalReported = true → s.followThermal e = u)) ∧
    (e.spread = false → e.cold = false → readings ≠ [] →
      s.followThermal e = { s with mru := { s.mru with thermalRun := 0, thermalReported := false } }) ∧
    (e.spread = false → e.cold = false → readings = [] → s.followThermal e = s)) ∧
  (spreadOf [] = 0 ∧ ∀ (readings : List Int) (low high : Int), low ∈ readings → high ∈ readings →
    (∀ v ∈ readings, low ≤ v ∧ v ≤ high) → spreadOf readings = high - low) ∧
  (∀ (s : State) (subject : Nat),
    (s.mru.lossReported = true → s.reportLoss subject = s) ∧
    (s.mru.lossReported = false →
      let page : Word := match s.mru.openPage with | some p => p.pageSequence | none => 0
      let u := s.postNote .recordLoss subject page
      s.reportLoss subject = { u with mru := { u.mru with lossReported := true } }))

/-- PAUSE_START_AT_MRU, PAUSE_END_AT_MRU, RECORDS_MODE_HANDOFF, CONSOLE_MARK_AT_MRU and MARK (R154, R156, R157, R161, R163 to
R165). A pause start enters STOPMARK, makes an open STOP, or the pending stop when 16 are queued, and runs a postponed
reference cycle where none is under way (log 29); its end completes the STOP and brings the records mode that follows in the
same event (R21); RUN from OFF takes TRM's chainage and sets the next trigger, a close mark not yet reached keeping the pending
GAP of its own period (log 27); OFF places a close mark. A mark is refused, or a console mark lost, as the table has it, else it
joins; a console mark above the chainage seen raises it (log 50). That a discarded STOP's note is posted whatever loss is
reported, and its value, are log 25's; the run time of a console mark placed at the chainage seen is log 46(d)'s. -/
def Obligations.PausesModesAndMarks : Prop :=
  (∀ (s : State) (rest : List Waiting),
    let channel := fun h => (∃ x, h = Handoff.pauseStart x) ∨ (∃ x y, h = .pauseEnd x y) ∨ ∃ x, h = .recordsMode x
    let u : State := { s with inbox := rest }
    let now := s.rif.runTime
    (∀ cause, s.FirstWaiting channel (.pauseStart cause) rest →
      let m : Mru := { s.mru with recordsSeen := .stopmark, fallbackTimer := none }
      let stop : StopEntry := ⟨s.mru.chainageSeen, now, none⟩
      let v : State :=
        if s.mru.pendingStop.isSome then
          State.drive (State.postNote { u with mru := m } .recordLoss 2
            (match s.mru.openPage with | some p => p.pageSequence | none => 0)) false
        else if s.mru.entriesQueued < 16 then
          State.drive { u with mru := { m with queue := s.mru.queue ++ [.entry (.stop stop)] } } true
        else { u with mru := { m with pendingStop := some stop, queue := s.mru.queue ++ [.stopPlace] } }
      exec .pauseStartAtMru s = .next
        (if 0 < s.mru.postponeCount ∧ s.mru.referencePhase = .idle then v.runCycle else v)) ∧
    (∀ cause mode, s.FirstWaiting channel (.pauseEnd cause mode) rest →
      let complete (p : StopEntry) : StopEntry :=
        if p.ended = none then { p with ended := some (now - p.runTime, cause) } else p
      exec .pauseEndAtMru s = .next (State.drive (State.takeRecords
        { u with mru := { s.mru with
          afterStop := true
          pendingStop := s.mru.pendingStop.map complete
          queue := s.mru.queue.map fun i => match i with
            | .entry (.stop p) => .entry (.stop (complete p))
            | i => i } } mode) false)) ∧
    (∀ mode, s.FirstWaiting channel (.recordsMode mode) rest → exec .recordsModeHandoff s = .next (u.takeRecords mode)) ∧
    (∀ code runTime chainage,
      s.FirstWaiting (fun h => ∃ x y z, h = .consoleMark x y z) (.consoleMark code runTime chainage) rest →
      (s.mru.recordsSeen = .off → exec .consoleMarkAtMru s = .next u) ∧
      (s.mru.recordsSeen ≠ .off → 16 ≤ s.mru.entriesQueued ∨ s.mru.pendingStop.isSome = true →
        exec .consoleMarkAtMru s = .next (u.reportLoss 1)) ∧
      (s.mru.recordsSeen ≠ .off → s.mru.entriesQueued < 16 → s.mru.pendingStop = none →
        let c : Word := if s.mru.chainageSeen ≤ chainage then chainage else s.mru.chainageSeen
        exec .consoleMarkAtMru s = .next (State.drive
          { u with mru := { s.mru with
            chainageSeen := c, queue := s.mru.queue ++ [.entry (.mark c runTime code .console)] } } true)))) ∧
  (∀ s : State,
    let fallback : Timer := if s.mru.travelSeen = .live then none
      else some (s.mru.fallbackTimer.getD (s.rif.runTime + BitVec.ofNat 32 (s.settingNat Setting.fallbackInterval)))
    let m : Mru := { s.mru with recordsSeen := .run, fallbackTimer := fallback }
    let begun : Mru := { m with
      chainageSeen := s.trm.chainage, nextTrigger := some (s.trm.chainage.toNat + s.settingNat Setting.lineSpacing) }
    let past (gap : Option PendingGap) : QueueItem := .closePast ⟨gap, s.mru.chainageSeen, s.rif.runTime⟩
    (s.mru.recordsSeen = .off → .closeMark ∉ s.mru.queue → s.takeRecords .run = { s with mru := begun }) ∧
    (∀ pre post, s.mru.recordsSeen = .off → s.mru.queue = pre ++ .closeMark :: post → .closeMark ∉ pre →
      s.takeRecords .run = { s with mru := { begun with
        pendingGap := none
        queue := pre ++ past s.mru.pendingGap :: post.map fun i => if i = .closeMark then past none else i } }) ∧
    (s.mru.recordsSeen ≠ .off → s.takeRecords .run = { s with mru := m }) ∧
    (s.takeRecords .off = State.drive { s with mru := { s.mru with
      recordsSeen := .off, afterStop := false, fallbackTimer := none, queue := s.mru.queue ++ [.closeMark] } } false) ∧
    (s.takeRecords .stopmark = { s with mru := { s.mru with recordsSeen := .stopmark, fallbackTimer := none } })) ∧
  (∀ (s : State) (o : Order), s.orderOf .mark = some o →
    let code := o.operandA.toInt
    (code < 0 ∨ 65535 < code → exec .mark s = .next (s.finishRefused .range)) ∧
    (0 ≤ code → code ≤ 65535 →
      (s.mru.recordsSeen = .off → exec .mark s = .next (s.finishRefused .wrongState)) ∧
      (s.mru.recordsSeen ≠ .off → 16 ≤ s.mru.entriesQueued ∨ s.mru.pendingStop.isSome = true →
        exec .mark s = .next (s.finishRefused .queueFull)) ∧
      (s.mru.recordsSeen ≠ .off → s.mru.entriesQueued < 16 → s.mru.pendingStop = none →
        let entry : Entry := .mark s.mru.chainageSeen s.rif.runTime (BitVec.ofInt 16 code) (.order o.stamp)
        exec .mark s = .next (State.finishDone
          (State.drive { s with mru := { s.mru with queue := s.mru.queue ++ [.entry entry] } } true)
          (BitVec.ofNat 32 (s.mru.entriesQueued + 1)) false false false))))

/-- PAGE_SEARCH_READ_DONE, ENTRY_WRITE_DONE, PAGE_CLOSE_DONE, SWEEP_EXPIRY_AT_MRU and FLUSH_RECORDS, and the writer (R155,
R161 to R164, R166). FOR_PART opens the page sought; an entry written leaves the queue, counts a LINE as written and lets the
pending stop in; a page closed is handed to the host, its owner written last. A FLUSH of an open page with entries waits for
its close; any other is DONE with 0 (log 26). The writer takes one entry or close mark at a time, and only the head of the
queue. A close mark's GAP, the one its period has pending when the writer reaches the mark, is written ahead of the mark, and
no later period's; where a later period has begun, it carries the chainage seen and run time of its period's end, and where it
finds no room it stays pending with the next period's (log 27); records are quiet only with the records mode OFF (log 28) and whatever the reference cycle (log 46(f)). While a page operation is in
flight nothing more is begun (log 46(e)). In STOPPING a search is made whenever an entry is ready and no page is open (log
43), and what the end of a drain discards posts no note (log 25). The bytes of an entry and of a page's header are those of
12.6; the bit each LINE flag takes is log 47, the 0 of a console mark's stamp log 44. -/
def Obligations.PagesAreFoundFilledAndHanded : Prop :=
  (∀ (s : State) (host : HostWrites) (i : Nat), s.mru.op = .search i →
    let u := s.hostWrite host
    let m : Mru := { s.mru with op := .none }
    let forPart := leNat (u.regionRead (s.rif.layoutCopy.ringOffset + 4096 * i) 1) = 1
    (forPart → exec (.pageSearchReadDone host) s = .next (State.drive { u with mru := { m with
      openPage := some ⟨i, s.mru.nextPage, 0, [], 0, 0, 0⟩, nextPage := s.mru.nextPage + 1, lossReported := false
      searchIndex := (i + 1) % s.rif.layoutCopy.pageCount } } false)) ∧
    (¬ forPart → s.mru.runSeen ≠ .stopping → exec (.pageSearchReadDone host) s = .next { u with mru := m }) ∧
    (¬ forPart → s.mru.runSeen = .stopping → exec (.pageSearchReadDone host) s = .next (State.drive { u with mru := { m with
      linesLost := s.mru.linesLost + BitVec.ofNat 32 s.mru.linesQueued, pendingGap := none, pendingStop := none
      queue := s.mru.queue.filterMap fun i => match i with
        | .entry _ | .stopPlace => none
        | .closePast left => some (.closePast { left with gap := none })
        | .linePlace | .closeMark | .closeDue => some i } } false))) ∧
  (∀ (s : State) (sequence : Word) (e : Entry) (tail : List QueueItem) (p : OpenPage),
    s.mru.op = .entryWrite sequence → s.mru.queue = .entry e :: tail → s.mru.openPage = some p →
    let u := s.writeDone .page
    let page : OpenPage := ⟨p.ringIndex, p.pageSequence, p.entryCount + 1, p.area ++ e.bytes sequence,
      if p.entryCount = 0 then sequence else p.firstSequence,
      if p.entryCount = 0 then e.chainage else p.firstChainage, e.chainage⟩
    let written (x : Entry) : Word := match x with | .line _ => s.mru.linesWritten + 1 | _ => s.mru.linesWritten
    let m : Mru := { s.mru with op := .none, queue := tail, openPage := some page, linesWritten := written e }
    (s.mru.pendingStop = none ∨ 16 ≤ m.entriesQueued → exec .entryWriteDone s = .next (State.drive { u with mru := m } false)) ∧
    (∀ stop, s.mru.pendingStop = some stop → m.entriesQueued < 16 →
      exec .entryWriteDone s = .next (State.drive { u with mru := { m with
        pendingStop := none, queue := tail.map fun i => if i = .stopPlace then .entry (.stop stop) else i } } false))) ∧
  (∀ (s : State) (closedBy : ClosedBy) (p : OpenPage), s.mru.op = .close closedBy → s.mru.openPage = some p →
    let u : State := State.requestRewrite { s.writeDone .page with
      mru := { s.mru with op := .none, openPage := none }
      rif := { s.rif with pagesHanded := s.rif.pagesHanded + 1, attention := s.rif.attention ||| Cause.page.mask } }
    (s.mru.flushing = false → exec .pageCloseDone s = .next { u with mru := { u.mru with op := .search s.mru.searchIndex } }) ∧
    (s.mru.flushing = true →
      let v := State.finishDone { u with mru := { u.mru with flushing := false } } p.pageSequence false false false
      exec .pageCloseDone s = .next { v with mru := { v.mru with op := .search s.mru.searchIndex } })) ∧
  (∀ (s : State) (rest : List Waiting), s.FirstWaiting (fun h => h = .sweepExpiry) .sweepExpiry rest →
    exec .sweepExpiryAtMru s = .next (State.drive { s with inbox := rest } true)) ∧
  (∀ (s : State) (o : Order), s.orderOf .flushRecords = some o →
    (∀ p, s.mru.openPage = some p → 0 < p.entryCount → exec .flushRecords s = .next (State.drive { s with
      mru := { s.mru with flushing := true }
      bdr := { s.bdr with execution := s.bdr.execution.map fun e => { e with phase := .inFlight } } } false)) ∧
    (∀ p, s.mru.openPage = some p → p.entryCount = 0 →
      exec .flushRecords s = .next (s.finishDone 0 false false false)) ∧
    (s.mru.openPage = none → s.mru.op ≠ .none → exec .flushRecords s = .next (s.finishDone 0 false false false)) ∧
    (s.mru.openPage = none → s.mru.op = .none → exec .flushRecords s = .next (State.finishDone
      { s with mru := { s.mru with op := .search s.mru.searchIndex } } 0 false false false))) ∧
  (∀ (s : State) (search : Bool),
    let put (m : Mru) : State := { s with mru := m }
    let page (p : OpenPage) : Nat := s.rif.layoutCopy.ringOffset + 4096 * p.ringIndex
    let close (m : Mru) (closedBy : ClosedBy) : State := State.issueWrite (put { m with op := .close closedBy }) .page
      (match m.openPage with | some p => [(page p + 1, p.header closedBy), (page p, [2])] | none => [])
    let holds := ∃ p, s.mru.openPage = some p ∧ 0 < p.entryCount
    (s.mru.op ≠ .none → s.drive search = s) ∧
    (s.mru.op = .none → s.mru.flushing = true → s.drive search = close s.mru .flush) ∧
    (s.mru.op = .none → s.mru.flushing = false →
      (∀ i tail, s.mru.queue = i :: tail → i = .linePlace ∨ i = .stopPlace ∨ (∃ c t, i = .entry (.stop ⟨c, t, none⟩)) →
        s.drive search = s) ∧
      (∀ e tail, s.mru.queue = .entry e :: tail → (∀ c t, e ≠ .stop ⟨c, t, none⟩) →
        (∀ p, s.mru.openPage = some p →
          (e.length ≤ 4064 - p.area.length → s.drive search =
            State.issueWrite (put { s.mru with op := .entryWrite s.mru.nextEntry, nextEntry := s.mru.nextEntry + 1 }) .page
              [(page p + 32 + p.area.length, e.bytes s.mru.nextEntry)]) ∧
          (4064 - p.area.length < e.length → s.drive search = close s.mru .full)) ∧
        (s.mru.openPage = none →
          (search = true ∨ s.mru.runSeen = .stopping →
            s.drive search = put { s.mru with op := .search s.mru.searchIndex }) ∧
          (search = false → s.mru.runSeen ≠ .stopping → s.drive search = s))) ∧
      (∀ tail, s.mru.queue = .closeMark :: tail →
        (∀ g, s.mru.pendingGap = some g → s.mru.entriesQueued < 16 → s.drive search = State.drive (put { s.mru with
          pendingGap := none
          queue := .entry (.gap s.mru.chainageSeen s.rif.runTime g.lost g.missed g.reason) :: .closeDue :: tail }) true)) ∧
      (∀ tail left g, s.mru.queue = .closePast left :: tail → left.gap = some g → s.mru.entriesQueued < 16 →
        s.drive search = State.drive (put { s.mru with
          queue := .entry (.gap left.chainage left.runTime g.lost g.missed g.reason) :: .closeDue :: tail }) true) ∧
      (∀ tail,
        let passes (m : Mru) : Prop :=
          (holds → s.drive search = close m (if s.mru.runSeen = .stopping then .stop else .state)) ∧
          (¬ holds → s.drive search = State.drive (put m) search)
        (s.mru.queue = .closeDue :: tail ∨ (∃ left, s.mru.queue = .closePast left :: tail ∧ left.gap = none) ∨
            s.mru.queue = .closeMark :: tail ∧ (s.mru.pendingGap = none ∨ 16 ≤ s.mru.entriesQueued) →
          passes { s.mru with queue := tail }) ∧
        (∀ left g, s.mru.queue = .closePast left :: tail → left.gap = some g → 16 ≤ s.mru.entriesQueued →
          passes (Mru.carryGap { s.mru with queue := tail } g))) ∧
      (s.mru.queue = [] →
        let quiet := s.mru.runSeen = .stopping ∧ s.mru.recordsSeen = .off ∧ s.mru.line = none ∧ s.mru.pendingStop = none
        (¬ quiet → s.drive search = s) ∧
        (quiet → holds → s.drive search = close s.mru .stop) ∧
        (quiet → ¬ holds → s.drive search = { s with rif := { s.rif with recordsQuiet := true } })))) ∧
  (∀ (m : Mru) (g : PendingGap),
    let joined (later : Option PendingGap) : PendingGap := match later with
      | some h => ⟨g.lost + h.lost, g.missed + h.missed, g.reason⟩
      | none => g
    let noneLeft (q : List QueueItem) : Prop := ∀ left, .closePast left ∉ q
    (noneLeft m.queue → m.carryGap g = { m with pendingGap := some (joined m.pendingGap) }) ∧
    (∀ pre left rest, m.queue = pre ++ .closePast left :: rest → noneLeft pre → m.carryGap g =
      { m with queue := pre ++ .closePast { left with gap := some (joined left.gap) } :: rest })) ∧
  (∀ (e : Entry) (sequence : Word), (∀ x, e = .line x → x.points.length ≤ 64) →
    (e.bytes sequence).length = e.length ∧ e.length % 4 = 0 ∧ 28 ≤ e.length ∧ e.length ≤ 156 ∧
    (e.bytes sequence).take 12 = e.header sequence ∧
    leNat (((e.bytes sequence).drop 12).take 2) =
      (crc16 ((e.bytes sequence).take 12 ++ (e.bytes sequence).drop 14)).toNat) ∧
  (∀ (e : Entry) (sequence : Word), (∀ x, e = .line x → x.points.length ≤ 64) →
    let field (offset length : Nat) : Nat := leNat (((e.bytes sequence).drop offset).take length)
    let zerosFrom (n : Nat) : Prop := ∀ i, n ≤ i → i < e.length → (e.bytes sequence)[i]? = some 0
    let common (chainage runTime : Word) : Prop := field 1 1 = e.length ∧ field 2 1 = sequence.toNat % 2 ^ 8 ∧
      field 4 4 = chainage.toNat ∧ field 8 4 = runTime.toNat
    (∀ l, e = .line l →
      common l.line.chainage l.line.runTime ∧ e.length = (28 + 2 * l.points.length + 3) / 4 * 4 ∧
      field 0 1 = 4 * l.line.afterStop.toNat + 8 * l.line.stale.toNat + 16 * l.line.unplaced.toNat + 32 * l.cold.toNat +
        64 * l.spread.toNat ∧
      field 3 1 = l.coldCount % 2 ^ 8 ∧ field 14 1 = l.line.windowFirst % 2 ^ 8 ∧ field 15 1 = l.line.windowCount % 2 ^ 8 ∧
      field 16 2 = l.line.halfLeft % 2 ^ 16 ∧ field 18 2 = l.line.halfRight % 2 ^ 16 ∧
      field 20 2 = (BitVec.ofInt 16 l.mean).toNat ∧ field 22 1 = l.minIndex % 2 ^ 8 ∧ field 23 1 = l.maxIndex % 2 ^ 8 ∧
      field 24 4 = l.line.sequence.toNat ∧ (∀ i p, l.points[i]? = some p → field (28 + 2 * i) 2 = p.toNat) ∧
      zerosFrom (28 + 2 * l.points.length)) ∧
    (∀ x, e = .stop x →
      common x.chainage x.runTime ∧ e.length = 32 ∧ field 0 1 = 1 ∧ field 3 1 = 0 ∧ zerosFrom 19 ∧
      (∀ duration cause, x.ended = some (duration, cause) → field 14 4 = duration.toNat ∧
        field 18 1 = (match cause with | .auto => 1 | .order => 2)) ∧
      (x.ended = none → zerosFrom 14)) ∧
    (∀ chainage runTime code source, e = .mark chainage runTime code source →
      common chainage runTime ∧ e.length = 32 ∧ field 0 1 = 2 ∧ field 3 1 = 0 ∧ zerosFrom 20 ∧
      field 14 2 = code.toNat ∧ field 17 1 = 0 ∧
      (∀ stamp, source = .order stamp → field 16 1 = 1 ∧ field 18 2 = stamp.toNat) ∧
      (source = .console → field 16 1 = 2 ∧ field 18 2 = 0)) ∧
    (∀ chainage runTime lost missed reason, e = .gap chainage runTime lost missed reason →
      common chainage runTime ∧ e.length = 32 ∧ field 0 1 = 3 ∧ field 3 1 = 0 ∧ zerosFrom 23 ∧
      field 14 4 = lost.toNat ∧ field 18 4 = missed.toNat ∧
      field 22 1 = (match reason with | .queue => 1 | .busy => 2 | .spacing => 3 | .reference => 4 | .scanner => 5))) ∧
  (∀ (p : OpenPage) (closedBy : ClosedBy),
    let page : List Byte := 2 :: p.header closedBy
    let field (offset length : Nat) : Nat := leNat ((page.drop offset).take length)
    page.length = 32 ∧ field 1 1 = (match closedBy with | .full => 1 | .flush => 2 | .state => 3 | .stop => 4) ∧
    field 2 2 = p.entryCount % 2 ^ 16 ∧ field 4 4 = p.pageSequence.toNat ∧ field 8 4 = p.firstSequence.toNat ∧
    field 12 4 = p.firstChainage.toNat ∧ field 16 4 = p.lastChainage.toNat ∧ field 20 2 = p.area.length % 2 ^ 16 ∧
    field 22 2 = (crc16 ((page.drop 1).take 21 ++ p.area)).toNat ∧ field 24 8 = 0)

/-- REFERENCE_TIMER_EXPIRY, CYCLE_TIMER_EXPIRY and RUN_STATUS_AT_MRU (R154, R164, R165). The timer's expiry in RUN postpones
the cycle by 30 s up to four times, then forces it with REFERENCE_FORCED; elsewhere it runs it. A cycle waits for a line in
flight, else asks for a REFERENCE; its end clears the count and restarts the timer. At RUN start the fields take the values of
R154's last column, the places held in the queue for a line or a stop, which are no entries, being given up, and a close mark
keeping its place between the entries of two periods; STOPPING drains; STOPPED stops the timers. An expiry command brings time to the timer's expiry, which is the model's choice
(log 2). -/
def Obligations.ReferenceCyclesAndRecordRuns : Prop :=
  (∀ (s : State) (expiry : Word),
    let t := s.runTo expiry
    let m : Mru := { s.mru with referenceTimer := none }
    let put (m : Mru) : State := { t with mru := m }
    let after (ms : Nat) : Timer := some (t.rif.runTime + BitVec.ofNat 32 ms)
    (s.mru.referenceTimer = some expiry →
      (s.mru.recordsSeen = .run → s.mru.postponeCount < 4 → exec .referenceTimerExpiry s = .next
        (put { m with postponeCount := s.mru.postponeCount + 1, referenceTimer := after 30000 })) ∧
      (s.mru.recordsSeen = .run → 4 ≤ s.mru.postponeCount → exec .referenceTimerExpiry s = .next
        ((put m).postNote .referenceForced 0 4).runCycle) ∧
      (s.mru.recordsSeen ≠ .run → exec .referenceTimerExpiry s = .next (put m).runCycle)) ∧
    (s.mru.cycleTimer = some expiry → exec .cycleTimerExpiry s = .next t.endCycle)) ∧
  (∀ s : State,
    let m : Mru := { s.mru with referenceTimer := none }
    (s.mru.line.isSome = true → s.runCycle = { s with mru := { m with referencePhase := .pending } }) ∧
    (s.mru.line = none → s.runCycle = { s with
      mru := { m with referencePhase := .wait }, inbox := s.inbox ++ [⟨false, .scannerRequest .reference⟩] }) ∧
    s.endCycle = { s with mru := { s.mru with
      referencePhase := .idle, postponeCount := 0, cycleTimer := none
      referenceTimer := if s.mru.runSeen = .running ∨ s.mru.runSeen = .stopping then
          some (s.rif.runTime + BitVec.ofNat 32 (1000 * s.settingNat Setting.referenceInterval))
        else none } }) ∧
  (∀ (s : State) (rest : List Waiting) (status : RunStatus),
    s.FirstWaiting (fun h => ∃ x, h = .runStatus .mru x) (.runStatus .mru status) rest →
    let put (m : Mru) : State := { s with inbox := rest, mru := m }
    let seen : Mru := { s.mru with runSeen := status }
    (status = .starting → exec .runStatusAtMru s = .next (put seen)) ∧
    (status = .stopping → exec .runStatusAtMru s = .next (State.drive (put seen) false)) ∧
    (status = .stopped → exec .runStatusAtMru s = .next (put { seen with
      fallbackTimer := none, exposureTimer := none, referenceTimer := none, cycleTimer := none })) ∧
    (status = .running → exec .runStatusAtMru s = .next (put
      { recordsSeen := s.mru.recordsSeen, chainageSeen := s.mru.chainageSeen, travelSeen := s.mru.travelSeen
        geometry := s.mru.geometry, scannerSeen := s.mru.scannerSeen, runSeen := .running
        nextTrigger := none, fallbackTimer := none, line := none, exposureTimer := none, afterStop := false
        thermalRun := 0, thermalReported := false
        queue := s.mru.queue.filterMap fun i => match i with
          | .linePlace | .stopPlace => none
          | .closePast left => some (.closePast { left with gap := none })
          | .entry _ | .closeMark | .closeDue => some i
        pendingGap := none, pendingStop := none, openPage := none, searchIndex := 0, nextEntry := 1, nextPage := 1
        lossReported := false
        referenceTimer := some (s.rif.runTime + BitVec.ofNat 32 (1000 * s.settingNat Setting.referenceInterval))
        postponeCount := 0, referencePhase := .idle, cycleTimer := none
        linesProduced := 0, linesWritten := 0, linesLost := 0, triggersMissed := 0, op := .none, flushing := false })))

/-! ## Every command, and the laws every step keeps -/

/-- Every command of the part answers a next state, in every state; it takes nothing from and adds nothing to the commands
waiting; and only a read completion that brings the host's writes, a take, and the completions of the part's own writes change
the shared region. That a command without its cause answers the state unchanged (log 3), that the host's writes come with the
read completions (log 5) and that the part's writes land at their completions and at a take (log 8) are the model's choices
(DESIGN CHOICE each). -/
def Obligations.EveryCommandCompletes : Prop :=
  ∀ (c : Instr) (s : State), ∃ t : State, exec c s = .next t ∧ t.pending = s.pending ∧
    match c with
    | .layoutReadDone _ | .startupSlotReadDone _ | .noteReadIndexDone _ | .slotReadDone _ | .imageReadDone _
    | .pageSearchReadDone _ | .startupWriteDone | .noteWriteDone | .summaryWriteDone | .stagedWriteDone
    | .outcomeWriteDone | .withdrawnWriteDone | .entryWriteDone | .pageCloseDone => True
    | _ => t.mem = s.mem

/-- Every law below holds at reset, with any contents of the region in canonical form. -/
def Obligations.LawsHoldAtReset : Prop :=
  ∀ s : State, MemoryLaw s →
    let t : State := { State.reset with mem := s.mem, pending := s.pending }
    MemoryLaw t ∧ BoardLaw t ∧ SettingsLaw t ∧ PagesLaw t ∧ TravelLaw t ∧ PauseLaw t ∧ HeatingLaw t ∧ WaitingLaw t ∧
    QueueLaw t ∧ RecordsLaw t ∧ MemoryLaw State.reset

/-- Every step keeps the shared region in its canonical form, whatever the host writes (the form is log 6's). -/
def Obligations.StepKeepsMemoryCanonical : Prop :=
  ∀ s t : State, MemoryLaw s → step s = .next t → MemoryLaw t

/-- Every step keeps the staging list within 16 orders in station order, no slot and no stamp twice, and the outcome history
within 32 (R29, R33, R37). -/
def Obligations.StepKeepsTheBoard : Prop :=
  ∀ s t : State, BoardLaw s → step s = .next t → BoardLaw t

/-- Every step keeps every setting within its limits, pending values at AT_PAVE settings alone, and every VALID page within
its constraints (R44, R45, R50, R52, R53, R55 to R57). -/
def Obligations.StepKeepsSettingsAndPages : Prop :=
  ∀ s t : State, step s = .next t → (SettingsLaw s → SettingsLaw t) ∧ (PagesLaw s → PagesLaw t)

/-- Every step keeps travel LOST exactly on an UNRELIABLE bus, whose error counter is 32, the travel timer running exactly
while travel is LIVE, and a pause cause exactly in PAUSE (R1, R4, R7, R59, R63, R64, R72). -/
def Obligations.StepKeepsTravelAndPause : Prop :=
  ∀ s t : State, step s = .next t → (TravelLaw s → TravelLaw t) ∧ (PauseLaw s → PauseLaw t)

/-- Every step keeps the draw at or below the available power, and the waiting list the zones in WAITING, each once, MAIN
before EXTENSION (R130, R134, R136 to R139). -/
def Obligations.StepKeepsHeating : Prop :=
  ∀ s t : State, step s = .next t → (HeatingLaw s → HeatingLaw t) ∧ (WaitingLaw s → WaitingLaw t)

/-- Every step keeps at most 16 entries queued, one place for the line in flight and one for the pending stop (R160, R161); and
with them the order of the records (R154, R155, R157, R164): within one page entry sequences rise by exactly one, and chainage
does not decrease from the last entry written through the entries queued, made or held back for it, up to the close mark or the
chainage seen; in OFF no entry stands behind the last close mark; and the fallback timer runs in RUN alone. That a console mark
raises the chainage seen is log 50's, the chainage and run time of a GAP whose period is over log 27's. -/
def Obligations.StepKeepsTheEntryQueue : Prop :=
  ∀ s t : State, QueueLaw s → step s = .next t → QueueLaw t ∧ (RecordsLaw s → RecordsLaw t)
end

