-- ==== Sys2Proof/Laws/State.lean ====
section
/-! SUPPORT. What each block update leaves in each field of the state; every lemma holds by definition. -/
namespace Sys2Proof.Machine

@[simp] theorem State.modMem_mem (s : State) (f : Memory → Memory) : (s.modMem f).mem = f s.mem := rfl
@[simp] theorem State.modMem_port (s : State) (f : Memory → Memory) : (s.modMem f).port = s.port := rfl
@[simp] theorem State.modMem_rif (s : State) (f : Memory → Memory) : (s.modMem f).rif = s.rif := rfl
@[simp] theorem State.modMem_bdr (s : State) (f : Memory → Memory) : (s.modMem f).bdr = s.bdr := rfl
@[simp] theorem State.modMem_sps (s : State) (f : Memory → Memory) : (s.modMem f).sps = s.sps := rfl
@[simp] theorem State.modMem_msc (s : State) (f : Memory → Memory) : (s.modMem f).msc = s.msc := rfl
@[simp] theorem State.modMem_trm (s : State) (f : Memory → Memory) : (s.modMem f).trm = s.trm := rfl
@[simp] theorem State.modMem_hlc (s : State) (f : Memory → Memory) : (s.modMem f).hlc = s.hlc := rfl
@[simp] theorem State.modMem_geu (s : State) (f : Memory → Memory) : (s.modMem f).geu = s.geu := rfl
@[simp] theorem State.modMem_lvc (s : State) (f : Memory → Memory) : (s.modMem f).lvc = s.lvc := rfl
@[simp] theorem State.modMem_htc (s : State) (f : Memory → Memory) : (s.modMem f).htc = s.htc := rfl
@[simp] theorem State.modMem_fdc (s : State) (f : Memory → Memory) : (s.modMem f).fdc = s.fdc := rfl
@[simp] theorem State.modMem_mru (s : State) (f : Memory → Memory) : (s.modMem f).mru = s.mru := rfl
@[simp] theorem State.modMem_inbox (s : State) (f : Memory → Memory) : (s.modMem f).inbox = s.inbox := rfl
@[simp] theorem State.modMem_pending (s : State) (f : Memory → Memory) : (s.modMem f).pending = s.pending := rfl

@[simp] theorem State.modPort_mem (s : State) (f : List PortWrite → List PortWrite) : (s.modPort f).mem = s.mem := rfl
@[simp] theorem State.modPort_port (s : State) (f : List PortWrite → List PortWrite) : (s.modPort f).port = f s.port := rfl
@[simp] theorem State.modPort_rif (s : State) (f : List PortWrite → List PortWrite) : (s.modPort f).rif = s.rif := rfl
@[simp] theorem State.modPort_bdr (s : State) (f : List PortWrite → List PortWrite) : (s.modPort f).bdr = s.bdr := rfl
@[simp] theorem State.modPort_sps (s : State) (f : List PortWrite → List PortWrite) : (s.modPort f).sps = s.sps := rfl
@[simp] theorem State.modPort_msc (s : State) (f : List PortWrite → List PortWrite) : (s.modPort f).msc = s.msc := rfl
@[simp] theorem State.modPort_trm (s : State) (f : List PortWrite → List PortWrite) : (s.modPort f).trm = s.trm := rfl
@[simp] theorem State.modPort_hlc (s : State) (f : List PortWrite → List PortWrite) : (s.modPort f).hlc = s.hlc := rfl
@[simp] theorem State.modPort_geu (s : State) (f : List PortWrite → List PortWrite) : (s.modPort f).geu = s.geu := rfl
@[simp] theorem State.modPort_lvc (s : State) (f : List PortWrite → List PortWrite) : (s.modPort f).lvc = s.lvc := rfl
@[simp] theorem State.modPort_htc (s : State) (f : List PortWrite → List PortWrite) : (s.modPort f).htc = s.htc := rfl
@[simp] theorem State.modPort_fdc (s : State) (f : List PortWrite → List PortWrite) : (s.modPort f).fdc = s.fdc := rfl
@[simp] theorem State.modPort_mru (s : State) (f : List PortWrite → List PortWrite) : (s.modPort f).mru = s.mru := rfl
@[simp] theorem State.modPort_inbox (s : State) (f : List PortWrite → List PortWrite) : (s.modPort f).inbox = s.inbox := rfl
@[simp] theorem State.modPort_pending (s : State) (f : List PortWrite → List PortWrite) : (s.modPort f).pending = s.pending := rfl

@[simp] theorem State.modRif_mem (s : State) (f : Rif → Rif) : (s.modRif f).mem = s.mem := rfl
@[simp] theorem State.modRif_port (s : State) (f : Rif → Rif) : (s.modRif f).port = s.port := rfl
@[simp] theorem State.modRif_rif (s : State) (f : Rif → Rif) : (s.modRif f).rif = f s.rif := rfl
@[simp] theorem State.modRif_bdr (s : State) (f : Rif → Rif) : (s.modRif f).bdr = s.bdr := rfl
@[simp] theorem State.modRif_sps (s : State) (f : Rif → Rif) : (s.modRif f).sps = s.sps := rfl
@[simp] theorem State.modRif_msc (s : State) (f : Rif → Rif) : (s.modRif f).msc = s.msc := rfl
@[simp] theorem State.modRif_trm (s : State) (f : Rif → Rif) : (s.modRif f).trm = s.trm := rfl
@[simp] theorem State.modRif_hlc (s : State) (f : Rif → Rif) : (s.modRif f).hlc = s.hlc := rfl
@[simp] theorem State.modRif_geu (s : State) (f : Rif → Rif) : (s.modRif f).geu = s.geu := rfl
@[simp] theorem State.modRif_lvc (s : State) (f : Rif → Rif) : (s.modRif f).lvc = s.lvc := rfl
@[simp] theorem State.modRif_htc (s : State) (f : Rif → Rif) : (s.modRif f).htc = s.htc := rfl
@[simp] theorem State.modRif_fdc (s : State) (f : Rif → Rif) : (s.modRif f).fdc = s.fdc := rfl
@[simp] theorem State.modRif_mru (s : State) (f : Rif → Rif) : (s.modRif f).mru = s.mru := rfl
@[simp] theorem State.modRif_inbox (s : State) (f : Rif → Rif) : (s.modRif f).inbox = s.inbox := rfl
@[simp] theorem State.modRif_pending (s : State) (f : Rif → Rif) : (s.modRif f).pending = s.pending := rfl

@[simp] theorem State.modBdr_mem (s : State) (f : Bdr → Bdr) : (s.modBdr f).mem = s.mem := rfl
@[simp] theorem State.modBdr_port (s : State) (f : Bdr → Bdr) : (s.modBdr f).port = s.port := rfl
@[simp] theorem State.modBdr_rif (s : State) (f : Bdr → Bdr) : (s.modBdr f).rif = s.rif := rfl
@[simp] theorem State.modBdr_bdr (s : State) (f : Bdr → Bdr) : (s.modBdr f).bdr = f s.bdr := rfl
@[simp] theorem State.modBdr_sps (s : State) (f : Bdr → Bdr) : (s.modBdr f).sps = s.sps := rfl
@[simp] theorem State.modBdr_msc (s : State) (f : Bdr → Bdr) : (s.modBdr f).msc = s.msc := rfl
@[simp] theorem State.modBdr_trm (s : State) (f : Bdr → Bdr) : (s.modBdr f).trm = s.trm := rfl
@[simp] theorem State.modBdr_hlc (s : State) (f : Bdr → Bdr) : (s.modBdr f).hlc = s.hlc := rfl
@[simp] theorem State.modBdr_geu (s : State) (f : Bdr → Bdr) : (s.modBdr f).geu = s.geu := rfl
@[simp] theorem State.modBdr_lvc (s : State) (f : Bdr → Bdr) : (s.modBdr f).lvc = s.lvc := rfl
@[simp] theorem State.modBdr_htc (s : State) (f : Bdr → Bdr) : (s.modBdr f).htc = s.htc := rfl
@[simp] theorem State.modBdr_fdc (s : State) (f : Bdr → Bdr) : (s.modBdr f).fdc = s.fdc := rfl
@[simp] theorem State.modBdr_mru (s : State) (f : Bdr → Bdr) : (s.modBdr f).mru = s.mru := rfl
@[simp] theorem State.modBdr_inbox (s : State) (f : Bdr → Bdr) : (s.modBdr f).inbox = s.inbox := rfl
@[simp] theorem State.modBdr_pending (s : State) (f : Bdr → Bdr) : (s.modBdr f).pending = s.pending := rfl

@[simp] theorem State.modSps_mem (s : State) (f : Sps → Sps) : (s.modSps f).mem = s.mem := rfl
@[simp] theorem State.modSps_port (s : State) (f : Sps → Sps) : (s.modSps f).port = s.port := rfl
@[simp] theorem State.modSps_rif (s : State) (f : Sps → Sps) : (s.modSps f).rif = s.rif := rfl
@[simp] theorem State.modSps_bdr (s : State) (f : Sps → Sps) : (s.modSps f).bdr = s.bdr := rfl
@[simp] theorem State.modSps_sps (s : State) (f : Sps → Sps) : (s.modSps f).sps = f s.sps := rfl
@[simp] theorem State.modSps_msc (s : State) (f : Sps → Sps) : (s.modSps f).msc = s.msc := rfl
@[simp] theorem State.modSps_trm (s : State) (f : Sps → Sps) : (s.modSps f).trm = s.trm := rfl
@[simp] theorem State.modSps_hlc (s : State) (f : Sps → Sps) : (s.modSps f).hlc = s.hlc := rfl
@[simp] theorem State.modSps_geu (s : State) (f : Sps → Sps) : (s.modSps f).geu = s.geu := rfl
@[simp] theorem State.modSps_lvc (s : State) (f : Sps → Sps) : (s.modSps f).lvc = s.lvc := rfl
@[simp] theorem State.modSps_htc (s : State) (f : Sps → Sps) : (s.modSps f).htc = s.htc := rfl
@[simp] theorem State.modSps_fdc (s : State) (f : Sps → Sps) : (s.modSps f).fdc = s.fdc := rfl
@[simp] theorem State.modSps_mru (s : State) (f : Sps → Sps) : (s.modSps f).mru = s.mru := rfl
@[simp] theorem State.modSps_inbox (s : State) (f : Sps → Sps) : (s.modSps f).inbox = s.inbox := rfl
@[simp] theorem State.modSps_pending (s : State) (f : Sps → Sps) : (s.modSps f).pending = s.pending := rfl

@[simp] theorem State.modMsc_mem (s : State) (f : Msc → Msc) : (s.modMsc f).mem = s.mem := rfl
@[simp] theorem State.modMsc_port (s : State) (f : Msc → Msc) : (s.modMsc f).port = s.port := rfl
@[simp] theorem State.modMsc_rif (s : State) (f : Msc → Msc) : (s.modMsc f).rif = s.rif := rfl
@[simp] theorem State.modMsc_bdr (s : State) (f : Msc → Msc) : (s.modMsc f).bdr = s.bdr := rfl
@[simp] theorem State.modMsc_sps (s : State) (f : Msc → Msc) : (s.modMsc f).sps = s.sps := rfl
@[simp] theorem State.modMsc_msc (s : State) (f : Msc → Msc) : (s.modMsc f).msc = f s.msc := rfl
@[simp] theorem State.modMsc_trm (s : State) (f : Msc → Msc) : (s.modMsc f).trm = s.trm := rfl
@[simp] theorem State.modMsc_hlc (s : State) (f : Msc → Msc) : (s.modMsc f).hlc = s.hlc := rfl
@[simp] theorem State.modMsc_geu (s : State) (f : Msc → Msc) : (s.modMsc f).geu = s.geu := rfl
@[simp] theorem State.modMsc_lvc (s : State) (f : Msc → Msc) : (s.modMsc f).lvc = s.lvc := rfl
@[simp] theorem State.modMsc_htc (s : State) (f : Msc → Msc) : (s.modMsc f).htc = s.htc := rfl
@[simp] theorem State.modMsc_fdc (s : State) (f : Msc → Msc) : (s.modMsc f).fdc = s.fdc := rfl
@[simp] theorem State.modMsc_mru (s : State) (f : Msc → Msc) : (s.modMsc f).mru = s.mru := rfl
@[simp] theorem State.modMsc_inbox (s : State) (f : Msc → Msc) : (s.modMsc f).inbox = s.inbox := rfl
@[simp] theorem State.modMsc_pending (s : State) (f : Msc → Msc) : (s.modMsc f).pending = s.pending := rfl

@[simp] theorem State.modTrm_mem (s : State) (f : Trm → Trm) : (s.modTrm f).mem = s.mem := rfl
@[simp] theorem State.modTrm_port (s : State) (f : Trm → Trm) : (s.modTrm f).port = s.port := rfl
@[simp] theorem State.modTrm_rif (s : State) (f : Trm → Trm) : (s.modTrm f).rif = s.rif := rfl
@[simp] theorem State.modTrm_bdr (s : State) (f : Trm → Trm) : (s.modTrm f).bdr = s.bdr := rfl
@[simp] theorem State.modTrm_sps (s : State) (f : Trm → Trm) : (s.modTrm f).sps = s.sps := rfl
@[simp] theorem State.modTrm_msc (s : State) (f : Trm → Trm) : (s.modTrm f).msc = s.msc := rfl
@[simp] theorem State.modTrm_trm (s : State) (f : Trm → Trm) : (s.modTrm f).trm = f s.trm := rfl
@[simp] theorem State.modTrm_hlc (s : State) (f : Trm → Trm) : (s.modTrm f).hlc = s.hlc := rfl
@[simp] theorem State.modTrm_geu (s : State) (f : Trm → Trm) : (s.modTrm f).geu = s.geu := rfl
@[simp] theorem State.modTrm_lvc (s : State) (f : Trm → Trm) : (s.modTrm f).lvc = s.lvc := rfl
@[simp] theorem State.modTrm_htc (s : State) (f : Trm → Trm) : (s.modTrm f).htc = s.htc := rfl
@[simp] theorem State.modTrm_fdc (s : State) (f : Trm → Trm) : (s.modTrm f).fdc = s.fdc := rfl
@[simp] theorem State.modTrm_mru (s : State) (f : Trm → Trm) : (s.modTrm f).mru = s.mru := rfl
@[simp] theorem State.modTrm_inbox (s : State) (f : Trm → Trm) : (s.modTrm f).inbox = s.inbox := rfl
@[simp] theorem State.modTrm_pending (s : State) (f : Trm → Trm) : (s.modTrm f).pending = s.pending := rfl

@[simp] theorem State.modHlc_mem (s : State) (f : Hlc → Hlc) : (s.modHlc f).mem = s.mem := rfl
@[simp] theorem State.modHlc_port (s : State) (f : Hlc → Hlc) : (s.modHlc f).port = s.port := rfl
@[simp] theorem State.modHlc_rif (s : State) (f : Hlc → Hlc) : (s.modHlc f).rif = s.rif := rfl
@[simp] theorem State.modHlc_bdr (s : State) (f : Hlc → Hlc) : (s.modHlc f).bdr = s.bdr := rfl
@[simp] theorem State.modHlc_sps (s : State) (f : Hlc → Hlc) : (s.modHlc f).sps = s.sps := rfl
@[simp] theorem State.modHlc_msc (s : State) (f : Hlc → Hlc) : (s.modHlc f).msc = s.msc := rfl
@[simp] theorem State.modHlc_trm (s : State) (f : Hlc → Hlc) : (s.modHlc f).trm = s.trm := rfl
@[simp] theorem State.modHlc_hlc (s : State) (f : Hlc → Hlc) : (s.modHlc f).hlc = f s.hlc := rfl
@[simp] theorem State.modHlc_geu (s : State) (f : Hlc → Hlc) : (s.modHlc f).geu = s.geu := rfl
@[simp] theorem State.modHlc_lvc (s : State) (f : Hlc → Hlc) : (s.modHlc f).lvc = s.lvc := rfl
@[simp] theorem State.modHlc_htc (s : State) (f : Hlc → Hlc) : (s.modHlc f).htc = s.htc := rfl
@[simp] theorem State.modHlc_fdc (s : State) (f : Hlc → Hlc) : (s.modHlc f).fdc = s.fdc := rfl
@[simp] theorem State.modHlc_mru (s : State) (f : Hlc → Hlc) : (s.modHlc f).mru = s.mru := rfl
@[simp] theorem State.modHlc_inbox (s : State) (f : Hlc → Hlc) : (s.modHlc f).inbox = s.inbox := rfl
@[simp] theorem State.modHlc_pending (s : State) (f : Hlc → Hlc) : (s.modHlc f).pending = s.pending := rfl

@[simp] theorem State.modGeu_mem (s : State) (f : Geu → Geu) : (s.modGeu f).mem = s.mem := rfl
@[simp] theorem State.modGeu_port (s : State) (f : Geu → Geu) : (s.modGeu f).port = s.port := rfl
@[simp] theorem State.modGeu_rif (s : State) (f : Geu → Geu) : (s.modGeu f).rif = s.rif := rfl
@[simp] theorem State.modGeu_bdr (s : State) (f : Geu → Geu) : (s.modGeu f).bdr = s.bdr := rfl
@[simp] theorem State.modGeu_sps (s : State) (f : Geu → Geu) : (s.modGeu f).sps = s.sps := rfl
@[simp] theorem State.modGeu_msc (s : State) (f : Geu → Geu) : (s.modGeu f).msc = s.msc := rfl
@[simp] theorem State.modGeu_trm (s : State) (f : Geu → Geu) : (s.modGeu f).trm = s.trm := rfl
@[simp] theorem State.modGeu_hlc (s : State) (f : Geu → Geu) : (s.modGeu f).hlc = s.hlc := rfl
@[simp] theorem State.modGeu_geu (s : State) (f : Geu → Geu) : (s.modGeu f).geu = f s.geu := rfl
@[simp] theorem State.modGeu_lvc (s : State) (f : Geu → Geu) : (s.modGeu f).lvc = s.lvc := rfl
@[simp] theorem State.modGeu_htc (s : State) (f : Geu → Geu) : (s.modGeu f).htc = s.htc := rfl
@[simp] theorem State.modGeu_fdc (s : State) (f : Geu → Geu) : (s.modGeu f).fdc = s.fdc := rfl
@[simp] theorem State.modGeu_mru (s : State) (f : Geu → Geu) : (s.modGeu f).mru = s.mru := rfl
@[simp] theorem State.modGeu_inbox (s : State) (f : Geu → Geu) : (s.modGeu f).inbox = s.inbox := rfl
@[simp] theorem State.modGeu_pending (s : State) (f : Geu → Geu) : (s.modGeu f).pending = s.pending := rfl

@[simp] theorem State.modLvc_mem (s : State) (f : Lvc → Lvc) : (s.modLvc f).mem = s.mem := rfl
@[simp] theorem State.modLvc_port (s : State) (f : Lvc → Lvc) : (s.modLvc f).port = s.port := rfl
@[simp] theorem State.modLvc_rif (s : State) (f : Lvc → Lvc) : (s.modLvc f).rif = s.rif := rfl
@[simp] theorem State.modLvc_bdr (s : State) (f : Lvc → Lvc) : (s.modLvc f).bdr = s.bdr := rfl
@[simp] theorem State.modLvc_sps (s : State) (f : Lvc → Lvc) : (s.modLvc f).sps = s.sps := rfl
@[simp] theorem State.modLvc_msc (s : State) (f : Lvc → Lvc) : (s.modLvc f).msc = s.msc := rfl
@[simp] theorem State.modLvc_trm (s : State) (f : Lvc → Lvc) : (s.modLvc f).trm = s.trm := rfl
@[simp] theorem State.modLvc_hlc (s : State) (f : Lvc → Lvc) : (s.modLvc f).hlc = s.hlc := rfl
@[simp] theorem State.modLvc_geu (s : State) (f : Lvc → Lvc) : (s.modLvc f).geu = s.geu := rfl
@[simp] theorem State.modLvc_lvc (s : State) (f : Lvc → Lvc) : (s.modLvc f).lvc = f s.lvc := rfl
@[simp] theorem State.modLvc_htc (s : State) (f : Lvc → Lvc) : (s.modLvc f).htc = s.htc := rfl
@[simp] theorem State.modLvc_fdc (s : State) (f : Lvc → Lvc) : (s.modLvc f).fdc = s.fdc := rfl
@[simp] theorem State.modLvc_mru (s : State) (f : Lvc → Lvc) : (s.modLvc f).mru = s.mru := rfl
@[simp] theorem State.modLvc_inbox (s : State) (f : Lvc → Lvc) : (s.modLvc f).inbox = s.inbox := rfl
@[simp] theorem State.modLvc_pending (s : State) (f : Lvc → Lvc) : (s.modLvc f).pending = s.pending := rfl

@[simp] theorem State.modHtc_mem (s : State) (f : Htc → Htc) : (s.modHtc f).mem = s.mem := rfl
@[simp] theorem State.modHtc_port (s : State) (f : Htc → Htc) : (s.modHtc f).port = s.port := rfl
@[simp] theorem State.modHtc_rif (s : State) (f : Htc → Htc) : (s.modHtc f).rif = s.rif := rfl
@[simp] theorem State.modHtc_bdr (s : State) (f : Htc → Htc) : (s.modHtc f).bdr = s.bdr := rfl
@[simp] theorem State.modHtc_sps (s : State) (f : Htc → Htc) : (s.modHtc f).sps = s.sps := rfl
@[simp] theorem State.modHtc_msc (s : State) (f : Htc → Htc) : (s.modHtc f).msc = s.msc := rfl
@[simp] theorem State.modHtc_trm (s : State) (f : Htc → Htc) : (s.modHtc f).trm = s.trm := rfl
@[simp] theorem State.modHtc_hlc (s : State) (f : Htc → Htc) : (s.modHtc f).hlc = s.hlc := rfl
@[simp] theorem State.modHtc_geu (s : State) (f : Htc → Htc) : (s.modHtc f).geu = s.geu := rfl
@[simp] theorem State.modHtc_lvc (s : State) (f : Htc → Htc) : (s.modHtc f).lvc = s.lvc := rfl
@[simp] theorem State.modHtc_htc (s : State) (f : Htc → Htc) : (s.modHtc f).htc = f s.htc := rfl
@[simp] theorem State.modHtc_fdc (s : State) (f : Htc → Htc) : (s.modHtc f).fdc = s.fdc := rfl
@[simp] theorem State.modHtc_mru (s : State) (f : Htc → Htc) : (s.modHtc f).mru = s.mru := rfl
@[simp] theorem State.modHtc_inbox (s : State) (f : Htc → Htc) : (s.modHtc f).inbox = s.inbox := rfl
@[simp] theorem State.modHtc_pending (s : State) (f : Htc → Htc) : (s.modHtc f).pending = s.pending := rfl

@[simp] theorem State.modFdc_mem (s : State) (f : Fdc → Fdc) : (s.modFdc f).mem = s.mem := rfl
@[simp] theorem State.modFdc_port (s : State) (f : Fdc → Fdc) : (s.modFdc f).port = s.port := rfl
@[simp] theorem State.modFdc_rif (s : State) (f : Fdc → Fdc) : (s.modFdc f).rif = s.rif := rfl
@[simp] theorem State.modFdc_bdr (s : State) (f : Fdc → Fdc) : (s.modFdc f).bdr = s.bdr := rfl
@[simp] theorem State.modFdc_sps (s : State) (f : Fdc → Fdc) : (s.modFdc f).sps = s.sps := rfl
@[simp] theorem State.modFdc_msc (s : State) (f : Fdc → Fdc) : (s.modFdc f).msc = s.msc := rfl
@[simp] theorem State.modFdc_trm (s : State) (f : Fdc → Fdc) : (s.modFdc f).trm = s.trm := rfl
@[simp] theorem State.modFdc_hlc (s : State) (f : Fdc → Fdc) : (s.modFdc f).hlc = s.hlc := rfl
@[simp] theorem State.modFdc_geu (s : State) (f : Fdc → Fdc) : (s.modFdc f).geu = s.geu := rfl
@[simp] theorem State.modFdc_lvc (s : State) (f : Fdc → Fdc) : (s.modFdc f).lvc = s.lvc := rfl
@[simp] theorem State.modFdc_htc (s : State) (f : Fdc → Fdc) : (s.modFdc f).htc = s.htc := rfl
@[simp] theorem State.modFdc_fdc (s : State) (f : Fdc → Fdc) : (s.modFdc f).fdc = f s.fdc := rfl
@[simp] theorem State.modFdc_mru (s : State) (f : Fdc → Fdc) : (s.modFdc f).mru = s.mru := rfl
@[simp] theorem State.modFdc_inbox (s : State) (f : Fdc → Fdc) : (s.modFdc f).inbox = s.inbox := rfl
@[simp] theorem State.modFdc_pending (s : State) (f : Fdc → Fdc) : (s.modFdc f).pending = s.pending := rfl

@[simp] theorem State.modMru_mem (s : State) (f : Mru → Mru) : (s.modMru f).mem = s.mem := rfl
@[simp] theorem State.modMru_port (s : State) (f : Mru → Mru) : (s.modMru f).port = s.port := rfl
@[simp] theorem State.modMru_rif (s : State) (f : Mru → Mru) : (s.modMru f).rif = s.rif := rfl
@[simp] theorem State.modMru_bdr (s : State) (f : Mru → Mru) : (s.modMru f).bdr = s.bdr := rfl
@[simp] theorem State.modMru_sps (s : State) (f : Mru → Mru) : (s.modMru f).sps = s.sps := rfl
@[simp] theorem State.modMru_msc (s : State) (f : Mru → Mru) : (s.modMru f).msc = s.msc := rfl
@[simp] theorem State.modMru_trm (s : State) (f : Mru → Mru) : (s.modMru f).trm = s.trm := rfl
@[simp] theorem State.modMru_hlc (s : State) (f : Mru → Mru) : (s.modMru f).hlc = s.hlc := rfl
@[simp] theorem State.modMru_geu (s : State) (f : Mru → Mru) : (s.modMru f).geu = s.geu := rfl
@[simp] theorem State.modMru_lvc (s : State) (f : Mru → Mru) : (s.modMru f).lvc = s.lvc := rfl
@[simp] theorem State.modMru_htc (s : State) (f : Mru → Mru) : (s.modMru f).htc = s.htc := rfl
@[simp] theorem State.modMru_fdc (s : State) (f : Mru → Mru) : (s.modMru f).fdc = s.fdc := rfl
@[simp] theorem State.modMru_mru (s : State) (f : Mru → Mru) : (s.modMru f).mru = f s.mru := rfl
@[simp] theorem State.modMru_inbox (s : State) (f : Mru → Mru) : (s.modMru f).inbox = s.inbox := rfl
@[simp] theorem State.modMru_pending (s : State) (f : Mru → Mru) : (s.modMru f).pending = s.pending := rfl

@[simp] theorem State.modInbox_mem (s : State) (f : List Waiting → List Waiting) : (s.modInbox f).mem = s.mem := rfl
@[simp] theorem State.modInbox_port (s : State) (f : List Waiting → List Waiting) : (s.modInbox f).port = s.port := rfl
@[simp] theorem State.modInbox_rif (s : State) (f : List Waiting → List Waiting) : (s.modInbox f).rif = s.rif := rfl
@[simp] theorem State.modInbox_bdr (s : State) (f : List Waiting → List Waiting) : (s.modInbox f).bdr = s.bdr := rfl
@[simp] theorem State.modInbox_sps (s : State) (f : List Waiting → List Waiting) : (s.modInbox f).sps = s.sps := rfl
@[simp] theorem State.modInbox_msc (s : State) (f : List Waiting → List Waiting) : (s.modInbox f).msc = s.msc := rfl
@[simp] theorem State.modInbox_trm (s : State) (f : List Waiting → List Waiting) : (s.modInbox f).trm = s.trm := rfl
@[simp] theorem State.modInbox_hlc (s : State) (f : List Waiting → List Waiting) : (s.modInbox f).hlc = s.hlc := rfl
@[simp] theorem State.modInbox_geu (s : State) (f : List Waiting → List Waiting) : (s.modInbox f).geu = s.geu := rfl
@[simp] theorem State.modInbox_lvc (s : State) (f : List Waiting → List Waiting) : (s.modInbox f).lvc = s.lvc := rfl
@[simp] theorem State.modInbox_htc (s : State) (f : List Waiting → List Waiting) : (s.modInbox f).htc = s.htc := rfl
@[simp] theorem State.modInbox_fdc (s : State) (f : List Waiting → List Waiting) : (s.modInbox f).fdc = s.fdc := rfl
@[simp] theorem State.modInbox_mru (s : State) (f : List Waiting → List Waiting) : (s.modInbox f).mru = s.mru := rfl
@[simp] theorem State.modInbox_inbox (s : State) (f : List Waiting → List Waiting) : (s.modInbox f).inbox = f s.inbox := rfl
@[simp] theorem State.modInbox_pending (s : State) (f : List Waiting → List Waiting) : (s.modInbox f).pending = s.pending := rfl

/-! A conditional state, field by field. -/

@[simp] theorem State.ite_mem (c : Prop) [Decidable c] (s t : State) :
    (if c then s else t).mem = if c then s.mem else t.mem := apply_ite State.mem c s t
@[simp] theorem State.ite_port (c : Prop) [Decidable c] (s t : State) :
    (if c then s else t).port = if c then s.port else t.port := apply_ite State.port c s t
@[simp] theorem State.ite_rif (c : Prop) [Decidable c] (s t : State) :
    (if c then s else t).rif = if c then s.rif else t.rif := apply_ite State.rif c s t
@[simp] theorem State.ite_bdr (c : Prop) [Decidable c] (s t : State) :
    (if c then s else t).bdr = if c then s.bdr else t.bdr := apply_ite State.bdr c s t
@[simp] theorem State.ite_sps (c : Prop) [Decidable c] (s t : State) :
    (if c then s else t).sps = if c then s.sps else t.sps := apply_ite State.sps c s t
@[simp] theorem State.ite_msc (c : Prop) [Decidable c] (s t : State) :
    (if c then s else t).msc = if c then s.msc else t.msc := apply_ite State.msc c s t
@[simp] theorem State.ite_trm (c : Prop) [Decidable c] (s t : State) :
    (if c then s else t).trm = if c then s.trm else t.trm := apply_ite State.trm c s t
@[simp] theorem State.ite_hlc (c : Prop) [Decidable c] (s t : State) :
    (if c then s else t).hlc = if c then s.hlc else t.hlc := apply_ite State.hlc c s t
@[simp] theorem State.ite_geu (c : Prop) [Decidable c] (s t : State) :
    (if c then s else t).geu = if c then s.geu else t.geu := apply_ite State.geu c s t
@[simp] theorem State.ite_lvc (c : Prop) [Decidable c] (s t : State) :
    (if c then s else t).lvc = if c then s.lvc else t.lvc := apply_ite State.lvc c s t
@[simp] theorem State.ite_htc (c : Prop) [Decidable c] (s t : State) :
    (if c then s else t).htc = if c then s.htc else t.htc := apply_ite State.htc c s t
@[simp] theorem State.ite_fdc (c : Prop) [Decidable c] (s t : State) :
    (if c then s else t).fdc = if c then s.fdc else t.fdc := apply_ite State.fdc c s t
@[simp] theorem State.ite_mru (c : Prop) [Decidable c] (s t : State) :
    (if c then s else t).mru = if c then s.mru else t.mru := apply_ite State.mru c s t
@[simp] theorem State.ite_inbox (c : Prop) [Decidable c] (s t : State) :
    (if c then s else t).inbox = if c then s.inbox else t.inbox := apply_ite State.inbox c s t
@[simp] theorem State.ite_pending (c : Prop) [Decidable c] (s t : State) :
    (if c then s else t).pending = if c then s.pending else t.pending := apply_ite State.pending c s t

end Sys2Proof.Machine
end

