-- ==== Sys2Proof/Laws/Frame.lean ====
section
/-! SUPPORT. Which blocks each operation leaves alone: one lemma per operation, its clauses rewriting field by field. -/
set_option linter.unusedTactic false
set_option linter.unreachableTactic false

namespace Sys2Proof.Machine

/-- A field that one step of a fold keeps is kept by the fold. -/
theorem foldl_keeps {α β γ : Type} (g : α → γ) (f : α → β → α) (h : ∀ s i, g (f s i) = g s) (l : List β) (s : α) :
    g (l.foldl f s) = g s := by
  induction l generalizing s with
  | nil => rfl
  | cons i l ih => rw [List.foldl_cons, ih, h]

/-! ## Ops -/

@[simp] theorem State.hostWrite_frame (s : State) (h : HostWrites) :
    (s.hostWrite h).port = s.port ∧ (s.hostWrite h).rif = s.rif ∧ (s.hostWrite h).bdr = s.bdr ∧ (s.hostWrite h).sps = s.sps ∧ (s.hostWrite h).msc = s.msc ∧ (s.hostWrite h).trm = s.trm ∧ (s.hostWrite h).hlc = s.hlc ∧ (s.hostWrite h).geu = s.geu ∧ (s.hostWrite h).lvc = s.lvc ∧ (s.hostWrite h).htc = s.htc ∧ (s.hostWrite h).fdc = s.fdc ∧ (s.hostWrite h).mru = s.mru ∧ (s.hostWrite h).inbox = s.inbox ∧ (s.hostWrite h).pending = s.pending := by
  unfold State.hostWrite; refine ⟨?_, ?_, ?_, ?_, ?_, ?_, ?_, ?_, ?_, ?_, ?_, ?_, ?_, ?_⟩ <;> (repeat' first | (simp; done) | split | dsimp only | simp)

@[simp] theorem State.issueWrite_frame (s : State) (user : PortUser) (pieces : List (Nat × List Byte)) :
    (s.issueWrite user pieces).mem = s.mem ∧ (s.issueWrite user pieces).rif = s.rif ∧ (s.issueWrite user pieces).bdr = s.bdr ∧ (s.issueWrite user pieces).sps = s.sps ∧ (s.issueWrite user pieces).msc = s.msc ∧ (s.issueWrite user pieces).trm = s.trm ∧ (s.issueWrite user pieces).hlc = s.hlc ∧ (s.issueWrite user pieces).geu = s.geu ∧ (s.issueWrite user pieces).lvc = s.lvc ∧ (s.issueWrite user pieces).htc = s.htc ∧ (s.issueWrite user pieces).fdc = s.fdc ∧ (s.issueWrite user pieces).mru = s.mru ∧ (s.issueWrite user pieces).inbox = s.inbox ∧ (s.issueWrite user pieces).pending = s.pending := by
  unfold State.issueWrite; refine ⟨?_, ?_, ?_, ?_, ?_, ?_, ?_, ?_, ?_, ?_, ?_, ?_, ?_, ?_⟩ <;> (repeat' first | (simp; done) | split | dsimp only | simp)

@[simp] theorem State.landWrites_frame (s : State) (n : Nat) :
    (s.landWrites n).rif = s.rif ∧ (s.landWrites n).bdr = s.bdr ∧ (s.landWrites n).sps = s.sps ∧ (s.landWrites n).msc = s.msc ∧ (s.landWrites n).trm = s.trm ∧ (s.landWrites n).hlc = s.hlc ∧ (s.landWrites n).geu = s.geu ∧ (s.landWrites n).lvc = s.lvc ∧ (s.landWrites n).htc = s.htc ∧ (s.landWrites n).fdc = s.fdc ∧ (s.landWrites n).mru = s.mru ∧ (s.landWrites n).inbox = s.inbox ∧ (s.landWrites n).pending = s.pending := by
  unfold State.landWrites; refine ⟨?_, ?_, ?_, ?_, ?_, ?_, ?_, ?_, ?_, ?_, ?_, ?_, ?_⟩ <;> (repeat' first | (simp; done) | split | dsimp only | simp)

@[simp] theorem State.writeDone_frame (s : State) (user : PortUser) :
    (s.writeDone user).rif = s.rif ∧ (s.writeDone user).bdr = s.bdr ∧ (s.writeDone user).sps = s.sps ∧ (s.writeDone user).msc = s.msc ∧ (s.writeDone user).trm = s.trm ∧ (s.writeDone user).hlc = s.hlc ∧ (s.writeDone user).geu = s.geu ∧ (s.writeDone user).lvc = s.lvc ∧ (s.writeDone user).htc = s.htc ∧ (s.writeDone user).fdc = s.fdc ∧ (s.writeDone user).mru = s.mru ∧ (s.writeDone user).inbox = s.inbox ∧ (s.writeDone user).pending = s.pending := by
  unfold State.writeDone; refine ⟨?_, ?_, ?_, ?_, ?_, ?_, ?_, ?_, ?_, ?_, ?_, ?_, ?_⟩ <;> (repeat' first | (simp; done) | split | dsimp only | simp)

@[simp] theorem State.landAll_frame (s : State) :
    (s.landAll).rif = s.rif ∧ (s.landAll).bdr = s.bdr ∧ (s.landAll).sps = s.sps ∧ (s.landAll).msc = s.msc ∧ (s.landAll).trm = s.trm ∧ (s.landAll).hlc = s.hlc ∧ (s.landAll).geu = s.geu ∧ (s.landAll).lvc = s.lvc ∧ (s.landAll).htc = s.htc ∧ (s.landAll).fdc = s.fdc ∧ (s.landAll).mru = s.mru ∧ (s.landAll).inbox = s.inbox ∧ (s.landAll).pending = s.pending := by
  unfold State.landAll; refine ⟨?_, ?_, ?_, ?_, ?_, ?_, ?_, ?_, ?_, ?_, ?_, ?_, ?_⟩ <;> (repeat' first | (simp; done) | split | dsimp only | simp)

@[simp] theorem State.advance_frame (s : State) (ms : Nat) :
    (s.advance ms).mem = s.mem ∧ (s.advance ms).port = s.port ∧ (s.advance ms).bdr = s.bdr ∧ (s.advance ms).sps = s.sps ∧ (s.advance ms).msc = s.msc ∧ (s.advance ms).trm = s.trm ∧ (s.advance ms).hlc = s.hlc ∧ (s.advance ms).geu = s.geu ∧ (s.advance ms).lvc = s.lvc ∧ (s.advance ms).fdc = s.fdc ∧ (s.advance ms).mru = s.mru ∧ (s.advance ms).inbox = s.inbox ∧ (s.advance ms).pending = s.pending := by
  unfold State.advance; refine ⟨?_, ?_, ?_, ?_, ?_, ?_, ?_, ?_, ?_, ?_, ?_, ?_, ?_⟩ <;> (repeat' first | (simp; done) | split | dsimp only | simp)

@[simp] theorem State.runTo_frame (s : State) (expiry : Word) :
    (s.runTo expiry).mem = s.mem ∧ (s.runTo expiry).port = s.port ∧ (s.runTo expiry).bdr = s.bdr ∧ (s.runTo expiry).sps = s.sps ∧ (s.runTo expiry).msc = s.msc ∧ (s.runTo expiry).trm = s.trm ∧ (s.runTo expiry).hlc = s.hlc ∧ (s.runTo expiry).geu = s.geu ∧ (s.runTo expiry).lvc = s.lvc ∧ (s.runTo expiry).fdc = s.fdc ∧ (s.runTo expiry).mru = s.mru ∧ (s.runTo expiry).inbox = s.inbox ∧ (s.runTo expiry).pending = s.pending := by
  unfold State.runTo; refine ⟨?_, ?_, ?_, ?_, ?_, ?_, ?_, ?_, ?_, ?_, ?_, ?_, ?_⟩ <;> (repeat' first | (simp; done) | split | dsimp only | simp)

@[simp] theorem State.hand_frame (s : State) (h : Handoff) :
    (s.hand h).mem = s.mem ∧ (s.hand h).port = s.port ∧ (s.hand h).rif = s.rif ∧ (s.hand h).bdr = s.bdr ∧ (s.hand h).sps = s.sps ∧ (s.hand h).msc = s.msc ∧ (s.hand h).trm = s.trm ∧ (s.hand h).hlc = s.hlc ∧ (s.hand h).geu = s.geu ∧ (s.hand h).lvc = s.lvc ∧ (s.hand h).htc = s.htc ∧ (s.hand h).fdc = s.fdc ∧ (s.hand h).mru = s.mru ∧ (s.hand h).pending = s.pending := by
  unfold State.hand; refine ⟨?_, ?_, ?_, ?_, ?_, ?_, ?_, ?_, ?_, ?_, ?_, ?_, ?_, ?_⟩ <;> (repeat' first | (simp; done) | split | dsimp only | simp)

@[simp] theorem State.handAll_frame (s : State) (afterPave : Bool) (hs : List Handoff) :
    (s.handAll afterPave hs).mem = s.mem ∧ (s.handAll afterPave hs).port = s.port ∧ (s.handAll afterPave hs).rif = s.rif ∧ (s.handAll afterPave hs).bdr = s.bdr ∧ (s.handAll afterPave hs).sps = s.sps ∧ (s.handAll afterPave hs).msc = s.msc ∧ (s.handAll afterPave hs).trm = s.trm ∧ (s.handAll afterPave hs).hlc = s.hlc ∧ (s.handAll afterPave hs).geu = s.geu ∧ (s.handAll afterPave hs).lvc = s.lvc ∧ (s.handAll afterPave hs).htc = s.htc ∧ (s.handAll afterPave hs).fdc = s.fdc ∧ (s.handAll afterPave hs).mru = s.mru ∧ (s.handAll afterPave hs).pending = s.pending := by
  unfold State.handAll; refine ⟨?_, ?_, ?_, ?_, ?_, ?_, ?_, ?_, ?_, ?_, ?_, ?_, ?_, ?_⟩ <;> (repeat' first | (simp; done) | split | dsimp only | simp)

@[simp] theorem State.setCause_frame (s : State) (c : Cause) :
    (s.setCause c).mem = s.mem ∧ (s.setCause c).port = s.port ∧ (s.setCause c).bdr = s.bdr ∧ (s.setCause c).sps = s.sps ∧ (s.setCause c).msc = s.msc ∧ (s.setCause c).trm = s.trm ∧ (s.setCause c).hlc = s.hlc ∧ (s.setCause c).geu = s.geu ∧ (s.setCause c).lvc = s.lvc ∧ (s.setCause c).htc = s.htc ∧ (s.setCause c).fdc = s.fdc ∧ (s.setCause c).mru = s.mru ∧ (s.setCause c).inbox = s.inbox ∧ (s.setCause c).pending = s.pending := by
  unfold State.setCause; refine ⟨?_, ?_, ?_, ?_, ?_, ?_, ?_, ?_, ?_, ?_, ?_, ?_, ?_, ?_⟩ <;> (repeat' first | (simp; done) | split | dsimp only | simp)

@[simp] theorem State.issueSummary_frame (s : State) :
    (s.issueSummary).mem = s.mem ∧ (s.issueSummary).bdr = s.bdr ∧ (s.issueSummary).sps = s.sps ∧ (s.issueSummary).msc = s.msc ∧ (s.issueSummary).trm = s.trm ∧ (s.issueSummary).hlc = s.hlc ∧ (s.issueSummary).geu = s.geu ∧ (s.issueSummary).lvc = s.lvc ∧ (s.issueSummary).htc = s.htc ∧ (s.issueSummary).fdc = s.fdc ∧ (s.issueSummary).mru = s.mru ∧ (s.issueSummary).inbox = s.inbox ∧ (s.issueSummary).pending = s.pending := by
  unfold State.issueSummary; refine ⟨?_, ?_, ?_, ?_, ?_, ?_, ?_, ?_, ?_, ?_, ?_, ?_, ?_⟩ <;> (repeat' first | (simp; done) | split | dsimp only | simp)

@[simp] theorem State.requestRewrite_frame (s : State) :
    (s.requestRewrite).mem = s.mem ∧ (s.requestRewrite).bdr = s.bdr ∧ (s.requestRewrite).sps = s.sps ∧ (s.requestRewrite).msc = s.msc ∧ (s.requestRewrite).trm = s.trm ∧ (s.requestRewrite).hlc = s.hlc ∧ (s.requestRewrite).geu = s.geu ∧ (s.requestRewrite).lvc = s.lvc ∧ (s.requestRewrite).htc = s.htc ∧ (s.requestRewrite).fdc = s.fdc ∧ (s.requestRewrite).mru = s.mru ∧ (s.requestRewrite).inbox = s.inbox ∧ (s.requestRewrite).pending = s.pending := by
  unfold State.requestRewrite; refine ⟨?_, ?_, ?_, ?_, ?_, ?_, ?_, ?_, ?_, ?_, ?_, ?_, ?_⟩ <;> (repeat' first | (simp; done) | split | dsimp only | simp)

@[simp] theorem State.issuePending_frame (s : State) :
    (s.issuePending).mem = s.mem ∧ (s.issuePending).bdr = s.bdr ∧ (s.issuePending).sps = s.sps ∧ (s.issuePending).msc = s.msc ∧ (s.issuePending).trm = s.trm ∧ (s.issuePending).hlc = s.hlc ∧ (s.issuePending).geu = s.geu ∧ (s.issuePending).lvc = s.lvc ∧ (s.issuePending).htc = s.htc ∧ (s.issuePending).fdc = s.fdc ∧ (s.issuePending).mru = s.mru ∧ (s.issuePending).inbox = s.inbox ∧ (s.issuePending).pending = s.pending := by
  unfold State.issuePending; refine ⟨?_, ?_, ?_, ?_, ?_, ?_, ?_, ?_, ?_, ?_, ?_, ?_, ?_⟩ <;> (repeat' first | (simp; done) | split | dsimp only | simp)

@[simp] theorem State.postNote_frame (s : State) (kind : NoteKind) (subject : Nat) (value : Word) :
    (s.postNote kind subject value).mem = s.mem ∧ (s.postNote kind subject value).bdr = s.bdr ∧ (s.postNote kind subject value).sps = s.sps ∧ (s.postNote kind subject value).msc = s.msc ∧ (s.postNote kind subject value).trm = s.trm ∧ (s.postNote kind subject value).hlc = s.hlc ∧ (s.postNote kind subject value).geu = s.geu ∧ (s.postNote kind subject value).lvc = s.lvc ∧ (s.postNote kind subject value).htc = s.htc ∧ (s.postNote kind subject value).fdc = s.fdc ∧ (s.postNote kind subject value).mru = s.mru ∧ (s.postNote kind subject value).inbox = s.inbox ∧ (s.postNote kind subject value).pending = s.pending := by
  unfold State.postNote; refine ⟨?_, ?_, ?_, ?_, ?_, ?_, ?_, ?_, ?_, ?_, ?_, ?_, ?_⟩ <;> (repeat' first | (simp; done) | split | dsimp only | simp)

@[simp] theorem State.issueSlot_frame (s : State) (slot : Nat) (o : SlotOutcome) :
    (s.issueSlot slot o).mem = s.mem ∧ (s.issueSlot slot o).rif = s.rif ∧ (s.issueSlot slot o).bdr = s.bdr ∧ (s.issueSlot slot o).sps = s.sps ∧ (s.issueSlot slot o).msc = s.msc ∧ (s.issueSlot slot o).trm = s.trm ∧ (s.issueSlot slot o).hlc = s.hlc ∧ (s.issueSlot slot o).geu = s.geu ∧ (s.issueSlot slot o).lvc = s.lvc ∧ (s.issueSlot slot o).htc = s.htc ∧ (s.issueSlot slot o).fdc = s.fdc ∧ (s.issueSlot slot o).mru = s.mru ∧ (s.issueSlot slot o).inbox = s.inbox ∧ (s.issueSlot slot o).pending = s.pending := by
  unfold State.issueSlot; refine ⟨?_, ?_, ?_, ?_, ?_, ?_, ?_, ?_, ?_, ?_, ?_, ?_, ?_, ?_⟩ <;> (repeat' first | (simp; done) | split | dsimp only | simp)

@[simp] theorem State.issueOutcome_frame (s : State) (state : SlotState) (result : Word) (reason : Reason) (ind : Indicators) :
    (s.issueOutcome state result reason ind).mem = s.mem ∧ (s.issueOutcome state result reason ind).rif = s.rif ∧ (s.issueOutcome state result reason ind).sps = s.sps ∧ (s.issueOutcome state result reason ind).msc = s.msc ∧ (s.issueOutcome state result reason ind).trm = s.trm ∧ (s.issueOutcome state result reason ind).hlc = s.hlc ∧ (s.issueOutcome state result reason ind).geu = s.geu ∧ (s.issueOutcome state result reason ind).lvc = s.lvc ∧ (s.issueOutcome state result reason ind).htc = s.htc ∧ (s.issueOutcome state result reason ind).fdc = s.fdc ∧ (s.issueOutcome state result reason ind).mru = s.mru ∧ (s.issueOutcome state result reason ind).inbox = s.inbox ∧ (s.issueOutcome state result reason ind).pending = s.pending := by
  unfold State.issueOutcome; refine ⟨?_, ?_, ?_, ?_, ?_, ?_, ?_, ?_, ?_, ?_, ?_, ?_, ?_⟩ <;> (repeat' first | (simp; done) | split | dsimp only | simp)

@[simp] theorem State.finishDone_frame (s : State) (result : Word) (limit soft pending : Bool) :
    (s.finishDone result limit soft pending).mem = s.mem ∧ (s.finishDone result limit soft pending).rif = s.rif ∧ (s.finishDone result limit soft pending).sps = s.sps ∧ (s.finishDone result limit soft pending).msc = s.msc ∧ (s.finishDone result limit soft pending).trm = s.trm ∧ (s.finishDone result limit soft pending).hlc = s.hlc ∧ (s.finishDone result limit soft pending).geu = s.geu ∧ (s.finishDone result limit soft pending).lvc = s.lvc ∧ (s.finishDone result limit soft pending).htc = s.htc ∧ (s.finishDone result limit soft pending).fdc = s.fdc ∧ (s.finishDone result limit soft pending).mru = s.mru ∧ (s.finishDone result limit soft pending).inbox = s.inbox ∧ (s.finishDone result limit soft pending).pending = s.pending := by
  unfold State.finishDone; refine ⟨?_, ?_, ?_, ?_, ?_, ?_, ?_, ?_, ?_, ?_, ?_, ?_, ?_⟩ <;> (repeat' first | (simp; done) | split | dsimp only | simp)

@[simp] theorem State.finishRefused_frame (s : State) (reason : Reason) :
    (s.finishRefused reason).mem = s.mem ∧ (s.finishRefused reason).rif = s.rif ∧ (s.finishRefused reason).sps = s.sps ∧ (s.finishRefused reason).msc = s.msc ∧ (s.finishRefused reason).trm = s.trm ∧ (s.finishRefused reason).hlc = s.hlc ∧ (s.finishRefused reason).geu = s.geu ∧ (s.finishRefused reason).lvc = s.lvc ∧ (s.finishRefused reason).htc = s.htc ∧ (s.finishRefused reason).fdc = s.fdc ∧ (s.finishRefused reason).mru = s.mru ∧ (s.finishRefused reason).inbox = s.inbox ∧ (s.finishRefused reason).pending = s.pending := by
  unfold State.finishRefused; refine ⟨?_, ?_, ?_, ?_, ?_, ?_, ?_, ?_, ?_, ?_, ?_, ?_, ?_⟩ <;> (repeat' first | (simp; done) | split | dsimp only | simp)

@[simp] theorem State.holdInFlight_frame (s : State) :
    (s.holdInFlight).mem = s.mem ∧ (s.holdInFlight).port = s.port ∧ (s.holdInFlight).rif = s.rif ∧ (s.holdInFlight).sps = s.sps ∧ (s.holdInFlight).msc = s.msc ∧ (s.holdInFlight).trm = s.trm ∧ (s.holdInFlight).hlc = s.hlc ∧ (s.holdInFlight).geu = s.geu ∧ (s.holdInFlight).lvc = s.lvc ∧ (s.holdInFlight).htc = s.htc ∧ (s.holdInFlight).fdc = s.fdc ∧ (s.holdInFlight).mru = s.mru ∧ (s.holdInFlight).inbox = s.inbox ∧ (s.holdInFlight).pending = s.pending := by
  unfold State.holdInFlight; refine ⟨?_, ?_, ?_, ?_, ?_, ?_, ?_, ?_, ?_, ?_, ?_, ?_, ?_, ?_⟩ <;> (repeat' first | (simp; done) | split | dsimp only | simp)

/-! ## Region -/

@[simp] theorem State.reportRun_frame (s : State) (status : RunStatus) :
    (s.reportRun status).mem = s.mem ∧ (s.reportRun status).port = s.port ∧ (s.reportRun status).rif = s.rif ∧ (s.reportRun status).bdr = s.bdr ∧ (s.reportRun status).sps = s.sps ∧ (s.reportRun status).msc = s.msc ∧ (s.reportRun status).trm = s.trm ∧ (s.reportRun status).hlc = s.hlc ∧ (s.reportRun status).geu = s.geu ∧ (s.reportRun status).lvc = s.lvc ∧ (s.reportRun status).htc = s.htc ∧ (s.reportRun status).fdc = s.fdc ∧ (s.reportRun status).mru = s.mru ∧ (s.reportRun status).pending = s.pending := by
  unfold State.reportRun; refine ⟨?_, ?_, ?_, ?_, ?_, ?_, ?_, ?_, ?_, ?_, ?_, ?_, ?_, ?_⟩ <;> (repeat' first | (simp; done) | split | dsimp only | simp)

@[simp] theorem State.setRun_frame (s : State) (status : RunStatus) :
    (s.setRun status).mem = s.mem ∧ (s.setRun status).port = s.port ∧ (s.setRun status).bdr = s.bdr ∧ (s.setRun status).sps = s.sps ∧ (s.setRun status).msc = s.msc ∧ (s.setRun status).trm = s.trm ∧ (s.setRun status).hlc = s.hlc ∧ (s.setRun status).geu = s.geu ∧ (s.setRun status).lvc = s.lvc ∧ (s.setRun status).htc = s.htc ∧ (s.setRun status).fdc = s.fdc ∧ (s.setRun status).mru = s.mru ∧ (s.setRun status).pending = s.pending := by
  unfold State.setRun; refine ⟨?_, ?_, ?_, ?_, ?_, ?_, ?_, ?_, ?_, ?_, ?_, ?_, ?_⟩ <;> (repeat' first | (simp; done) | split | dsimp only | simp)

@[simp] theorem State.enterRunning_frame (s : State) (wrote : Bool) :
    (s.enterRunning wrote).mem = s.mem ∧ (s.enterRunning wrote).bdr = s.bdr ∧ (s.enterRunning wrote).sps = s.sps ∧ (s.enterRunning wrote).msc = s.msc ∧ (s.enterRunning wrote).trm = s.trm ∧ (s.enterRunning wrote).hlc = s.hlc ∧ (s.enterRunning wrote).geu = s.geu ∧ (s.enterRunning wrote).lvc = s.lvc ∧ (s.enterRunning wrote).htc = s.htc ∧ (s.enterRunning wrote).fdc = s.fdc ∧ (s.enterRunning wrote).mru = s.mru ∧ (s.enterRunning wrote).pending = s.pending := by
  unfold State.enterRunning; refine ⟨?_, ?_, ?_, ?_, ?_, ?_, ?_, ?_, ?_, ?_, ?_, ?_⟩ <;> (repeat' first | (simp; done) | split | dsimp only | simp)

@[simp] theorem State.runWritten_frame (s : State) :
    (s.runWritten).mem = s.mem ∧ (s.runWritten).port = s.port ∧ (s.runWritten).bdr = s.bdr ∧ (s.runWritten).sps = s.sps ∧ (s.runWritten).msc = s.msc ∧ (s.runWritten).trm = s.trm ∧ (s.runWritten).hlc = s.hlc ∧ (s.runWritten).geu = s.geu ∧ (s.runWritten).lvc = s.lvc ∧ (s.runWritten).htc = s.htc ∧ (s.runWritten).fdc = s.fdc ∧ (s.runWritten).mru = s.mru ∧ (s.runWritten).pending = s.pending := by
  unfold State.runWritten; refine ⟨?_, ?_, ?_, ?_, ?_, ?_, ?_, ?_, ?_, ?_, ?_, ?_, ?_⟩ <;> (repeat' first | (simp; done) | split | dsimp only | simp)

@[simp] theorem State.stopWritten_frame (s : State) :
    (s.stopWritten).mem = s.mem ∧ (s.stopWritten).port = s.port ∧ (s.stopWritten).bdr = s.bdr ∧ (s.stopWritten).sps = s.sps ∧ (s.stopWritten).msc = s.msc ∧ (s.stopWritten).trm = s.trm ∧ (s.stopWritten).hlc = s.hlc ∧ (s.stopWritten).geu = s.geu ∧ (s.stopWritten).lvc = s.lvc ∧ (s.stopWritten).htc = s.htc ∧ (s.stopWritten).fdc = s.fdc ∧ (s.stopWritten).mru = s.mru ∧ (s.stopWritten).pending = s.pending := by
  unfold State.stopWritten; refine ⟨?_, ?_, ?_, ?_, ?_, ?_, ?_, ?_, ?_, ?_, ?_, ?_, ?_⟩ <;> (repeat' first | (simp; done) | split | dsimp only | simp)

@[simp] theorem State.failStart_frame (s : State) :
    (s.failStart).mem = s.mem ∧ (s.failStart).port = s.port ∧ (s.failStart).bdr = s.bdr ∧ (s.failStart).sps = s.sps ∧ (s.failStart).msc = s.msc ∧ (s.failStart).trm = s.trm ∧ (s.failStart).hlc = s.hlc ∧ (s.failStart).geu = s.geu ∧ (s.failStart).lvc = s.lvc ∧ (s.failStart).htc = s.htc ∧ (s.failStart).fdc = s.fdc ∧ (s.failStart).mru = s.mru ∧ (s.failStart).pending = s.pending := by
  unfold State.failStart; refine ⟨?_, ?_, ?_, ?_, ?_, ?_, ?_, ?_, ?_, ?_, ?_, ?_, ?_⟩ <;> (repeat' first | (simp; done) | split | dsimp only | simp)

@[simp] theorem State.passLayout_frame (s : State) (l : Layout) :
    (s.passLayout l).mem = s.mem ∧ (s.passLayout l).sps = s.sps ∧ (s.passLayout l).msc = s.msc ∧ (s.passLayout l).trm = s.trm ∧ (s.passLayout l).hlc = s.hlc ∧ (s.passLayout l).geu = s.geu ∧ (s.passLayout l).lvc = s.lvc ∧ (s.passLayout l).htc = s.htc ∧ (s.passLayout l).fdc = s.fdc ∧ (s.passLayout l).mru = s.mru ∧ (s.passLayout l).inbox = s.inbox ∧ (s.passLayout l).pending = s.pending := by
  unfold State.passLayout; refine ⟨?_, ?_, ?_, ?_, ?_, ?_, ?_, ?_, ?_, ?_, ?_, ?_⟩ <;> (repeat' first | (simp; done) | split | dsimp only | simp)

@[simp] theorem State.issueNote_frame (s : State) :
    (s.issueNote).mem = s.mem ∧ (s.issueNote).bdr = s.bdr ∧ (s.issueNote).sps = s.sps ∧ (s.issueNote).msc = s.msc ∧ (s.issueNote).trm = s.trm ∧ (s.issueNote).hlc = s.hlc ∧ (s.issueNote).geu = s.geu ∧ (s.issueNote).lvc = s.lvc ∧ (s.issueNote).htc = s.htc ∧ (s.issueNote).fdc = s.fdc ∧ (s.issueNote).mru = s.mru ∧ (s.issueNote).inbox = s.inbox ∧ (s.issueNote).pending = s.pending := by
  unfold State.issueNote; refine ⟨?_, ?_, ?_, ?_, ?_, ?_, ?_, ?_, ?_, ?_, ?_, ?_, ?_⟩ <;> (repeat' first | (simp; done) | split | dsimp only | simp)

/-! ## Board -/

@[simp] theorem State.beginExecution_frame (s : State) (o : Order) (late : Bool) :
    (s.beginExecution o late).mem = s.mem ∧ (s.beginExecution o late).rif = s.rif ∧ (s.beginExecution o late).sps = s.sps ∧ (s.beginExecution o late).msc = s.msc ∧ (s.beginExecution o late).trm = s.trm ∧ (s.beginExecution o late).hlc = s.hlc ∧ (s.beginExecution o late).geu = s.geu ∧ (s.beginExecution o late).lvc = s.lvc ∧ (s.beginExecution o late).htc = s.htc ∧ (s.beginExecution o late).fdc = s.fdc ∧ (s.beginExecution o late).mru = s.mru ∧ (s.beginExecution o late).inbox = s.inbox ∧ (s.beginExecution o late).pending = s.pending := by
  unfold State.beginExecution; refine ⟨?_, ?_, ?_, ?_, ?_, ?_, ?_, ?_, ?_, ?_, ?_, ?_, ?_⟩ <;> (repeat' first | (simp; done) | split | dsimp only | simp)

@[simp] theorem State.startDue_frame (s : State) :
    (s.startDue).mem = s.mem ∧ (s.startDue).rif = s.rif ∧ (s.startDue).sps = s.sps ∧ (s.startDue).msc = s.msc ∧ (s.startDue).trm = s.trm ∧ (s.startDue).hlc = s.hlc ∧ (s.startDue).geu = s.geu ∧ (s.startDue).lvc = s.lvc ∧ (s.startDue).htc = s.htc ∧ (s.startDue).fdc = s.fdc ∧ (s.startDue).mru = s.mru ∧ (s.startDue).inbox = s.inbox ∧ (s.startDue).pending = s.pending := by
  unfold State.startDue; refine ⟨?_, ?_, ?_, ?_, ?_, ?_, ?_, ?_, ?_, ?_, ?_, ?_, ?_⟩ <;> (repeat' first | (simp; done) | split | dsimp only | simp)

@[simp] theorem State.stopStep_frame (s : State) :
    (s.stopStep).mem = s.mem ∧ (s.stopStep).sps = s.sps ∧ (s.stopStep).msc = s.msc ∧ (s.stopStep).trm = s.trm ∧ (s.stopStep).hlc = s.hlc ∧ (s.stopStep).geu = s.geu ∧ (s.stopStep).lvc = s.lvc ∧ (s.stopStep).htc = s.htc ∧ (s.stopStep).fdc = s.fdc ∧ (s.stopStep).mru = s.mru ∧ (s.stopStep).inbox = s.inbox ∧ (s.stopStep).pending = s.pending := by
  unfold State.stopStep; refine ⟨?_, ?_, ?_, ?_, ?_, ?_, ?_, ?_, ?_, ?_, ?_, ?_⟩ <;> (repeat' first | (simp; done) | split | dsimp only | simp)

@[simp] theorem State.chooseNext_frame (s : State) :
    (s.chooseNext).mem = s.mem ∧ (s.chooseNext).sps = s.sps ∧ (s.chooseNext).msc = s.msc ∧ (s.chooseNext).trm = s.trm ∧ (s.chooseNext).hlc = s.hlc ∧ (s.chooseNext).geu = s.geu ∧ (s.chooseNext).lvc = s.lvc ∧ (s.chooseNext).htc = s.htc ∧ (s.chooseNext).fdc = s.fdc ∧ (s.chooseNext).mru = s.mru ∧ (s.chooseNext).inbox = s.inbox ∧ (s.chooseNext).pending = s.pending := by
  unfold State.chooseNext; refine ⟨?_, ?_, ?_, ?_, ?_, ?_, ?_, ?_, ?_, ?_, ?_, ?_⟩ <;> (repeat' first | (simp; done) | split | dsimp only | simp)

@[simp] theorem State.addHistory_frame (s : State) (o : Order) (state : SlotState) :
    (s.addHistory o state).mem = s.mem ∧ (s.addHistory o state).port = s.port ∧ (s.addHistory o state).rif = s.rif ∧ (s.addHistory o state).sps = s.sps ∧ (s.addHistory o state).msc = s.msc ∧ (s.addHistory o state).trm = s.trm ∧ (s.addHistory o state).hlc = s.hlc ∧ (s.addHistory o state).geu = s.geu ∧ (s.addHistory o state).lvc = s.lvc ∧ (s.addHistory o state).htc = s.htc ∧ (s.addHistory o state).fdc = s.fdc ∧ (s.addHistory o state).mru = s.mru ∧ (s.addHistory o state).inbox = s.inbox ∧ (s.addHistory o state).pending = s.pending := by
  unfold State.addHistory; refine ⟨?_, ?_, ?_, ?_, ?_, ?_, ?_, ?_, ?_, ?_, ?_, ?_, ?_, ?_⟩ <;> (repeat' first | (simp; done) | split | dsimp only | simp)

@[simp] theorem State.countOutcome_frame (s : State) :
    (s.countOutcome).mem = s.mem ∧ (s.countOutcome).bdr = s.bdr ∧ (s.countOutcome).sps = s.sps ∧ (s.countOutcome).msc = s.msc ∧ (s.countOutcome).trm = s.trm ∧ (s.countOutcome).hlc = s.hlc ∧ (s.countOutcome).geu = s.geu ∧ (s.countOutcome).lvc = s.lvc ∧ (s.countOutcome).htc = s.htc ∧ (s.countOutcome).fdc = s.fdc ∧ (s.countOutcome).mru = s.mru ∧ (s.countOutcome).inbox = s.inbox ∧ (s.countOutcome).pending = s.pending := by
  unfold State.countOutcome; refine ⟨?_, ?_, ?_, ?_, ?_, ?_, ?_, ?_, ?_, ?_, ?_, ?_, ?_⟩ <;> (repeat' first | (simp; done) | split | dsimp only | simp)

@[simp] theorem State.stageOrder_frame (s : State) (o : Order) :
    (s.stageOrder o).mem = s.mem ∧ (s.stageOrder o).rif = s.rif ∧ (s.stageOrder o).sps = s.sps ∧ (s.stageOrder o).msc = s.msc ∧ (s.stageOrder o).trm = s.trm ∧ (s.stageOrder o).hlc = s.hlc ∧ (s.stageOrder o).geu = s.geu ∧ (s.stageOrder o).lvc = s.lvc ∧ (s.stageOrder o).htc = s.htc ∧ (s.stageOrder o).fdc = s.fdc ∧ (s.stageOrder o).mru = s.mru ∧ (s.stageOrder o).inbox = s.inbox ∧ (s.stageOrder o).pending = s.pending := by
  unfold State.stageOrder; refine ⟨?_, ?_, ?_, ?_, ?_, ?_, ?_, ?_, ?_, ?_, ?_, ?_, ?_⟩ <;> (repeat' first | (simp; done) | split | dsimp only | simp)

@[simp] theorem State.writeTaken_frame (s : State) (o : Order) :
    (s.writeTaken o).rif = s.rif ∧ (s.writeTaken o).bdr = s.bdr ∧ (s.writeTaken o).sps = s.sps ∧ (s.writeTaken o).msc = s.msc ∧ (s.writeTaken o).trm = s.trm ∧ (s.writeTaken o).hlc = s.hlc ∧ (s.writeTaken o).geu = s.geu ∧ (s.writeTaken o).lvc = s.lvc ∧ (s.writeTaken o).htc = s.htc ∧ (s.writeTaken o).fdc = s.fdc ∧ (s.writeTaken o).mru = s.mru ∧ (s.writeTaken o).inbox = s.inbox ∧ (s.writeTaken o).pending = s.pending := by
  unfold State.writeTaken; refine ⟨?_, ?_, ?_, ?_, ?_, ?_, ?_, ?_, ?_, ?_, ?_, ?_, ?_⟩ <;> (repeat' first | (simp; done) | split | dsimp only | simp)

@[simp] theorem State.takeOrder_frame (s : State) (o : Order) :
    (s.takeOrder o).rif = s.rif ∧ (s.takeOrder o).sps = s.sps ∧ (s.takeOrder o).msc = s.msc ∧ (s.takeOrder o).trm = s.trm ∧ (s.takeOrder o).hlc = s.hlc ∧ (s.takeOrder o).geu = s.geu ∧ (s.takeOrder o).lvc = s.lvc ∧ (s.takeOrder o).htc = s.htc ∧ (s.takeOrder o).fdc = s.fdc ∧ (s.takeOrder o).mru = s.mru ∧ (s.takeOrder o).inbox = s.inbox ∧ (s.takeOrder o).pending = s.pending := by
  unfold State.takeOrder; refine ⟨?_, ?_, ?_, ?_, ?_, ?_, ?_, ?_, ?_, ?_, ?_, ?_⟩ <;> (repeat' first | (simp; done) | split | dsimp only | simp)

@[simp] theorem State.refuseCheck_frame (s : State) (slot : Nat) :
    (s.refuseCheck slot).mem = s.mem ∧ (s.refuseCheck slot).sps = s.sps ∧ (s.refuseCheck slot).msc = s.msc ∧ (s.refuseCheck slot).trm = s.trm ∧ (s.refuseCheck slot).hlc = s.hlc ∧ (s.refuseCheck slot).geu = s.geu ∧ (s.refuseCheck slot).lvc = s.lvc ∧ (s.refuseCheck slot).htc = s.htc ∧ (s.refuseCheck slot).fdc = s.fdc ∧ (s.refuseCheck slot).mru = s.mru ∧ (s.refuseCheck slot).inbox = s.inbox ∧ (s.refuseCheck slot).pending = s.pending := by
  unfold State.refuseCheck; refine ⟨?_, ?_, ?_, ?_, ?_, ?_, ?_, ?_, ?_, ?_, ?_, ?_⟩ <;> (repeat' first | (simp; done) | split | dsimp only | simp)

@[simp] theorem State.judgeSlot_frame (s : State) (slot : Nat) :
    (s.judgeSlot slot).sps = s.sps ∧ (s.judgeSlot slot).msc = s.msc ∧ (s.judgeSlot slot).trm = s.trm ∧ (s.judgeSlot slot).hlc = s.hlc ∧ (s.judgeSlot slot).geu = s.geu ∧ (s.judgeSlot slot).lvc = s.lvc ∧ (s.judgeSlot slot).htc = s.htc ∧ (s.judgeSlot slot).fdc = s.fdc ∧ (s.judgeSlot slot).mru = s.mru ∧ (s.judgeSlot slot).inbox = s.inbox ∧ (s.judgeSlot slot).pending = s.pending := by
  unfold State.judgeSlot; refine ⟨?_, ?_, ?_, ?_, ?_, ?_, ?_, ?_, ?_, ?_, ?_⟩ <;> (repeat' first | (simp; done) | split | dsimp only | simp)

@[simp] theorem State.startupNext_frame (s : State) (slot : Nat) :
    (s.startupNext slot).mem = s.mem ∧ (s.startupNext slot).sps = s.sps ∧ (s.startupNext slot).msc = s.msc ∧ (s.startupNext slot).trm = s.trm ∧ (s.startupNext slot).hlc = s.hlc ∧ (s.startupNext slot).geu = s.geu ∧ (s.startupNext slot).lvc = s.lvc ∧ (s.startupNext slot).htc = s.htc ∧ (s.startupNext slot).fdc = s.fdc ∧ (s.startupNext slot).mru = s.mru ∧ (s.startupNext slot).pending = s.pending := by
  unfold State.startupNext; refine ⟨?_, ?_, ?_, ?_, ?_, ?_, ?_, ?_, ?_, ?_, ?_⟩ <;> (repeat' first | (simp; done) | split | dsimp only | simp)

@[simp] theorem State.boardRun_frame (s : State) (status : RunStatus) :
    (s.boardRun status).mem = s.mem ∧ (s.boardRun status).sps = s.sps ∧ (s.boardRun status).msc = s.msc ∧ (s.boardRun status).trm = s.trm ∧ (s.boardRun status).hlc = s.hlc ∧ (s.boardRun status).geu = s.geu ∧ (s.boardRun status).lvc = s.lvc ∧ (s.boardRun status).htc = s.htc ∧ (s.boardRun status).fdc = s.fdc ∧ (s.boardRun status).mru = s.mru ∧ (s.boardRun status).inbox = s.inbox ∧ (s.boardRun status).pending = s.pending := by
  unfold State.boardRun; refine ⟨?_, ?_, ?_, ?_, ?_, ?_, ?_, ?_, ?_, ?_, ?_, ?_⟩ <;> (repeat' first | (simp; done) | split | dsimp only | simp)

/-! ## Modes -/

@[simp] theorem State.recompute_frame (s : State) :
    (s.recompute).mem = s.mem ∧ (s.recompute).port = s.port ∧ (s.recompute).rif = s.rif ∧ (s.recompute).bdr = s.bdr ∧ (s.recompute).sps = s.sps ∧ (s.recompute).trm = s.trm ∧ (s.recompute).hlc = s.hlc ∧ (s.recompute).geu = s.geu ∧ (s.recompute).lvc = s.lvc ∧ (s.recompute).htc = s.htc ∧ (s.recompute).fdc = s.fdc ∧ (s.recompute).mru = s.mru ∧ (s.recompute).pending = s.pending := by
  unfold State.recompute; refine ⟨?_, ?_, ?_, ?_, ?_, ?_, ?_, ?_, ?_, ?_, ?_, ?_, ?_⟩ <;> (repeat' first | (simp; done) | split | dsimp only | simp)

@[simp] theorem State.transition_frame (s : State) (target : MachineState) (pause : Option PauseCause) (cause : ChangeCause) :
    (s.transition target pause cause).mem = s.mem ∧ (s.transition target pause cause).bdr = s.bdr ∧ (s.transition target pause cause).sps = s.sps ∧ (s.transition target pause cause).trm = s.trm ∧ (s.transition target pause cause).hlc = s.hlc ∧ (s.transition target pause cause).geu = s.geu ∧ (s.transition target pause cause).lvc = s.lvc ∧ (s.transition target pause cause).htc = s.htc ∧ (s.transition target pause cause).fdc = s.fdc ∧ (s.transition target pause cause).mru = s.mru ∧ (s.transition target pause cause).pending = s.pending := by
  unfold State.transition; refine ⟨?_, ?_, ?_, ?_, ?_, ?_, ?_, ?_, ?_, ?_, ?_⟩ <;> (repeat' first | (simp; done) | split | dsimp only | simp)

@[simp] theorem State.setStateEffect_frame (s : State) (target : MachineState) :
    (s.setStateEffect target).mem = s.mem ∧ (s.setStateEffect target).bdr = s.bdr ∧ (s.setStateEffect target).sps = s.sps ∧ (s.setStateEffect target).trm = s.trm ∧ (s.setStateEffect target).hlc = s.hlc ∧ (s.setStateEffect target).geu = s.geu ∧ (s.setStateEffect target).lvc = s.lvc ∧ (s.setStateEffect target).htc = s.htc ∧ (s.setStateEffect target).fdc = s.fdc ∧ (s.setStateEffect target).mru = s.mru ∧ (s.setStateEffect target).pending = s.pending := by
  unfold State.setStateEffect; refine ⟨?_, ?_, ?_, ?_, ?_, ?_, ?_, ?_, ?_, ?_, ?_⟩ <;> (repeat' first | (simp; done) | split | dsimp only | simp)

@[simp] theorem State.assertHalt_frame (s : State) :
    (s.assertHalt).mem = s.mem ∧ (s.assertHalt).bdr = s.bdr ∧ (s.assertHalt).sps = s.sps ∧ (s.assertHalt).trm = s.trm ∧ (s.assertHalt).hlc = s.hlc ∧ (s.assertHalt).geu = s.geu ∧ (s.assertHalt).lvc = s.lvc ∧ (s.assertHalt).htc = s.htc ∧ (s.assertHalt).fdc = s.fdc ∧ (s.assertHalt).mru = s.mru ∧ (s.assertHalt).pending = s.pending := by
  unfold State.assertHalt; refine ⟨?_, ?_, ?_, ?_, ?_, ?_, ?_, ?_, ?_, ?_, ?_⟩ <;> (repeat' first | (simp; done) | split | dsimp only | simp)

@[simp] theorem State.recomputeAndShow_frame (s : State) :
    (s.recomputeAndShow).mem = s.mem ∧ (s.recomputeAndShow).bdr = s.bdr ∧ (s.recomputeAndShow).sps = s.sps ∧ (s.recomputeAndShow).trm = s.trm ∧ (s.recomputeAndShow).hlc = s.hlc ∧ (s.recomputeAndShow).geu = s.geu ∧ (s.recomputeAndShow).lvc = s.lvc ∧ (s.recomputeAndShow).htc = s.htc ∧ (s.recomputeAndShow).fdc = s.fdc ∧ (s.recomputeAndShow).mru = s.mru ∧ (s.recomputeAndShow).pending = s.pending := by
  unfold State.recomputeAndShow; refine ⟨?_, ?_, ?_, ?_, ?_, ?_, ?_, ?_, ?_, ?_, ?_⟩ <;> (repeat' first | (simp; done) | split | dsimp only | simp)

@[simp] theorem State.travelTimerMove_frame (s : State) :
    (s.travelTimerMove).mem = s.mem ∧ (s.travelTimerMove).port = s.port ∧ (s.travelTimerMove).rif = s.rif ∧ (s.travelTimerMove).bdr = s.bdr ∧ (s.travelTimerMove).sps = s.sps ∧ (s.travelTimerMove).trm = s.trm ∧ (s.travelTimerMove).hlc = s.hlc ∧ (s.travelTimerMove).geu = s.geu ∧ (s.travelTimerMove).lvc = s.lvc ∧ (s.travelTimerMove).htc = s.htc ∧ (s.travelTimerMove).fdc = s.fdc ∧ (s.travelTimerMove).mru = s.mru ∧ (s.travelTimerMove).inbox = s.inbox ∧ (s.travelTimerMove).pending = s.pending := by
  unfold State.travelTimerMove; refine ⟨?_, ?_, ?_, ?_, ?_, ?_, ?_, ?_, ?_, ?_, ?_, ?_, ?_, ?_⟩ <;> (repeat' first | (simp; done) | split | dsimp only | simp)

@[simp] theorem State.endOfRun_frame (s : State) :
    (s.endOfRun).mem = s.mem ∧ (s.endOfRun).port = s.port ∧ (s.endOfRun).rif = s.rif ∧ (s.endOfRun).bdr = s.bdr ∧ (s.endOfRun).sps = s.sps ∧ (s.endOfRun).trm = s.trm ∧ (s.endOfRun).hlc = s.hlc ∧ (s.endOfRun).geu = s.geu ∧ (s.endOfRun).lvc = s.lvc ∧ (s.endOfRun).htc = s.htc ∧ (s.endOfRun).fdc = s.fdc ∧ (s.endOfRun).mru = s.mru ∧ (s.endOfRun).pending = s.pending := by
  unfold State.endOfRun; refine ⟨?_, ?_, ?_, ?_, ?_, ?_, ?_, ?_, ?_, ?_, ?_, ?_, ?_⟩ <;> (repeat' first | (simp; done) | split | dsimp only | simp)

@[simp] theorem State.modeRun_frame (s : State) (status : RunStatus) (halt : HaltLevel) :
    (s.modeRun status halt).mem = s.mem ∧ (s.modeRun status halt).bdr = s.bdr ∧ (s.modeRun status halt).sps = s.sps ∧ (s.modeRun status halt).trm = s.trm ∧ (s.modeRun status halt).hlc = s.hlc ∧ (s.modeRun status halt).geu = s.geu ∧ (s.modeRun status halt).lvc = s.lvc ∧ (s.modeRun status halt).htc = s.htc ∧ (s.modeRun status halt).fdc = s.fdc ∧ (s.modeRun status halt).mru = s.mru ∧ (s.modeRun status halt).pending = s.pending := by
  unfold State.modeRun; refine ⟨?_, ?_, ?_, ?_, ?_, ?_, ?_, ?_, ?_, ?_, ?_⟩ <;> (repeat' first | (simp; done) | split | dsimp only | simp)

/-! ## Store -/

@[simp] theorem State.storeSetting_frame (s : State) (i : SettingId) (v : Int) (pends : Bool) :
    (s.storeSetting i v pends).mem = s.mem ∧ (s.storeSetting i v pends).port = s.port ∧ (s.storeSetting i v pends).rif = s.rif ∧ (s.storeSetting i v pends).bdr = s.bdr ∧ (s.storeSetting i v pends).msc = s.msc ∧ (s.storeSetting i v pends).trm = s.trm ∧ (s.storeSetting i v pends).hlc = s.hlc ∧ (s.storeSetting i v pends).geu = s.geu ∧ (s.storeSetting i v pends).lvc = s.lvc ∧ (s.storeSetting i v pends).htc = s.htc ∧ (s.storeSetting i v pends).fdc = s.fdc ∧ (s.storeSetting i v pends).mru = s.mru ∧ (s.storeSetting i v pends).pending = s.pending := by
  unfold State.storeSetting; refine ⟨?_, ?_, ?_, ?_, ?_, ?_, ?_, ?_, ?_, ?_, ?_, ?_, ?_⟩ <;> (repeat' first | (simp; done) | split | dsimp only | simp)

@[simp] theorem State.valueOrder_frame (s : State) (o : Order) (x : Int) (result : Int → Int → Int) :
    (s.valueOrder o x result).mem = s.mem ∧ (s.valueOrder o x result).rif = s.rif ∧ (s.valueOrder o x result).msc = s.msc ∧ (s.valueOrder o x result).trm = s.trm ∧ (s.valueOrder o x result).hlc = s.hlc ∧ (s.valueOrder o x result).geu = s.geu ∧ (s.valueOrder o x result).lvc = s.lvc ∧ (s.valueOrder o x result).htc = s.htc ∧ (s.valueOrder o x result).fdc = s.fdc ∧ (s.valueOrder o x result).mru = s.mru ∧ (s.valueOrder o x result).pending = s.pending := by
  unfold State.valueOrder; refine ⟨?_, ?_, ?_, ?_, ?_, ?_, ?_, ?_, ?_, ?_, ?_⟩ <;> (repeat' first | (simp; done) | split | dsimp only | simp)

@[simp] theorem State.judgeImage_frame (s : State) (k : PageKind) (image : List Byte) :
    (s.judgeImage k image).mem = s.mem ∧ (s.judgeImage k image).rif = s.rif ∧ (s.judgeImage k image).msc = s.msc ∧ (s.judgeImage k image).trm = s.trm ∧ (s.judgeImage k image).hlc = s.hlc ∧ (s.judgeImage k image).geu = s.geu ∧ (s.judgeImage k image).lvc = s.lvc ∧ (s.judgeImage k image).htc = s.htc ∧ (s.judgeImage k image).fdc = s.fdc ∧ (s.judgeImage k image).mru = s.mru ∧ (s.judgeImage k image).pending = s.pending := by
  unfold State.judgeImage; refine ⟨?_, ?_, ?_, ?_, ?_, ?_, ?_, ?_, ?_, ?_, ?_⟩ <;> (repeat' first | (simp; done) | split | dsimp only | simp)

/-! ## Travel -/

@[simp] theorem State.setSpeed_frame (s : State) (speed : Half) :
    (s.setSpeed speed).mem = s.mem ∧ (s.setSpeed speed).port = s.port ∧ (s.setSpeed speed).rif = s.rif ∧ (s.setSpeed speed).bdr = s.bdr ∧ (s.setSpeed speed).sps = s.sps ∧ (s.setSpeed speed).msc = s.msc ∧ (s.setSpeed speed).hlc = s.hlc ∧ (s.setSpeed speed).geu = s.geu ∧ (s.setSpeed speed).lvc = s.lvc ∧ (s.setSpeed speed).htc = s.htc ∧ (s.setSpeed speed).fdc = s.fdc ∧ (s.setSpeed speed).mru = s.mru ∧ (s.setSpeed speed).pending = s.pending := by
  unfold State.setSpeed; refine ⟨?_, ?_, ?_, ?_, ?_, ?_, ?_, ?_, ?_, ?_, ?_, ?_, ?_⟩ <;> (repeat' first | (simp; done) | split | dsimp only | simp)

@[simp] theorem State.reportTravel_frame (s : State) (old : Trm) :
    (s.reportTravel old).mem = s.mem ∧ (s.reportTravel old).bdr = s.bdr ∧ (s.reportTravel old).sps = s.sps ∧ (s.reportTravel old).msc = s.msc ∧ (s.reportTravel old).trm = s.trm ∧ (s.reportTravel old).hlc = s.hlc ∧ (s.reportTravel old).geu = s.geu ∧ (s.reportTravel old).lvc = s.lvc ∧ (s.reportTravel old).htc = s.htc ∧ (s.reportTravel old).fdc = s.fdc ∧ (s.reportTravel old).mru = s.mru ∧ (s.reportTravel old).pending = s.pending := by
  unfold State.reportTravel; refine ⟨?_, ?_, ?_, ?_, ?_, ?_, ?_, ?_, ?_, ?_, ?_, ?_⟩ <;> (repeat' first | (simp; done) | split | dsimp only | simp)

@[simp] theorem State.applyStep_frame (s : State) (step : Nat) :
    (s.applyStep step).mem = s.mem ∧ (s.applyStep step).port = s.port ∧ (s.applyStep step).rif = s.rif ∧ (s.applyStep step).bdr = s.bdr ∧ (s.applyStep step).sps = s.sps ∧ (s.applyStep step).msc = s.msc ∧ (s.applyStep step).hlc = s.hlc ∧ (s.applyStep step).geu = s.geu ∧ (s.applyStep step).lvc = s.lvc ∧ (s.applyStep step).htc = s.htc ∧ (s.applyStep step).fdc = s.fdc ∧ (s.applyStep step).mru = s.mru ∧ (s.applyStep step).pending = s.pending := by
  unfold State.applyStep; refine ⟨?_, ?_, ?_, ?_, ?_, ?_, ?_, ?_, ?_, ?_, ?_, ?_, ?_⟩ <;> (repeat' first | (simp; done) | split | dsimp only | simp)

@[simp] theorem State.travelSeen_frame (s : State) :
    (s.travelSeen).mem = s.mem ∧ (s.travelSeen).bdr = s.bdr ∧ (s.travelSeen).sps = s.sps ∧ (s.travelSeen).msc = s.msc ∧ (s.travelSeen).hlc = s.hlc ∧ (s.travelSeen).geu = s.geu ∧ (s.travelSeen).lvc = s.lvc ∧ (s.travelSeen).htc = s.htc ∧ (s.travelSeen).fdc = s.fdc ∧ (s.travelSeen).mru = s.mru ∧ (s.travelSeen).pending = s.pending := by
  unfold State.travelSeen; refine ⟨?_, ?_, ?_, ?_, ?_, ?_, ?_, ?_, ?_, ?_, ?_⟩ <;> (repeat' first | (simp; done) | split | dsimp only | simp)

@[simp] theorem State.badStep_frame (s : State) (step : Nat) :
    (s.badStep step).mem = s.mem ∧ (s.badStep step).bdr = s.bdr ∧ (s.badStep step).sps = s.sps ∧ (s.badStep step).msc = s.msc ∧ (s.badStep step).hlc = s.hlc ∧ (s.badStep step).geu = s.geu ∧ (s.badStep step).lvc = s.lvc ∧ (s.badStep step).htc = s.htc ∧ (s.badStep step).fdc = s.fdc ∧ (s.badStep step).mru = s.mru ∧ (s.badStep step).inbox = s.inbox ∧ (s.badStep step).pending = s.pending := by
  unfold State.badStep; refine ⟨?_, ?_, ?_, ?_, ?_, ?_, ?_, ?_, ?_, ?_, ?_, ?_⟩ <;> (repeat' first | (simp; done) | split | dsimp only | simp)

@[simp] theorem State.travelStep_frame (s : State) (count : Half) (forward : Bool) (speed : Half) :
    (s.travelStep count forward speed).mem = s.mem ∧ (s.travelStep count forward speed).bdr = s.bdr ∧ (s.travelStep count forward speed).sps = s.sps ∧ (s.travelStep count forward speed).msc = s.msc ∧ (s.travelStep count forward speed).hlc = s.hlc ∧ (s.travelStep count forward speed).geu = s.geu ∧ (s.travelStep count forward speed).lvc = s.lvc ∧ (s.travelStep count forward speed).htc = s.htc ∧ (s.travelStep count forward speed).fdc = s.fdc ∧ (s.travelStep count forward speed).mru = s.mru ∧ (s.travelStep count forward speed).pending = s.pending := by
  unfold State.travelStep; refine ⟨?_, ?_, ?_, ?_, ?_, ?_, ?_, ?_, ?_, ?_, ?_⟩ <;> (repeat' first | (simp; done) | split | dsimp only | simp)

@[simp] theorem State.travelFrame_frame (s : State) (data : List Byte) :
    (s.travelFrame data).mem = s.mem ∧ (s.travelFrame data).bdr = s.bdr ∧ (s.travelFrame data).sps = s.sps ∧ (s.travelFrame data).msc = s.msc ∧ (s.travelFrame data).hlc = s.hlc ∧ (s.travelFrame data).geu = s.geu ∧ (s.travelFrame data).lvc = s.lvc ∧ (s.travelFrame data).htc = s.htc ∧ (s.travelFrame data).fdc = s.fdc ∧ (s.travelFrame data).mru = s.mru ∧ (s.travelFrame data).pending = s.pending := by
  unfold State.travelFrame; refine ⟨?_, ?_, ?_, ?_, ?_, ?_, ?_, ?_, ?_, ?_, ?_⟩ <;> (repeat' first | (simp; done) | split | dsimp only | simp)

@[simp] theorem State.generatorFrame_frame (s : State) (data : List Byte) :
    (s.generatorFrame data).mem = s.mem ∧ (s.generatorFrame data).port = s.port ∧ (s.generatorFrame data).rif = s.rif ∧ (s.generatorFrame data).bdr = s.bdr ∧ (s.generatorFrame data).sps = s.sps ∧ (s.generatorFrame data).msc = s.msc ∧ (s.generatorFrame data).hlc = s.hlc ∧ (s.generatorFrame data).geu = s.geu ∧ (s.generatorFrame data).lvc = s.lvc ∧ (s.generatorFrame data).htc = s.htc ∧ (s.generatorFrame data).fdc = s.fdc ∧ (s.generatorFrame data).mru = s.mru ∧ (s.generatorFrame data).pending = s.pending := by
  unfold State.generatorFrame; refine ⟨?_, ?_, ?_, ?_, ?_, ?_, ?_, ?_, ?_, ?_, ?_, ?_, ?_⟩ <;> (repeat' first | (simp; done) | split | dsimp only | simp)

@[simp] theorem State.consoleFrame_frame (s : State) (data : List Byte) :
    (s.consoleFrame data).mem = s.mem ∧ (s.consoleFrame data).port = s.port ∧ (s.consoleFrame data).rif = s.rif ∧ (s.consoleFrame data).bdr = s.bdr ∧ (s.consoleFrame data).sps = s.sps ∧ (s.consoleFrame data).msc = s.msc ∧ (s.consoleFrame data).trm = s.trm ∧ (s.consoleFrame data).hlc = s.hlc ∧ (s.consoleFrame data).geu = s.geu ∧ (s.consoleFrame data).lvc = s.lvc ∧ (s.consoleFrame data).htc = s.htc ∧ (s.consoleFrame data).fdc = s.fdc ∧ (s.consoleFrame data).mru = s.mru ∧ (s.consoleFrame data).pending = s.pending := by
  unfold State.consoleFrame; refine ⟨?_, ?_, ?_, ?_, ?_, ?_, ?_, ?_, ?_, ?_, ?_, ?_, ?_, ?_⟩ <;> (repeat' first | (simp; done) | split | dsimp only | simp)

@[simp] theorem State.busLost_frame (s : State) :
    (s.busLost).mem = s.mem ∧ (s.busLost).bdr = s.bdr ∧ (s.busLost).sps = s.sps ∧ (s.busLost).msc = s.msc ∧ (s.busLost).hlc = s.hlc ∧ (s.busLost).geu = s.geu ∧ (s.busLost).lvc = s.lvc ∧ (s.busLost).htc = s.htc ∧ (s.busLost).fdc = s.fdc ∧ (s.busLost).mru = s.mru ∧ (s.busLost).pending = s.pending := by
  unfold State.busLost; refine ⟨?_, ?_, ?_, ?_, ?_, ?_, ?_, ?_, ?_, ?_, ?_⟩ <;> (repeat' first | (simp; done) | split | dsimp only | simp)

@[simp] theorem State.travelStarting_frame (s : State) :
    (s.travelStarting).mem = s.mem ∧ (s.travelStarting).bdr = s.bdr ∧ (s.travelStarting).sps = s.sps ∧ (s.travelStarting).msc = s.msc ∧ (s.travelStarting).hlc = s.hlc ∧ (s.travelStarting).geu = s.geu ∧ (s.travelStarting).lvc = s.lvc ∧ (s.travelStarting).htc = s.htc ∧ (s.travelStarting).fdc = s.fdc ∧ (s.travelStarting).mru = s.mru ∧ (s.travelStarting).pending = s.pending := by
  unfold State.travelStarting; refine ⟨?_, ?_, ?_, ?_, ?_, ?_, ?_, ?_, ?_, ?_, ?_⟩ <;> (repeat' first | (simp; done) | split | dsimp only | simp)

@[simp] theorem State.travelStopped_frame (s : State) :
    (s.travelStopped).mem = s.mem ∧ (s.travelStopped).bdr = s.bdr ∧ (s.travelStopped).sps = s.sps ∧ (s.travelStopped).msc = s.msc ∧ (s.travelStopped).hlc = s.hlc ∧ (s.travelStopped).geu = s.geu ∧ (s.travelStopped).lvc = s.lvc ∧ (s.travelStopped).htc = s.htc ∧ (s.travelStopped).fdc = s.fdc ∧ (s.travelStopped).mru = s.mru ∧ (s.travelStopped).pending = s.pending := by
  unfold State.travelStopped; refine ⟨?_, ?_, ?_, ?_, ?_, ?_, ?_, ?_, ?_, ?_, ?_⟩ <;> (repeat' first | (simp; done) | split | dsimp only | simp)

@[simp] theorem State.travelRun_frame (s : State) (status : RunStatus) :
    (s.travelRun status).mem = s.mem ∧ (s.travelRun status).bdr = s.bdr ∧ (s.travelRun status).sps = s.sps ∧ (s.travelRun status).msc = s.msc ∧ (s.travelRun status).hlc = s.hlc ∧ (s.travelRun status).geu = s.geu ∧ (s.travelRun status).lvc = s.lvc ∧ (s.travelRun status).htc = s.htc ∧ (s.travelRun status).fdc = s.fdc ∧ (s.travelRun status).mru = s.mru ∧ (s.travelRun status).pending = s.pending := by
  unfold State.travelRun; refine ⟨?_, ?_, ?_, ?_, ?_, ?_, ?_, ?_, ?_, ?_, ?_⟩ <;> (repeat' first | (simp; done) | split | dsimp only | simp)

/-! ## Link -/

@[simp] theorem State.deliver_frame (s : State) (round i : Nat) (outcome : DeliveryOutcome) :
    (s.deliver round i outcome).mem = s.mem ∧ (s.deliver round i outcome).port = s.port ∧ (s.deliver round i outcome).rif = s.rif ∧ (s.deliver round i outcome).bdr = s.bdr ∧ (s.deliver round i outcome).sps = s.sps ∧ (s.deliver round i outcome).msc = s.msc ∧ (s.deliver round i outcome).trm = s.trm ∧ (s.deliver round i outcome).hlc = s.hlc ∧ (s.deliver round i outcome).geu = s.geu ∧ (s.deliver round i outcome).lvc = s.lvc ∧ (s.deliver round i outcome).htc = s.htc ∧ (s.deliver round i outcome).fdc = s.fdc ∧ (s.deliver round i outcome).mru = s.mru ∧ (s.deliver round i outcome).pending = s.pending := by
  unfold State.deliver; refine ⟨?_, ?_, ?_, ?_, ?_, ?_, ?_, ?_, ?_, ?_, ?_, ?_, ?_, ?_⟩ <;> (repeat' first | (simp; done) | split | dsimp only | simp)

@[simp] theorem State.answerScanner_frame (s : State) (answer : ScannerAnswer) :
    (s.answerScanner answer).mem = s.mem ∧ (s.answerScanner answer).port = s.port ∧ (s.answerScanner answer).rif = s.rif ∧ (s.answerScanner answer).bdr = s.bdr ∧ (s.answerScanner answer).sps = s.sps ∧ (s.answerScanner answer).msc = s.msc ∧ (s.answerScanner answer).trm = s.trm ∧ (s.answerScanner answer).hlc = s.hlc ∧ (s.answerScanner answer).geu = s.geu ∧ (s.answerScanner answer).lvc = s.lvc ∧ (s.answerScanner answer).htc = s.htc ∧ (s.answerScanner answer).fdc = s.fdc ∧ (s.answerScanner answer).mru = s.mru ∧ (s.answerScanner answer).pending = s.pending := by
  unfold State.answerScanner; refine ⟨?_, ?_, ?_, ?_, ?_, ?_, ?_, ?_, ?_, ?_, ?_, ?_, ?_, ?_⟩ <;> (repeat' first | (simp; done) | split | dsimp only | simp)

@[simp] theorem State.refuseScanner_frame (s : State) (requests : List LinkRequest) :
    (s.refuseScanner requests).mem = s.mem ∧ (s.refuseScanner requests).port = s.port ∧ (s.refuseScanner requests).rif = s.rif ∧ (s.refuseScanner requests).bdr = s.bdr ∧ (s.refuseScanner requests).sps = s.sps ∧ (s.refuseScanner requests).msc = s.msc ∧ (s.refuseScanner requests).trm = s.trm ∧ (s.refuseScanner requests).hlc = s.hlc ∧ (s.refuseScanner requests).geu = s.geu ∧ (s.refuseScanner requests).lvc = s.lvc ∧ (s.refuseScanner requests).htc = s.htc ∧ (s.refuseScanner requests).fdc = s.fdc ∧ (s.refuseScanner requests).mru = s.mru ∧ (s.refuseScanner requests).pending = s.pending := by
  unfold State.refuseScanner; refine ⟨?_, ?_, ?_, ?_, ?_, ?_, ?_, ?_, ?_, ?_, ?_, ?_, ?_, ?_⟩ <;> (repeat' first | (simp; done) | split | dsimp only | simp)

@[simp] theorem State.handFailed_frame (s : State) (i : Nat) (x : Head) :
    (s.handFailed i x).mem = s.mem ∧ (s.handFailed i x).port = s.port ∧ (s.handFailed i x).rif = s.rif ∧ (s.handFailed i x).bdr = s.bdr ∧ (s.handFailed i x).sps = s.sps ∧ (s.handFailed i x).msc = s.msc ∧ (s.handFailed i x).trm = s.trm ∧ (s.handFailed i x).hlc = s.hlc ∧ (s.handFailed i x).geu = s.geu ∧ (s.handFailed i x).lvc = s.lvc ∧ (s.handFailed i x).htc = s.htc ∧ (s.handFailed i x).fdc = s.fdc ∧ (s.handFailed i x).mru = s.mru ∧ (s.handFailed i x).pending = s.pending := by
  unfold State.handFailed; refine ⟨?_, ?_, ?_, ?_, ?_, ?_, ?_, ?_, ?_, ?_, ?_, ?_, ?_, ?_⟩ <;> (repeat' first | (simp; done) | split | dsimp only | simp)

@[simp] theorem State.dropHead_frame (s : State) (i : Nat) (keepProbe : Bool) :
    (s.dropHead i keepProbe).mem = s.mem ∧ (s.dropHead i keepProbe).port = s.port ∧ (s.dropHead i keepProbe).rif = s.rif ∧ (s.dropHead i keepProbe).bdr = s.bdr ∧ (s.dropHead i keepProbe).sps = s.sps ∧ (s.dropHead i keepProbe).msc = s.msc ∧ (s.dropHead i keepProbe).trm = s.trm ∧ (s.dropHead i keepProbe).geu = s.geu ∧ (s.dropHead i keepProbe).lvc = s.lvc ∧ (s.dropHead i keepProbe).htc = s.htc ∧ (s.dropHead i keepProbe).fdc = s.fdc ∧ (s.dropHead i keepProbe).mru = s.mru ∧ (s.dropHead i keepProbe).pending = s.pending := by
  unfold State.dropHead; refine ⟨?_, ?_, ?_, ?_, ?_, ?_, ?_, ?_, ?_, ?_, ?_, ?_, ?_⟩ <;> (repeat' first | (simp; done) | split | dsimp only | simp)

@[simp] theorem State.announceHead_frame (s : State) (i : Nat) (old : HeadState) :
    (s.announceHead i old).mem = s.mem ∧ (s.announceHead i old).port = s.port ∧ (s.announceHead i old).rif = s.rif ∧ (s.announceHead i old).bdr = s.bdr ∧ (s.announceHead i old).sps = s.sps ∧ (s.announceHead i old).msc = s.msc ∧ (s.announceHead i old).trm = s.trm ∧ (s.announceHead i old).geu = s.geu ∧ (s.announceHead i old).lvc = s.lvc ∧ (s.announceHead i old).htc = s.htc ∧ (s.announceHead i old).fdc = s.fdc ∧ (s.announceHead i old).mru = s.mru ∧ (s.announceHead i old).pending = s.pending := by
  unfold State.announceHead; refine ⟨?_, ?_, ?_, ?_, ?_, ?_, ?_, ?_, ?_, ?_, ?_, ?_, ?_⟩ <;> (repeat' first | (simp; done) | split | dsimp only | simp)

@[simp] theorem State.setHead_frame (s : State) (i counter : Nat) (state : HeadState) (note : Option NoteKind) (value : Nat) :
    (s.setHead i counter state note value).mem = s.mem ∧ (s.setHead i counter state note value).bdr = s.bdr ∧ (s.setHead i counter state note value).sps = s.sps ∧ (s.setHead i counter state note value).msc = s.msc ∧ (s.setHead i counter state note value).trm = s.trm ∧ (s.setHead i counter state note value).geu = s.geu ∧ (s.setHead i counter state note value).lvc = s.lvc ∧ (s.setHead i counter state note value).htc = s.htc ∧ (s.setHead i counter state note value).fdc = s.fdc ∧ (s.setHead i counter state note value).mru = s.mru ∧ (s.setHead i counter state note value).inbox = s.inbox ∧ (s.setHead i counter state note value).pending = s.pending := by
  unfold State.setHead; refine ⟨?_, ?_, ?_, ?_, ?_, ?_, ?_, ?_, ?_, ?_, ?_, ?_⟩ <;> (repeat' first | (simp; done) | split | dsimp only | simp)

@[simp] theorem State.chargeHead_frame (s : State) (i : Nat) (x : Head) (outcome : TxOutcome) :
    (s.chargeHead i x outcome).mem = s.mem ∧ (s.chargeHead i x outcome).bdr = s.bdr ∧ (s.chargeHead i x outcome).sps = s.sps ∧ (s.chargeHead i x outcome).msc = s.msc ∧ (s.chargeHead i x outcome).trm = s.trm ∧ (s.chargeHead i x outcome).geu = s.geu ∧ (s.chargeHead i x outcome).lvc = s.lvc ∧ (s.chargeHead i x outcome).htc = s.htc ∧ (s.chargeHead i x outcome).fdc = s.fdc ∧ (s.chargeHead i x outcome).mru = s.mru ∧ (s.chargeHead i x outcome).inbox = s.inbox ∧ (s.chargeHead i x outcome).pending = s.pending := by
  unfold State.chargeHead; refine ⟨?_, ?_, ?_, ?_, ?_, ?_, ?_, ?_, ?_, ?_, ?_, ?_⟩ <;> (repeat' first | (simp; done) | split | dsimp only | simp)

@[simp] theorem State.confirmHead_frame (s : State) (i : Nat) (x : Head) (data : List Byte) :
    (s.confirmHead i x data).mem = s.mem ∧ (s.confirmHead i x data).bdr = s.bdr ∧ (s.confirmHead i x data).sps = s.sps ∧ (s.confirmHead i x data).msc = s.msc ∧ (s.confirmHead i x data).trm = s.trm ∧ (s.confirmHead i x data).geu = s.geu ∧ (s.confirmHead i x data).lvc = s.lvc ∧ (s.confirmHead i x data).htc = s.htc ∧ (s.confirmHead i x data).fdc = s.fdc ∧ (s.confirmHead i x data).mru = s.mru ∧ (s.confirmHead i x data).inbox = s.inbox ∧ (s.confirmHead i x data).pending = s.pending := by
  unfold State.confirmHead; refine ⟨?_, ?_, ?_, ?_, ?_, ?_, ?_, ?_, ?_, ?_, ?_, ?_⟩ <;> (repeat' first | (simp; done) | split | dsimp only | simp)

@[simp] theorem State.probeHead_frame (s : State) (i : Nat) (x : Head) (outcome : TxOutcome) (data : List Byte) :
    (s.probeHead i x outcome data).mem = s.mem ∧ (s.probeHead i x outcome data).bdr = s.bdr ∧ (s.probeHead i x outcome data).sps = s.sps ∧ (s.probeHead i x outcome data).msc = s.msc ∧ (s.probeHead i x outcome data).trm = s.trm ∧ (s.probeHead i x outcome data).geu = s.geu ∧ (s.probeHead i x outcome data).lvc = s.lvc ∧ (s.probeHead i x outcome data).htc = s.htc ∧ (s.probeHead i x outcome data).fdc = s.fdc ∧ (s.probeHead i x outcome data).mru = s.mru ∧ (s.probeHead i x outcome data).inbox = s.inbox ∧ (s.probeHead i x outcome data).pending = s.pending := by
  unfold State.probeHead; refine ⟨?_, ?_, ?_, ?_, ?_, ?_, ?_, ?_, ?_, ?_, ?_, ?_⟩ <;> (repeat' first | (simp; done) | split | dsimp only | simp)

@[simp] theorem State.junctionDown_frame (s : State) (j : JunctionId) (code : Nat) :
    (s.junctionDown j code).mem = s.mem ∧ (s.junctionDown j code).bdr = s.bdr ∧ (s.junctionDown j code).sps = s.sps ∧ (s.junctionDown j code).msc = s.msc ∧ (s.junctionDown j code).trm = s.trm ∧ (s.junctionDown j code).geu = s.geu ∧ (s.junctionDown j code).lvc = s.lvc ∧ (s.junctionDown j code).htc = s.htc ∧ (s.junctionDown j code).fdc = s.fdc ∧ (s.junctionDown j code).mru = s.mru ∧ (s.junctionDown j code).inbox = s.inbox ∧ (s.junctionDown j code).pending = s.pending := by
  unfold State.junctionDown; refine ⟨?_, ?_, ?_, ?_, ?_, ?_, ?_, ?_, ?_, ?_, ?_, ?_⟩ <;> (repeat' first | (simp; done) | split | dsimp only | simp)

@[simp] theorem State.junctionFails_frame (s : State) (j : JunctionId) (code : Nat) (wrongMode : Bool) :
    (s.junctionFails j code wrongMode).mem = s.mem ∧ (s.junctionFails j code wrongMode).bdr = s.bdr ∧ (s.junctionFails j code wrongMode).sps = s.sps ∧ (s.junctionFails j code wrongMode).msc = s.msc ∧ (s.junctionFails j code wrongMode).trm = s.trm ∧ (s.junctionFails j code wrongMode).geu = s.geu ∧ (s.junctionFails j code wrongMode).lvc = s.lvc ∧ (s.junctionFails j code wrongMode).htc = s.htc ∧ (s.junctionFails j code wrongMode).fdc = s.fdc ∧ (s.junctionFails j code wrongMode).mru = s.mru ∧ (s.junctionFails j code wrongMode).inbox = s.inbox ∧ (s.junctionFails j code wrongMode).pending = s.pending := by
  unfold State.junctionFails; refine ⟨?_, ?_, ?_, ?_, ?_, ?_, ?_, ?_, ?_, ?_, ?_, ?_⟩ <;> (repeat' first | (simp; done) | split | dsimp only | simp)

@[simp] theorem State.housekeepingStep_frame (s : State) (t : Transaction) (j : JunctionId) (outcome : TxOutcome) (data : List Byte) :
    (s.housekeepingStep t j outcome data).mem = s.mem ∧ (s.housekeepingStep t j outcome data).bdr = s.bdr ∧ (s.housekeepingStep t j outcome data).sps = s.sps ∧ (s.housekeepingStep t j outcome data).msc = s.msc ∧ (s.housekeepingStep t j outcome data).trm = s.trm ∧ (s.housekeepingStep t j outcome data).geu = s.geu ∧ (s.housekeepingStep t j outcome data).lvc = s.lvc ∧ (s.housekeepingStep t j outcome data).htc = s.htc ∧ (s.housekeepingStep t j outcome data).fdc = s.fdc ∧ (s.housekeepingStep t j outcome data).mru = s.mru ∧ (s.housekeepingStep t j outcome data).inbox = s.inbox ∧ (s.housekeepingStep t j outcome data).pending = s.pending := by
  unfold State.housekeepingStep; refine ⟨?_, ?_, ?_, ?_, ?_, ?_, ?_, ?_, ?_, ?_, ?_, ?_⟩ <;> (repeat' first | (simp; done) | split | dsimp only | simp)

@[simp] theorem State.headJunction_frame (s : State) (j : JunctionId) (outcome : TxOutcome) :
    (s.headJunction j outcome).mem = s.mem ∧ (s.headJunction j outcome).bdr = s.bdr ∧ (s.headJunction j outcome).sps = s.sps ∧ (s.headJunction j outcome).msc = s.msc ∧ (s.headJunction j outcome).trm = s.trm ∧ (s.headJunction j outcome).geu = s.geu ∧ (s.headJunction j outcome).lvc = s.lvc ∧ (s.headJunction j outcome).htc = s.htc ∧ (s.headJunction j outcome).fdc = s.fdc ∧ (s.headJunction j outcome).mru = s.mru ∧ (s.headJunction j outcome).inbox = s.inbox ∧ (s.headJunction j outcome).pending = s.pending := by
  unfold State.headJunction; refine ⟨?_, ?_, ?_, ?_, ?_, ?_, ?_, ?_, ?_, ?_, ?_, ?_⟩ <;> (repeat' first | (simp; done) | split | dsimp only | simp)

@[simp] theorem State.junctionProbed_frame (s : State) (t : Transaction) (j : JunctionId) (outcome : TxOutcome) :
    (s.junctionProbed t j outcome).mem = s.mem ∧ (s.junctionProbed t j outcome).bdr = s.bdr ∧ (s.junctionProbed t j outcome).sps = s.sps ∧ (s.junctionProbed t j outcome).msc = s.msc ∧ (s.junctionProbed t j outcome).trm = s.trm ∧ (s.junctionProbed t j outcome).geu = s.geu ∧ (s.junctionProbed t j outcome).lvc = s.lvc ∧ (s.junctionProbed t j outcome).htc = s.htc ∧ (s.junctionProbed t j outcome).fdc = s.fdc ∧ (s.junctionProbed t j outcome).mru = s.mru ∧ (s.junctionProbed t j outcome).inbox = s.inbox ∧ (s.junctionProbed t j outcome).pending = s.pending := by
  unfold State.junctionProbed; refine ⟨?_, ?_, ?_, ?_, ?_, ?_, ?_, ?_, ?_, ?_, ?_, ?_⟩ <;> (repeat' first | (simp; done) | split | dsimp only | simp)

@[simp] theorem State.miss_frame (s : State) (r : LinkRequest) (i : Nat) :
    (s.miss r i).mem = s.mem ∧ (s.miss r i).bdr = s.bdr ∧ (s.miss r i).sps = s.sps ∧ (s.miss r i).msc = s.msc ∧ (s.miss r i).trm = s.trm ∧ (s.miss r i).geu = s.geu ∧ (s.miss r i).lvc = s.lvc ∧ (s.miss r i).htc = s.htc ∧ (s.miss r i).fdc = s.fdc ∧ (s.miss r i).mru = s.mru ∧ (s.miss r i).pending = s.pending := by
  unfold State.miss; refine ⟨?_, ?_, ?_, ?_, ?_, ?_, ?_, ?_, ?_, ?_, ?_⟩ <;> (repeat' first | (simp; done) | split | dsimp only | simp)

theorem State.resolve_frame (s : State) (r : LinkRequest) {t : State} (h : s.resolve r = some t) :
    t.mem = s.mem ∧ t.bdr = s.bdr ∧ t.sps = s.sps ∧ t.msc = s.msc ∧ t.trm = s.trm ∧ t.geu = s.geu ∧ t.lvc = s.lvc ∧ t.htc = s.htc ∧ t.fdc = s.fdc ∧ t.mru = s.mru ∧ t.pending = s.pending := by
  unfold State.resolve at h; (repeat' split at h) <;> first | (cases h; simp) | cases h

@[simp] theorem State.choose_frame (n : Nat) (s : State) :
    (State.choose n s).mem = s.mem ∧ (State.choose n s).bdr = s.bdr ∧ (State.choose n s).sps = s.sps ∧ (State.choose n s).msc = s.msc ∧ (State.choose n s).trm = s.trm ∧ (State.choose n s).geu = s.geu ∧ (State.choose n s).lvc = s.lvc ∧ (State.choose n s).htc = s.htc ∧ (State.choose n s).fdc = s.fdc ∧ (State.choose n s).mru = s.mru ∧ (State.choose n s).pending = s.pending := by
  induction n generalizing s with
  | zero => simp [State.choose]
  | succ n ih =>
    unfold State.choose
    cases hp : s.hlc.pick with
    | none => simp
    | some r =>
      simp only []
      cases hr : (s.modHlc fun h => h.remove r).resolve r with
      | none => simp
      | some u => have := State.resolve_frame _ _ hr; simp_all

@[simp] theorem State.settleProbe_frame (s : State) :
    (s.settleProbe).mem = s.mem ∧ (s.settleProbe).port = s.port ∧ (s.settleProbe).rif = s.rif ∧ (s.settleProbe).bdr = s.bdr ∧ (s.settleProbe).sps = s.sps ∧ (s.settleProbe).msc = s.msc ∧ (s.settleProbe).trm = s.trm ∧ (s.settleProbe).geu = s.geu ∧ (s.settleProbe).lvc = s.lvc ∧ (s.settleProbe).htc = s.htc ∧ (s.settleProbe).fdc = s.fdc ∧ (s.settleProbe).mru = s.mru ∧ (s.settleProbe).inbox = s.inbox ∧ (s.settleProbe).pending = s.pending := by
  unfold State.settleProbe; refine ⟨?_, ?_, ?_, ?_, ?_, ?_, ?_, ?_, ?_, ?_, ?_, ?_, ?_, ?_⟩ <;> (repeat' first | (simp; done) | split | dsimp only | simp)

@[simp] theorem State.schedule_frame (s : State) :
    (s.schedule).mem = s.mem ∧ (s.schedule).bdr = s.bdr ∧ (s.schedule).sps = s.sps ∧ (s.schedule).msc = s.msc ∧ (s.schedule).trm = s.trm ∧ (s.schedule).geu = s.geu ∧ (s.schedule).lvc = s.lvc ∧ (s.schedule).htc = s.htc ∧ (s.schedule).fdc = s.fdc ∧ (s.schedule).mru = s.mru ∧ (s.schedule).pending = s.pending := by
  unfold State.schedule; refine ⟨?_, ?_, ?_, ?_, ?_, ?_, ?_, ?_, ?_, ?_, ?_⟩ <;> (repeat' first | (simp; done) | split | dsimp only | simp)

@[simp] theorem State.requeue_frame (s : State) (t : Transaction) :
    (s.requeue t).mem = s.mem ∧ (s.requeue t).port = s.port ∧ (s.requeue t).rif = s.rif ∧ (s.requeue t).bdr = s.bdr ∧ (s.requeue t).sps = s.sps ∧ (s.requeue t).msc = s.msc ∧ (s.requeue t).trm = s.trm ∧ (s.requeue t).geu = s.geu ∧ (s.requeue t).lvc = s.lvc ∧ (s.requeue t).htc = s.htc ∧ (s.requeue t).fdc = s.fdc ∧ (s.requeue t).mru = s.mru ∧ (s.requeue t).pending = s.pending := by
  unfold State.requeue; refine ⟨?_, ?_, ?_, ?_, ?_, ?_, ?_, ?_, ?_, ?_, ?_, ?_, ?_⟩ <;> (repeat' first | (simp; done) | split | dsimp only | simp)

@[simp] theorem State.keepReading_frame (s : State) (i : Nat) (t : Transaction) (outcome : TxOutcome) (data : List Byte) :
    (s.keepReading i t outcome data).mem = s.mem ∧ (s.keepReading i t outcome data).port = s.port ∧ (s.keepReading i t outcome data).rif = s.rif ∧ (s.keepReading i t outcome data).bdr = s.bdr ∧ (s.keepReading i t outcome data).sps = s.sps ∧ (s.keepReading i t outcome data).msc = s.msc ∧ (s.keepReading i t outcome data).trm = s.trm ∧ (s.keepReading i t outcome data).geu = s.geu ∧ (s.keepReading i t outcome data).lvc = s.lvc ∧ (s.keepReading i t outcome data).htc = s.htc ∧ (s.keepReading i t outcome data).fdc = s.fdc ∧ (s.keepReading i t outcome data).mru = s.mru ∧ (s.keepReading i t outcome data).inbox = s.inbox ∧ (s.keepReading i t outcome data).pending = s.pending := by
  unfold State.keepReading; refine ⟨?_, ?_, ?_, ?_, ?_, ?_, ?_, ?_, ?_, ?_, ?_, ?_, ?_, ?_⟩ <;> (repeat' first | (simp; done) | split | dsimp only | simp)

@[simp] theorem State.handResult_frame (s : State) (i : Nat) (x : Head) (t : Transaction) (outcome : TxOutcome) (data : List Byte) :
    (s.handResult i x t outcome data).mem = s.mem ∧ (s.handResult i x t outcome data).port = s.port ∧ (s.handResult i x t outcome data).rif = s.rif ∧ (s.handResult i x t outcome data).bdr = s.bdr ∧ (s.handResult i x t outcome data).sps = s.sps ∧ (s.handResult i x t outcome data).msc = s.msc ∧ (s.handResult i x t outcome data).trm = s.trm ∧ (s.handResult i x t outcome data).hlc = s.hlc ∧ (s.handResult i x t outcome data).geu = s.geu ∧ (s.handResult i x t outcome data).lvc = s.lvc ∧ (s.handResult i x t outcome data).htc = s.htc ∧ (s.handResult i x t outcome data).fdc = s.fdc ∧ (s.handResult i x t outcome data).mru = s.mru ∧ (s.handResult i x t outcome data).pending = s.pending := by
  unfold State.handResult; refine ⟨?_, ?_, ?_, ?_, ?_, ?_, ?_, ?_, ?_, ?_, ?_, ?_, ?_, ?_⟩ <;> (repeat' first | (simp; done) | split | dsimp only | simp)

@[simp] theorem State.settleHead_frame (s : State) (i : Nat) (x : Head) (t : Transaction) (outcome : TxOutcome) (data : List Byte) :
    (s.settleHead i x t outcome data).mem = s.mem ∧ (s.settleHead i x t outcome data).bdr = s.bdr ∧ (s.settleHead i x t outcome data).sps = s.sps ∧ (s.settleHead i x t outcome data).msc = s.msc ∧ (s.settleHead i x t outcome data).trm = s.trm ∧ (s.settleHead i x t outcome data).geu = s.geu ∧ (s.settleHead i x t outcome data).lvc = s.lvc ∧ (s.settleHead i x t outcome data).htc = s.htc ∧ (s.settleHead i x t outcome data).fdc = s.fdc ∧ (s.settleHead i x t outcome data).mru = s.mru ∧ (s.settleHead i x t outcome data).inbox = s.inbox ∧ (s.settleHead i x t outcome data).pending = s.pending := by
  unfold State.settleHead; refine ⟨?_, ?_, ?_, ?_, ?_, ?_, ?_, ?_, ?_, ?_, ?_, ?_⟩ <;> (repeat' first | (simp; done) | split | dsimp only | simp)

@[simp] theorem State.headEnds_frame (s : State) (i : Nat) (t : Transaction) (outcome : TxOutcome) (data : List Byte) :
    (s.headEnds i t outcome data).mem = s.mem ∧ (s.headEnds i t outcome data).bdr = s.bdr ∧ (s.headEnds i t outcome data).sps = s.sps ∧ (s.headEnds i t outcome data).msc = s.msc ∧ (s.headEnds i t outcome data).trm = s.trm ∧ (s.headEnds i t outcome data).geu = s.geu ∧ (s.headEnds i t outcome data).lvc = s.lvc ∧ (s.headEnds i t outcome data).htc = s.htc ∧ (s.headEnds i t outcome data).fdc = s.fdc ∧ (s.headEnds i t outcome data).mru = s.mru ∧ (s.headEnds i t outcome data).pending = s.pending := by
  unfold State.headEnds; refine ⟨?_, ?_, ?_, ?_, ?_, ?_, ?_, ?_, ?_, ?_, ?_⟩ <;> (repeat' first | (simp; done) | split | dsimp only | simp)

@[simp] theorem State.judgeProbe_frame (s : State) (i : Nat) (x : Head) (t : Transaction) (outcome : TxOutcome) (data : List Byte) :
    (s.judgeProbe i x t outcome data).mem = s.mem ∧ (s.judgeProbe i x t outcome data).bdr = s.bdr ∧ (s.judgeProbe i x t outcome data).sps = s.sps ∧ (s.judgeProbe i x t outcome data).msc = s.msc ∧ (s.judgeProbe i x t outcome data).trm = s.trm ∧ (s.judgeProbe i x t outcome data).geu = s.geu ∧ (s.judgeProbe i x t outcome data).lvc = s.lvc ∧ (s.judgeProbe i x t outcome data).htc = s.htc ∧ (s.judgeProbe i x t outcome data).fdc = s.fdc ∧ (s.judgeProbe i x t outcome data).mru = s.mru ∧ (s.judgeProbe i x t outcome data).inbox = s.inbox ∧ (s.judgeProbe i x t outcome data).pending = s.pending := by
  unfold State.judgeProbe; refine ⟨?_, ?_, ?_, ?_, ?_, ?_, ?_, ?_, ?_, ?_, ?_, ?_⟩ <;> (repeat' first | (simp; done) | split | dsimp only | simp)

@[simp] theorem State.headProbeEnds_frame (s : State) (i : Nat) (t : Transaction) (outcome : TxOutcome) (data : List Byte) :
    (s.headProbeEnds i t outcome data).mem = s.mem ∧ (s.headProbeEnds i t outcome data).bdr = s.bdr ∧ (s.headProbeEnds i t outcome data).sps = s.sps ∧ (s.headProbeEnds i t outcome data).msc = s.msc ∧ (s.headProbeEnds i t outcome data).trm = s.trm ∧ (s.headProbeEnds i t outcome data).geu = s.geu ∧ (s.headProbeEnds i t outcome data).lvc = s.lvc ∧ (s.headProbeEnds i t outcome data).htc = s.htc ∧ (s.headProbeEnds i t outcome data).fdc = s.fdc ∧ (s.headProbeEnds i t outcome data).mru = s.mru ∧ (s.headProbeEnds i t outcome data).pending = s.pending := by
  unfold State.headProbeEnds; refine ⟨?_, ?_, ?_, ?_, ?_, ?_, ?_, ?_, ?_, ?_, ?_⟩ <;> (repeat' first | (simp; done) | split | dsimp only | simp)

@[simp] theorem State.staleEnds_frame (s : State) (t : Transaction) :
    (s.staleEnds t).mem = s.mem ∧ (s.staleEnds t).port = s.port ∧ (s.staleEnds t).rif = s.rif ∧ (s.staleEnds t).bdr = s.bdr ∧ (s.staleEnds t).sps = s.sps ∧ (s.staleEnds t).msc = s.msc ∧ (s.staleEnds t).trm = s.trm ∧ (s.staleEnds t).hlc = s.hlc ∧ (s.staleEnds t).geu = s.geu ∧ (s.staleEnds t).lvc = s.lvc ∧ (s.staleEnds t).htc = s.htc ∧ (s.staleEnds t).fdc = s.fdc ∧ (s.staleEnds t).mru = s.mru ∧ (s.staleEnds t).pending = s.pending := by
  unfold State.staleEnds; refine ⟨?_, ?_, ?_, ?_, ?_, ?_, ?_, ?_, ?_, ?_, ?_, ?_, ?_, ?_⟩ <;> (repeat' first | (simp; done) | split | dsimp only | simp)

@[simp] theorem State.transactionEnds_frame (s : State) (t : Transaction) (outcome : TxOutcome) (data : List Byte) :
    (s.transactionEnds t outcome data).mem = s.mem ∧ (s.transactionEnds t outcome data).bdr = s.bdr ∧ (s.transactionEnds t outcome data).sps = s.sps ∧ (s.transactionEnds t outcome data).msc = s.msc ∧ (s.transactionEnds t outcome data).trm = s.trm ∧ (s.transactionEnds t outcome data).geu = s.geu ∧ (s.transactionEnds t outcome data).lvc = s.lvc ∧ (s.transactionEnds t outcome data).htc = s.htc ∧ (s.transactionEnds t outcome data).fdc = s.fdc ∧ (s.transactionEnds t outcome data).mru = s.mru ∧ (s.transactionEnds t outcome data).pending = s.pending := by
  unfold State.transactionEnds; refine ⟨?_, ?_, ?_, ?_, ?_, ?_, ?_, ?_, ?_, ?_, ?_⟩ <;> (repeat' first | (simp; done) | split | dsimp only | simp)

@[simp] theorem State.receive_frame (s : State) (p : LinkRequest → Bool) (received : List LinkChar) :
    (s.receive p received).mem = s.mem ∧ (s.receive p received).bdr = s.bdr ∧ (s.receive p received).sps = s.sps ∧ (s.receive p received).msc = s.msc ∧ (s.receive p received).trm = s.trm ∧ (s.receive p received).geu = s.geu ∧ (s.receive p received).lvc = s.lvc ∧ (s.receive p received).htc = s.htc ∧ (s.receive p received).fdc = s.fdc ∧ (s.receive p received).mru = s.mru ∧ (s.receive p received).pending = s.pending := by
  unfold State.receive; refine ⟨?_, ?_, ?_, ?_, ?_, ?_, ?_, ?_, ?_, ?_, ?_⟩ <;> (repeat' first | (simp; done) | split | dsimp only | simp)

@[simp] theorem State.endRound_frame (s : State) :
    (s.endRound).mem = s.mem ∧ (s.endRound).port = s.port ∧ (s.endRound).rif = s.rif ∧ (s.endRound).bdr = s.bdr ∧ (s.endRound).sps = s.sps ∧ (s.endRound).msc = s.msc ∧ (s.endRound).trm = s.trm ∧ (s.endRound).geu = s.geu ∧ (s.endRound).lvc = s.lvc ∧ (s.endRound).htc = s.htc ∧ (s.endRound).fdc = s.fdc ∧ (s.endRound).mru = s.mru ∧ (s.endRound).pending = s.pending := by
  unfold State.endRound; refine ⟨?_, ?_, ?_, ?_, ?_, ?_, ?_, ?_, ?_, ?_, ?_, ?_, ?_⟩ <;> (simp [foldl_keeps])

@[simp] theorem State.beginRound_frame (s : State) :
    (s.beginRound).mem = s.mem ∧ (s.beginRound).port = s.port ∧ (s.beginRound).rif = s.rif ∧ (s.beginRound).bdr = s.bdr ∧ (s.beginRound).sps = s.sps ∧ (s.beginRound).msc = s.msc ∧ (s.beginRound).trm = s.trm ∧ (s.beginRound).geu = s.geu ∧ (s.beginRound).lvc = s.lvc ∧ (s.beginRound).htc = s.htc ∧ (s.beginRound).fdc = s.fdc ∧ (s.beginRound).mru = s.mru ∧ (s.beginRound).pending = s.pending := by
  unfold State.beginRound; refine ⟨?_, ?_, ?_, ?_, ?_, ?_, ?_, ?_, ?_, ?_, ?_, ?_, ?_⟩ <;> (simp [foldl_keeps])

@[simp] theorem State.askScanner_frame (s : State) (ask : ScannerAsk) :
    (s.askScanner ask).mem = s.mem ∧ (s.askScanner ask).port = s.port ∧ (s.askScanner ask).rif = s.rif ∧ (s.askScanner ask).bdr = s.bdr ∧ (s.askScanner ask).sps = s.sps ∧ (s.askScanner ask).msc = s.msc ∧ (s.askScanner ask).trm = s.trm ∧ (s.askScanner ask).geu = s.geu ∧ (s.askScanner ask).lvc = s.lvc ∧ (s.askScanner ask).htc = s.htc ∧ (s.askScanner ask).fdc = s.fdc ∧ (s.askScanner ask).mru = s.mru ∧ (s.askScanner ask).pending = s.pending := by
  unfold State.askScanner; refine ⟨?_, ?_, ?_, ?_, ?_, ?_, ?_, ?_, ?_, ?_, ?_, ?_, ?_⟩ <;> (repeat' first | (simp; done) | split | dsimp only | simp)

@[simp] theorem State.dropWaiting_frame (s : State) :
    (s.dropWaiting).mem = s.mem ∧ (s.dropWaiting).port = s.port ∧ (s.dropWaiting).rif = s.rif ∧ (s.dropWaiting).bdr = s.bdr ∧ (s.dropWaiting).sps = s.sps ∧ (s.dropWaiting).msc = s.msc ∧ (s.dropWaiting).trm = s.trm ∧ (s.dropWaiting).geu = s.geu ∧ (s.dropWaiting).lvc = s.lvc ∧ (s.dropWaiting).htc = s.htc ∧ (s.dropWaiting).fdc = s.fdc ∧ (s.dropWaiting).mru = s.mru ∧ (s.dropWaiting).pending = s.pending := by
  unfold State.dropWaiting; refine ⟨?_, ?_, ?_, ?_, ?_, ?_, ?_, ?_, ?_, ?_, ?_, ?_, ?_⟩ <;> (repeat' first | (simp; done) | split | dsimp only | simp)

@[simp] theorem State.stopScheduler_frame (s : State) :
    (s.stopScheduler).mem = s.mem ∧ (s.stopScheduler).port = s.port ∧ (s.stopScheduler).rif = s.rif ∧ (s.stopScheduler).bdr = s.bdr ∧ (s.stopScheduler).sps = s.sps ∧ (s.stopScheduler).msc = s.msc ∧ (s.stopScheduler).trm = s.trm ∧ (s.stopScheduler).geu = s.geu ∧ (s.stopScheduler).lvc = s.lvc ∧ (s.stopScheduler).htc = s.htc ∧ (s.stopScheduler).fdc = s.fdc ∧ (s.stopScheduler).mru = s.mru ∧ (s.stopScheduler).pending = s.pending := by
  unfold State.stopScheduler; refine ⟨?_, ?_, ?_, ?_, ?_, ?_, ?_, ?_, ?_, ?_, ?_, ?_, ?_⟩ <;> (repeat' first | (simp; done) | split | dsimp only | simp)

@[simp] theorem State.runTimers_frame (s : State) :
    (s.runTimers).mem = s.mem ∧ (s.runTimers).port = s.port ∧ (s.runTimers).rif = s.rif ∧ (s.runTimers).bdr = s.bdr ∧ (s.runTimers).sps = s.sps ∧ (s.runTimers).msc = s.msc ∧ (s.runTimers).trm = s.trm ∧ (s.runTimers).geu = s.geu ∧ (s.runTimers).lvc = s.lvc ∧ (s.runTimers).htc = s.htc ∧ (s.runTimers).fdc = s.fdc ∧ (s.runTimers).mru = s.mru ∧ (s.runTimers).inbox = s.inbox ∧ (s.runTimers).pending = s.pending := by
  unfold State.runTimers; refine ⟨?_, ?_, ?_, ?_, ?_, ?_, ?_, ?_, ?_, ?_, ?_, ?_, ?_, ?_⟩ <;> (repeat' first | (simp; done) | split | dsimp only | simp)

@[simp] theorem State.startScheduler_frame (s : State) :
    (s.startScheduler).mem = s.mem ∧ (s.startScheduler).bdr = s.bdr ∧ (s.startScheduler).sps = s.sps ∧ (s.startScheduler).msc = s.msc ∧ (s.startScheduler).trm = s.trm ∧ (s.startScheduler).geu = s.geu ∧ (s.startScheduler).lvc = s.lvc ∧ (s.startScheduler).htc = s.htc ∧ (s.startScheduler).fdc = s.fdc ∧ (s.startScheduler).mru = s.mru ∧ (s.startScheduler).pending = s.pending := by
  unfold State.startScheduler; refine ⟨?_, ?_, ?_, ?_, ?_, ?_, ?_, ?_, ?_, ?_, ?_⟩ <;> (repeat' first | (simp; done) | split | dsimp only | simp)

@[simp] theorem State.unconfirmHeads_frame (s : State) :
    (s.unconfirmHeads).mem = s.mem ∧ (s.unconfirmHeads).port = s.port ∧ (s.unconfirmHeads).rif = s.rif ∧ (s.unconfirmHeads).bdr = s.bdr ∧ (s.unconfirmHeads).sps = s.sps ∧ (s.unconfirmHeads).msc = s.msc ∧ (s.unconfirmHeads).trm = s.trm ∧ (s.unconfirmHeads).geu = s.geu ∧ (s.unconfirmHeads).lvc = s.lvc ∧ (s.unconfirmHeads).htc = s.htc ∧ (s.unconfirmHeads).fdc = s.fdc ∧ (s.unconfirmHeads).mru = s.mru ∧ (s.unconfirmHeads).pending = s.pending := by
  unfold State.unconfirmHeads; refine ⟨?_, ?_, ?_, ?_, ?_, ?_, ?_, ?_, ?_, ?_, ?_, ?_, ?_⟩ <;> (repeat' first | (simp; done) | split | dsimp only | simp)

@[simp] theorem State.makeStale_frame (s : State) :
    (s.makeStale).mem = s.mem ∧ (s.makeStale).port = s.port ∧ (s.makeStale).rif = s.rif ∧ (s.makeStale).bdr = s.bdr ∧ (s.makeStale).sps = s.sps ∧ (s.makeStale).msc = s.msc ∧ (s.makeStale).trm = s.trm ∧ (s.makeStale).geu = s.geu ∧ (s.makeStale).lvc = s.lvc ∧ (s.makeStale).htc = s.htc ∧ (s.makeStale).fdc = s.fdc ∧ (s.makeStale).mru = s.mru ∧ (s.makeStale).pending = s.pending := by
  unfold State.makeStale; refine ⟨?_, ?_, ?_, ?_, ?_, ?_, ?_, ?_, ?_, ?_, ?_, ?_, ?_⟩ <;> (repeat' first | (simp; done) | split | dsimp only | simp)

@[simp] theorem State.handRebuild_frame (s : State) :
    (s.handRebuild).mem = s.mem ∧ (s.handRebuild).port = s.port ∧ (s.handRebuild).rif = s.rif ∧ (s.handRebuild).bdr = s.bdr ∧ (s.handRebuild).sps = s.sps ∧ (s.handRebuild).msc = s.msc ∧ (s.handRebuild).trm = s.trm ∧ (s.handRebuild).hlc = s.hlc ∧ (s.handRebuild).geu = s.geu ∧ (s.handRebuild).lvc = s.lvc ∧ (s.handRebuild).htc = s.htc ∧ (s.handRebuild).fdc = s.fdc ∧ (s.handRebuild).mru = s.mru ∧ (s.handRebuild).pending = s.pending := by
  unfold State.handRebuild; refine ⟨?_, ?_, ?_, ?_, ?_, ?_, ?_, ?_, ?_, ?_, ?_, ?_, ?_, ?_⟩ <;> (repeat' first | (simp; done) | split | dsimp only | simp)

@[simp] theorem State.rebuildHeads_frame (s : State) (items : List HeadItem) :
    (s.rebuildHeads items).mem = s.mem ∧ (s.rebuildHeads items).bdr = s.bdr ∧ (s.rebuildHeads items).sps = s.sps ∧ (s.rebuildHeads items).msc = s.msc ∧ (s.rebuildHeads items).trm = s.trm ∧ (s.rebuildHeads items).geu = s.geu ∧ (s.rebuildHeads items).lvc = s.lvc ∧ (s.rebuildHeads items).htc = s.htc ∧ (s.rebuildHeads items).fdc = s.fdc ∧ (s.rebuildHeads items).mru = s.mru ∧ (s.rebuildHeads items).pending = s.pending := by
  unfold State.rebuildHeads; refine ⟨?_, ?_, ?_, ?_, ?_, ?_, ?_, ?_, ?_, ?_, ?_⟩ <;> (repeat' first | (simp; done) | split | dsimp only | simp)

@[simp] theorem State.withdrawHeads_frame (s : State) :
    (s.withdrawHeads).mem = s.mem ∧ (s.withdrawHeads).port = s.port ∧ (s.withdrawHeads).rif = s.rif ∧ (s.withdrawHeads).bdr = s.bdr ∧ (s.withdrawHeads).sps = s.sps ∧ (s.withdrawHeads).msc = s.msc ∧ (s.withdrawHeads).trm = s.trm ∧ (s.withdrawHeads).geu = s.geu ∧ (s.withdrawHeads).lvc = s.lvc ∧ (s.withdrawHeads).htc = s.htc ∧ (s.withdrawHeads).fdc = s.fdc ∧ (s.withdrawHeads).mru = s.mru ∧ (s.withdrawHeads).pending = s.pending := by
  unfold State.withdrawHeads; refine ⟨?_, ?_, ?_, ?_, ?_, ?_, ?_, ?_, ?_, ?_, ?_, ?_, ?_⟩ <;> (repeat' first | (simp; done) | split | dsimp only | simp)

@[simp] theorem State.linkStart_frame (s : State) :
    (s.linkStart).mem = s.mem ∧ (s.linkStart).bdr = s.bdr ∧ (s.linkStart).sps = s.sps ∧ (s.linkStart).msc = s.msc ∧ (s.linkStart).trm = s.trm ∧ (s.linkStart).geu = s.geu ∧ (s.linkStart).htc = s.htc ∧ (s.linkStart).fdc = s.fdc ∧ (s.linkStart).mru = s.mru ∧ (s.linkStart).pending = s.pending := by
  unfold State.linkStart; refine ⟨?_, ?_, ?_, ?_, ?_, ?_, ?_, ?_, ?_, ?_⟩ <;> (repeat' first | (simp; done) | split | dsimp only | simp)

@[simp] theorem State.linkRun_frame (s : State) (status : RunStatus) :
    (s.linkRun status).mem = s.mem ∧ (s.linkRun status).bdr = s.bdr ∧ (s.linkRun status).sps = s.sps ∧ (s.linkRun status).msc = s.msc ∧ (s.linkRun status).trm = s.trm ∧ (s.linkRun status).geu = s.geu ∧ (s.linkRun status).htc = s.htc ∧ (s.linkRun status).fdc = s.fdc ∧ (s.linkRun status).mru = s.mru ∧ (s.linkRun status).pending = s.pending := by
  unfold State.linkRun; refine ⟨?_, ?_, ?_, ?_, ?_, ?_, ?_, ?_, ?_, ?_⟩ <;> (repeat' first | (simp; done) | split | dsimp only | simp)

@[simp] theorem State.clearHead_frame (s : State) (i : Nat) (x : Head) :
    (s.clearHead i x).mem = s.mem ∧ (s.clearHead i x).sps = s.sps ∧ (s.clearHead i x).msc = s.msc ∧ (s.clearHead i x).trm = s.trm ∧ (s.clearHead i x).geu = s.geu ∧ (s.clearHead i x).lvc = s.lvc ∧ (s.clearHead i x).htc = s.htc ∧ (s.clearHead i x).fdc = s.fdc ∧ (s.clearHead i x).mru = s.mru ∧ (s.clearHead i x).pending = s.pending := by
  unfold State.clearHead; refine ⟨?_, ?_, ?_, ?_, ?_, ?_, ?_, ?_, ?_, ?_⟩ <;> (repeat' first | (simp; done) | split | dsimp only | simp)

/-! ## Geometry -/

@[simp] theorem State.geometryEvent_frame (s : State) :
    (s.geometryEvent).mem = s.mem ∧ (s.geometryEvent).port = s.port ∧ (s.geometryEvent).rif = s.rif ∧ (s.geometryEvent).bdr = s.bdr ∧ (s.geometryEvent).sps = s.sps ∧ (s.geometryEvent).msc = s.msc ∧ (s.geometryEvent).trm = s.trm ∧ (s.geometryEvent).hlc = s.hlc ∧ (s.geometryEvent).lvc = s.lvc ∧ (s.geometryEvent).htc = s.htc ∧ (s.geometryEvent).fdc = s.fdc ∧ (s.geometryEvent).mru = s.mru ∧ (s.geometryEvent).pending = s.pending := by
  unfold State.geometryEvent; refine ⟨?_, ?_, ?_, ?_, ?_, ?_, ?_, ?_, ?_, ?_, ?_, ?_, ?_⟩ <;> (repeat' first | (simp; done) | split | dsimp only | simp)

@[simp] theorem State.seeStrokeHead_frame (s : State) (side : Side) (st : Option HeadState) :
    (s.seeStrokeHead side st).mem = s.mem ∧ (s.seeStrokeHead side st).port = s.port ∧ (s.seeStrokeHead side st).rif = s.rif ∧ (s.seeStrokeHead side st).bdr = s.bdr ∧ (s.seeStrokeHead side st).sps = s.sps ∧ (s.seeStrokeHead side st).msc = s.msc ∧ (s.seeStrokeHead side st).trm = s.trm ∧ (s.seeStrokeHead side st).hlc = s.hlc ∧ (s.seeStrokeHead side st).lvc = s.lvc ∧ (s.seeStrokeHead side st).htc = s.htc ∧ (s.seeStrokeHead side st).fdc = s.fdc ∧ (s.seeStrokeHead side st).mru = s.mru ∧ (s.seeStrokeHead side st).inbox = s.inbox ∧ (s.seeStrokeHead side st).pending = s.pending := by
  unfold State.seeStrokeHead; refine ⟨?_, ?_, ?_, ?_, ?_, ?_, ?_, ?_, ?_, ?_, ?_, ?_, ?_, ?_⟩ <;> (repeat' first | (simp; done) | split | dsimp only | simp)

@[simp] theorem State.strokeHeadChanges_frame (s : State) (side : Side) (st : HeadState) :
    (s.strokeHeadChanges side st).mem = s.mem ∧ (s.strokeHeadChanges side st).port = s.port ∧ (s.strokeHeadChanges side st).rif = s.rif ∧ (s.strokeHeadChanges side st).bdr = s.bdr ∧ (s.strokeHeadChanges side st).sps = s.sps ∧ (s.strokeHeadChanges side st).msc = s.msc ∧ (s.strokeHeadChanges side st).trm = s.trm ∧ (s.strokeHeadChanges side st).hlc = s.hlc ∧ (s.strokeHeadChanges side st).lvc = s.lvc ∧ (s.strokeHeadChanges side st).htc = s.htc ∧ (s.strokeHeadChanges side st).fdc = s.fdc ∧ (s.strokeHeadChanges side st).mru = s.mru ∧ (s.strokeHeadChanges side st).pending = s.pending := by
  unfold State.strokeHeadChanges; refine ⟨?_, ?_, ?_, ?_, ?_, ?_, ?_, ?_, ?_, ?_, ?_, ?_, ?_⟩ <;> (repeat' first | (simp; done) | split | dsimp only | simp)

@[simp] theorem State.strokePolled_frame (s : State) (side : Side) (result : StrokeResult) (st : HeadState) :
    (s.strokePolled side result st).mem = s.mem ∧ (s.strokePolled side result st).port = s.port ∧ (s.strokePolled side result st).rif = s.rif ∧ (s.strokePolled side result st).bdr = s.bdr ∧ (s.strokePolled side result st).sps = s.sps ∧ (s.strokePolled side result st).msc = s.msc ∧ (s.strokePolled side result st).trm = s.trm ∧ (s.strokePolled side result st).hlc = s.hlc ∧ (s.strokePolled side result st).lvc = s.lvc ∧ (s.strokePolled side result st).htc = s.htc ∧ (s.strokePolled side result st).fdc = s.fdc ∧ (s.strokePolled side result st).mru = s.mru ∧ (s.strokePolled side result st).pending = s.pending := by
  unfold State.strokePolled; refine ⟨?_, ?_, ?_, ?_, ?_, ?_, ?_, ?_, ?_, ?_, ?_, ?_, ?_⟩ <;> (repeat' first | (simp; done) | split | dsimp only | simp)

@[simp] theorem State.strokeHeadsRebuilt_frame (s : State) (left right : Option HeadState) :
    (s.strokeHeadsRebuilt left right).mem = s.mem ∧ (s.strokeHeadsRebuilt left right).port = s.port ∧ (s.strokeHeadsRebuilt left right).rif = s.rif ∧ (s.strokeHeadsRebuilt left right).bdr = s.bdr ∧ (s.strokeHeadsRebuilt left right).sps = s.sps ∧ (s.strokeHeadsRebuilt left right).msc = s.msc ∧ (s.strokeHeadsRebuilt left right).trm = s.trm ∧ (s.strokeHeadsRebuilt left right).hlc = s.hlc ∧ (s.strokeHeadsRebuilt left right).lvc = s.lvc ∧ (s.strokeHeadsRebuilt left right).htc = s.htc ∧ (s.strokeHeadsRebuilt left right).fdc = s.fdc ∧ (s.strokeHeadsRebuilt left right).mru = s.mru ∧ (s.strokeHeadsRebuilt left right).pending = s.pending := by
  unfold State.strokeHeadsRebuilt; refine ⟨?_, ?_, ?_, ?_, ?_, ?_, ?_, ?_, ?_, ?_, ?_, ?_, ?_⟩ <;> (repeat' first | (simp; done) | split | dsimp only | simp)

@[simp] theorem State.setBolts_frame (s : State) (left right : Nat) :
    (s.setBolts left right).mem = s.mem ∧ (s.setBolts left right).port = s.port ∧ (s.setBolts left right).rif = s.rif ∧ (s.setBolts left right).bdr = s.bdr ∧ (s.setBolts left right).sps = s.sps ∧ (s.setBolts left right).msc = s.msc ∧ (s.setBolts left right).trm = s.trm ∧ (s.setBolts left right).hlc = s.hlc ∧ (s.setBolts left right).lvc = s.lvc ∧ (s.setBolts left right).htc = s.htc ∧ (s.setBolts left right).fdc = s.fdc ∧ (s.setBolts left right).mru = s.mru ∧ (s.setBolts left right).pending = s.pending := by
  unfold State.setBolts; refine ⟨?_, ?_, ?_, ?_, ?_, ?_, ?_, ?_, ?_, ?_, ?_, ?_, ?_⟩ <;> (repeat' first | (simp; done) | split | dsimp only | simp)

/-! ## Levelling -/

@[simp] theorem State.modSide_frame (s : State) (side : Side) (f : SideRecord → SideRecord) :
    (s.modSide side f).mem = s.mem ∧ (s.modSide side f).port = s.port ∧ (s.modSide side f).rif = s.rif ∧ (s.modSide side f).bdr = s.bdr ∧ (s.modSide side f).sps = s.sps ∧ (s.modSide side f).msc = s.msc ∧ (s.modSide side f).trm = s.trm ∧ (s.modSide side f).hlc = s.hlc ∧ (s.modSide side f).geu = s.geu ∧ (s.modSide side f).htc = s.htc ∧ (s.modSide side f).fdc = s.fdc ∧ (s.modSide side f).mru = s.mru ∧ (s.modSide side f).inbox = s.inbox ∧ (s.modSide side f).pending = s.pending := by
  unfold State.modSide; refine ⟨?_, ?_, ?_, ?_, ?_, ?_, ?_, ?_, ?_, ?_, ?_, ?_, ?_, ?_⟩ <;> (repeat' first | (simp; done) | split | dsimp only | simp)

@[simp] theorem State.settleReference_frame (s : State) (side : Side) (status : ReferenceStatus) (value : Nat) :
    (s.settleReference side status value).mem = s.mem ∧ (s.settleReference side status value).bdr = s.bdr ∧ (s.settleReference side status value).sps = s.sps ∧ (s.settleReference side status value).msc = s.msc ∧ (s.settleReference side status value).trm = s.trm ∧ (s.settleReference side status value).hlc = s.hlc ∧ (s.settleReference side status value).geu = s.geu ∧ (s.settleReference side status value).htc = s.htc ∧ (s.settleReference side status value).fdc = s.fdc ∧ (s.settleReference side status value).mru = s.mru ∧ (s.settleReference side status value).pending = s.pending := by
  unfold State.settleReference; refine ⟨?_, ?_, ?_, ?_, ?_, ?_, ?_, ?_, ?_, ?_, ?_⟩ <;> (repeat' first | (simp; done) | split | dsimp only | simp)

@[simp] theorem State.settleMembers_frame (s : State) (side : Side) :
    (s.settleMembers side).mem = s.mem ∧ (s.settleMembers side).bdr = s.bdr ∧ (s.settleMembers side).sps = s.sps ∧ (s.settleMembers side).msc = s.msc ∧ (s.settleMembers side).trm = s.trm ∧ (s.settleMembers side).hlc = s.hlc ∧ (s.settleMembers side).geu = s.geu ∧ (s.settleMembers side).htc = s.htc ∧ (s.settleMembers side).fdc = s.fdc ∧ (s.settleMembers side).mru = s.mru ∧ (s.settleMembers side).pending = s.pending := by
  unfold State.settleMembers; refine ⟨?_, ?_, ?_, ?_, ?_, ?_, ?_, ?_, ?_, ?_, ?_⟩ <;> (repeat' first | (simp; done) | split | dsimp only | simp)

@[simp] theorem State.startPulse_frame (s : State) (side : Side) (p : Pulse) :
    (s.startPulse side p).mem = s.mem ∧ (s.startPulse side p).port = s.port ∧ (s.startPulse side p).rif = s.rif ∧ (s.startPulse side p).bdr = s.bdr ∧ (s.startPulse side p).sps = s.sps ∧ (s.startPulse side p).msc = s.msc ∧ (s.startPulse side p).trm = s.trm ∧ (s.startPulse side p).hlc = s.hlc ∧ (s.startPulse side p).geu = s.geu ∧ (s.startPulse side p).htc = s.htc ∧ (s.startPulse side p).fdc = s.fdc ∧ (s.startPulse side p).mru = s.mru ∧ (s.startPulse side p).inbox = s.inbox ∧ (s.startPulse side p).pending = s.pending := by
  unfold State.startPulse; refine ⟨?_, ?_, ?_, ?_, ?_, ?_, ?_, ?_, ?_, ?_, ?_, ?_, ?_, ?_⟩ <;> (repeat' first | (simp; done) | split | dsimp only | simp)

@[simp] theorem State.beginGap_frame (s : State) (side : Side) (p : Pulse) :
    (s.beginGap side p).mem = s.mem ∧ (s.beginGap side p).port = s.port ∧ (s.beginGap side p).rif = s.rif ∧ (s.beginGap side p).bdr = s.bdr ∧ (s.beginGap side p).sps = s.sps ∧ (s.beginGap side p).msc = s.msc ∧ (s.beginGap side p).trm = s.trm ∧ (s.beginGap side p).hlc = s.hlc ∧ (s.beginGap side p).geu = s.geu ∧ (s.beginGap side p).htc = s.htc ∧ (s.beginGap side p).fdc = s.fdc ∧ (s.beginGap side p).mru = s.mru ∧ (s.beginGap side p).inbox = s.inbox ∧ (s.beginGap side p).pending = s.pending := by
  unfold State.beginGap; refine ⟨?_, ?_, ?_, ?_, ?_, ?_, ?_, ?_, ?_, ?_, ?_, ?_, ?_, ?_⟩ <;> (repeat' first | (simp; done) | split | dsimp only | simp)

@[simp] theorem State.givePulse_frame (s : State) (side : Side) (p : Pulse) :
    (s.givePulse side p).mem = s.mem ∧ (s.givePulse side p).port = s.port ∧ (s.givePulse side p).rif = s.rif ∧ (s.givePulse side p).bdr = s.bdr ∧ (s.givePulse side p).sps = s.sps ∧ (s.givePulse side p).msc = s.msc ∧ (s.givePulse side p).trm = s.trm ∧ (s.givePulse side p).hlc = s.hlc ∧ (s.givePulse side p).geu = s.geu ∧ (s.givePulse side p).htc = s.htc ∧ (s.givePulse side p).fdc = s.fdc ∧ (s.givePulse side p).mru = s.mru ∧ (s.givePulse side p).inbox = s.inbox ∧ (s.givePulse side p).pending = s.pending := by
  unfold State.givePulse; refine ⟨?_, ?_, ?_, ?_, ?_, ?_, ?_, ?_, ?_, ?_, ?_, ?_, ?_, ?_⟩ <;> (repeat' first | (simp; done) | split | dsimp only | simp)

@[simp] theorem State.duePulse_frame (s : State) (side : Side) (p : Option Pulse) :
    (s.duePulse side p).mem = s.mem ∧ (s.duePulse side p).port = s.port ∧ (s.duePulse side p).rif = s.rif ∧ (s.duePulse side p).bdr = s.bdr ∧ (s.duePulse side p).sps = s.sps ∧ (s.duePulse side p).msc = s.msc ∧ (s.duePulse side p).trm = s.trm ∧ (s.duePulse side p).hlc = s.hlc ∧ (s.duePulse side p).geu = s.geu ∧ (s.duePulse side p).htc = s.htc ∧ (s.duePulse side p).fdc = s.fdc ∧ (s.duePulse side p).mru = s.mru ∧ (s.duePulse side p).inbox = s.inbox ∧ (s.duePulse side p).pending = s.pending := by
  unfold State.duePulse; refine ⟨?_, ?_, ?_, ?_, ?_, ?_, ?_, ?_, ?_, ?_, ?_, ?_, ?_, ?_⟩ <;> (repeat' first | (simp; done) | split | dsimp only | simp)

@[simp] theorem State.gradeCorrection_frame (s : State) (side : Side) (ds : List Delivery) :
    (s.gradeCorrection side ds).mem = s.mem ∧ (s.gradeCorrection side ds).bdr = s.bdr ∧ (s.gradeCorrection side ds).sps = s.sps ∧ (s.gradeCorrection side ds).msc = s.msc ∧ (s.gradeCorrection side ds).trm = s.trm ∧ (s.gradeCorrection side ds).hlc = s.hlc ∧ (s.gradeCorrection side ds).geu = s.geu ∧ (s.gradeCorrection side ds).htc = s.htc ∧ (s.gradeCorrection side ds).fdc = s.fdc ∧ (s.gradeCorrection side ds).mru = s.mru ∧ (s.gradeCorrection side ds).pending = s.pending := by
  unfold State.gradeCorrection; refine ⟨?_, ?_, ?_, ?_, ?_, ?_, ?_, ?_, ?_, ?_, ?_⟩ <;> (repeat' first | (simp; done) | split | dsimp only | simp)

@[simp] theorem State.slopeCorrection_frame (s : State) (side : Side) (d : Delivery) :
    (s.slopeCorrection side d).mem = s.mem ∧ (s.slopeCorrection side d).bdr = s.bdr ∧ (s.slopeCorrection side d).sps = s.sps ∧ (s.slopeCorrection side d).msc = s.msc ∧ (s.slopeCorrection side d).trm = s.trm ∧ (s.slopeCorrection side d).hlc = s.hlc ∧ (s.slopeCorrection side d).geu = s.geu ∧ (s.slopeCorrection side d).htc = s.htc ∧ (s.slopeCorrection side d).fdc = s.fdc ∧ (s.slopeCorrection side d).mru = s.mru ∧ (s.slopeCorrection side d).pending = s.pending := by
  unfold State.slopeCorrection; refine ⟨?_, ?_, ?_, ?_, ?_, ?_, ?_, ?_, ?_, ?_, ?_⟩ <;> (repeat' first | (simp; done) | split | dsimp only | simp)

@[simp] theorem State.correction_frame (s : State) (side : Side) (ds : List Delivery) :
    (s.correction side ds).mem = s.mem ∧ (s.correction side ds).bdr = s.bdr ∧ (s.correction side ds).sps = s.sps ∧ (s.correction side ds).msc = s.msc ∧ (s.correction side ds).trm = s.trm ∧ (s.correction side ds).hlc = s.hlc ∧ (s.correction side ds).geu = s.geu ∧ (s.correction side ds).htc = s.htc ∧ (s.correction side ds).fdc = s.fdc ∧ (s.correction side ds).mru = s.mru ∧ (s.correction side ds).pending = s.pending := by
  unfold State.correction; refine ⟨?_, ?_, ?_, ?_, ?_, ?_, ?_, ?_, ?_, ?_, ?_⟩ <;> (repeat' first | (simp; done) | split | dsimp only | simp)

@[simp] theorem State.deliverSide_frame (s : State) (side : Side) (d : Delivery) :
    (s.deliverSide side d).mem = s.mem ∧ (s.deliverSide side d).bdr = s.bdr ∧ (s.deliverSide side d).sps = s.sps ∧ (s.deliverSide side d).msc = s.msc ∧ (s.deliverSide side d).trm = s.trm ∧ (s.deliverSide side d).hlc = s.hlc ∧ (s.deliverSide side d).geu = s.geu ∧ (s.deliverSide side d).htc = s.htc ∧ (s.deliverSide side d).fdc = s.fdc ∧ (s.deliverSide side d).mru = s.mru ∧ (s.deliverSide side d).pending = s.pending := by
  unfold State.deliverSide; refine ⟨?_, ?_, ?_, ?_, ?_, ?_, ?_, ?_, ?_, ?_, ?_⟩ <;> (repeat' first | (simp; done) | split | dsimp only | simp)

@[simp] theorem State.pulseEnds_frame (s : State) (side : Side) :
    (s.pulseEnds side).mem = s.mem ∧ (s.pulseEnds side).port = s.port ∧ (s.pulseEnds side).rif = s.rif ∧ (s.pulseEnds side).bdr = s.bdr ∧ (s.pulseEnds side).sps = s.sps ∧ (s.pulseEnds side).msc = s.msc ∧ (s.pulseEnds side).trm = s.trm ∧ (s.pulseEnds side).hlc = s.hlc ∧ (s.pulseEnds side).geu = s.geu ∧ (s.pulseEnds side).htc = s.htc ∧ (s.pulseEnds side).fdc = s.fdc ∧ (s.pulseEnds side).mru = s.mru ∧ (s.pulseEnds side).inbox = s.inbox ∧ (s.pulseEnds side).pending = s.pending := by
  unfold State.pulseEnds; refine ⟨?_, ?_, ?_, ?_, ?_, ?_, ?_, ?_, ?_, ?_, ?_, ?_, ?_, ?_⟩ <;> (repeat' first | (simp; done) | split | dsimp only | simp)

@[simp] theorem State.setReference_frame (s : State) (side : Side) (kind : ReferenceKind) :
    (s.setReference side kind).mem = s.mem ∧ (s.setReference side kind).bdr = s.bdr ∧ (s.setReference side kind).sps = s.sps ∧ (s.setReference side kind).msc = s.msc ∧ (s.setReference side kind).trm = s.trm ∧ (s.setReference side kind).hlc = s.hlc ∧ (s.setReference side kind).geu = s.geu ∧ (s.setReference side kind).htc = s.htc ∧ (s.setReference side kind).fdc = s.fdc ∧ (s.setReference side kind).mru = s.mru ∧ (s.setReference side kind).pending = s.pending := by
  unfold State.setReference; refine ⟨?_, ?_, ?_, ?_, ?_, ?_, ?_, ?_, ?_, ?_, ?_⟩ <;> (repeat' first | (simp; done) | split | dsimp only | simp)

@[simp] theorem State.requestSide_frame (s : State) (side : Side) (mode : SideMode) :
    (s.requestSide side mode).mem = s.mem ∧ (s.requestSide side mode).bdr = s.bdr ∧ (s.requestSide side mode).sps = s.sps ∧ (s.requestSide side mode).trm = s.trm ∧ (s.requestSide side mode).hlc = s.hlc ∧ (s.requestSide side mode).geu = s.geu ∧ (s.requestSide side mode).lvc = s.lvc ∧ (s.requestSide side mode).htc = s.htc ∧ (s.requestSide side mode).fdc = s.fdc ∧ (s.requestSide side mode).mru = s.mru ∧ (s.requestSide side mode).pending = s.pending := by
  unfold State.requestSide; refine ⟨?_, ?_, ?_, ?_, ?_, ?_, ?_, ?_, ?_, ?_, ?_⟩ <;> (repeat' first | (simp; done) | split | dsimp only | simp)

/-! ## Heating -/

@[simp] theorem State.modZone_frame (s : State) (i : Nat) (f : Zone → Zone) :
    (s.modZone i f).mem = s.mem ∧ (s.modZone i f).port = s.port ∧ (s.modZone i f).rif = s.rif ∧ (s.modZone i f).bdr = s.bdr ∧ (s.modZone i f).sps = s.sps ∧ (s.modZone i f).msc = s.msc ∧ (s.modZone i f).trm = s.trm ∧ (s.modZone i f).hlc = s.hlc ∧ (s.modZone i f).geu = s.geu ∧ (s.modZone i f).lvc = s.lvc ∧ (s.modZone i f).fdc = s.fdc ∧ (s.modZone i f).mru = s.mru ∧ (s.modZone i f).inbox = s.inbox ∧ (s.modZone i f).pending = s.pending := by
  unfold State.modZone; refine ⟨?_, ?_, ?_, ?_, ?_, ?_, ?_, ?_, ?_, ?_, ?_, ?_, ?_, ?_⟩ <;> (repeat' first | (simp; done) | split | dsimp only | simp)

@[simp] theorem State.leaveZone_frame (s : State) (i : Nat) (state : ZoneState) :
    (s.leaveZone i state).mem = s.mem ∧ (s.leaveZone i state).port = s.port ∧ (s.leaveZone i state).rif = s.rif ∧ (s.leaveZone i state).bdr = s.bdr ∧ (s.leaveZone i state).sps = s.sps ∧ (s.leaveZone i state).msc = s.msc ∧ (s.leaveZone i state).trm = s.trm ∧ (s.leaveZone i state).hlc = s.hlc ∧ (s.leaveZone i state).geu = s.geu ∧ (s.leaveZone i state).lvc = s.lvc ∧ (s.leaveZone i state).fdc = s.fdc ∧ (s.leaveZone i state).mru = s.mru ∧ (s.leaveZone i state).inbox = s.inbox ∧ (s.leaveZone i state).pending = s.pending := by
  unfold State.leaveZone; refine ⟨?_, ?_, ?_, ?_, ?_, ?_, ?_, ?_, ?_, ?_, ?_, ?_, ?_, ?_⟩ <;> (repeat' first | (simp; done) | split | dsimp only | simp)

@[simp] theorem State.waitZone_frame (s : State) (i : Nat) :
    (s.waitZone i).mem = s.mem ∧ (s.waitZone i).port = s.port ∧ (s.waitZone i).rif = s.rif ∧ (s.waitZone i).bdr = s.bdr ∧ (s.waitZone i).sps = s.sps ∧ (s.waitZone i).msc = s.msc ∧ (s.waitZone i).trm = s.trm ∧ (s.waitZone i).hlc = s.hlc ∧ (s.waitZone i).geu = s.geu ∧ (s.waitZone i).lvc = s.lvc ∧ (s.waitZone i).fdc = s.fdc ∧ (s.waitZone i).mru = s.mru ∧ (s.waitZone i).inbox = s.inbox ∧ (s.waitZone i).pending = s.pending := by
  unfold State.waitZone; refine ⟨?_, ?_, ?_, ?_, ?_, ?_, ?_, ?_, ?_, ?_, ?_, ?_, ?_, ?_⟩ <;> (repeat' first | (simp; done) | split | dsimp only | simp)

@[simp] theorem State.shedZone_frame (s : State) (i : Nat) :
    (s.shedZone i).mem = s.mem ∧ (s.shedZone i).bdr = s.bdr ∧ (s.shedZone i).sps = s.sps ∧ (s.shedZone i).msc = s.msc ∧ (s.shedZone i).trm = s.trm ∧ (s.shedZone i).hlc = s.hlc ∧ (s.shedZone i).geu = s.geu ∧ (s.shedZone i).lvc = s.lvc ∧ (s.shedZone i).fdc = s.fdc ∧ (s.shedZone i).mru = s.mru ∧ (s.shedZone i).inbox = s.inbox ∧ (s.shedZone i).pending = s.pending := by
  unfold State.shedZone; refine ⟨?_, ?_, ?_, ?_, ?_, ?_, ?_, ?_, ?_, ?_, ?_, ?_⟩ <;> (repeat' first | (simp; done) | split | dsimp only | simp)

@[simp] theorem State.shed_frame (n : Nat) (s : State) :
    (State.shed n s).mem = s.mem ∧ (State.shed n s).bdr = s.bdr ∧ (State.shed n s).sps = s.sps ∧ (State.shed n s).msc = s.msc ∧ (State.shed n s).trm = s.trm ∧ (State.shed n s).hlc = s.hlc ∧ (State.shed n s).geu = s.geu ∧ (State.shed n s).lvc = s.lvc ∧ (State.shed n s).fdc = s.fdc ∧ (State.shed n s).mru = s.mru ∧ (State.shed n s).inbox = s.inbox ∧ (State.shed n s).pending = s.pending := by
  induction n generalizing s with
  | zero => simp [State.shed]
  | succ n ih =>
    unfold State.shed
    (repeat' split) <;> simp [ih]

@[simp] theorem State.shedAll_frame (s : State) :
    (s.shedAll).mem = s.mem ∧ (s.shedAll).bdr = s.bdr ∧ (s.shedAll).sps = s.sps ∧ (s.shedAll).msc = s.msc ∧ (s.shedAll).trm = s.trm ∧ (s.shedAll).hlc = s.hlc ∧ (s.shedAll).geu = s.geu ∧ (s.shedAll).lvc = s.lvc ∧ (s.shedAll).fdc = s.fdc ∧ (s.shedAll).mru = s.mru ∧ (s.shedAll).inbox = s.inbox ∧ (s.shedAll).pending = s.pending := by
  unfold State.shedAll; refine ⟨?_, ?_, ?_, ?_, ?_, ?_, ?_, ?_, ?_, ?_, ?_, ?_⟩ <;> (repeat' first | (simp; done) | split | dsimp only | simp)

@[simp] theorem State.grant_frame (s : State) (i : Nat) :
    (s.grant i).mem = s.mem ∧ (s.grant i).port = s.port ∧ (s.grant i).rif = s.rif ∧ (s.grant i).bdr = s.bdr ∧ (s.grant i).sps = s.sps ∧ (s.grant i).msc = s.msc ∧ (s.grant i).trm = s.trm ∧ (s.grant i).hlc = s.hlc ∧ (s.grant i).geu = s.geu ∧ (s.grant i).lvc = s.lvc ∧ (s.grant i).fdc = s.fdc ∧ (s.grant i).mru = s.mru ∧ (s.grant i).inbox = s.inbox ∧ (s.grant i).pending = s.pending := by
  unfold State.grant; refine ⟨?_, ?_, ?_, ?_, ?_, ?_, ?_, ?_, ?_, ?_, ?_, ?_, ?_, ?_⟩ <;> (repeat' first | (simp; done) | split | dsimp only | simp)

@[simp] theorem State.attempt_frame (s : State) :
    (s.attempt).mem = s.mem ∧ (s.attempt).port = s.port ∧ (s.attempt).rif = s.rif ∧ (s.attempt).bdr = s.bdr ∧ (s.attempt).sps = s.sps ∧ (s.attempt).msc = s.msc ∧ (s.attempt).trm = s.trm ∧ (s.attempt).hlc = s.hlc ∧ (s.attempt).geu = s.geu ∧ (s.attempt).lvc = s.lvc ∧ (s.attempt).fdc = s.fdc ∧ (s.attempt).mru = s.mru ∧ (s.attempt).inbox = s.inbox ∧ (s.attempt).pending = s.pending := by
  unfold State.attempt; refine ⟨?_, ?_, ?_, ?_, ?_, ?_, ?_, ?_, ?_, ?_, ?_, ?_, ?_, ?_⟩ <;> (repeat' first | (simp; done) | split | dsimp only | simp)

@[simp] theorem State.reportLow_frame (s : State) :
    (s.reportLow).mem = s.mem ∧ (s.reportLow).bdr = s.bdr ∧ (s.reportLow).sps = s.sps ∧ (s.reportLow).msc = s.msc ∧ (s.reportLow).trm = s.trm ∧ (s.reportLow).hlc = s.hlc ∧ (s.reportLow).geu = s.geu ∧ (s.reportLow).lvc = s.lvc ∧ (s.reportLow).fdc = s.fdc ∧ (s.reportLow).mru = s.mru ∧ (s.reportLow).inbox = s.inbox ∧ (s.reportLow).pending = s.pending := by
  unfold State.reportLow; refine ⟨?_, ?_, ?_, ?_, ?_, ?_, ?_, ?_, ?_, ?_, ?_, ?_⟩ <;> (repeat' first | (simp; done) | split | dsimp only | simp)

@[simp] theorem State.recomputeBudget_frame (s : State) :
    (s.recomputeBudget).mem = s.mem ∧ (s.recomputeBudget).bdr = s.bdr ∧ (s.recomputeBudget).sps = s.sps ∧ (s.recomputeBudget).msc = s.msc ∧ (s.recomputeBudget).trm = s.trm ∧ (s.recomputeBudget).hlc = s.hlc ∧ (s.recomputeBudget).geu = s.geu ∧ (s.recomputeBudget).lvc = s.lvc ∧ (s.recomputeBudget).fdc = s.fdc ∧ (s.recomputeBudget).mru = s.mru ∧ (s.recomputeBudget).inbox = s.inbox ∧ (s.recomputeBudget).pending = s.pending := by
  unfold State.recomputeBudget; refine ⟨?_, ?_, ?_, ?_, ?_, ?_, ?_, ?_, ?_, ?_, ?_, ?_⟩ <;> (repeat' first | (simp; done) | split | dsimp only | simp)

@[simp] theorem State.enterFault_frame (s : State) (i : Nat) (kind : ZoneFault) :
    (s.enterFault i kind).mem = s.mem ∧ (s.enterFault i kind).bdr = s.bdr ∧ (s.enterFault i kind).sps = s.sps ∧ (s.enterFault i kind).msc = s.msc ∧ (s.enterFault i kind).trm = s.trm ∧ (s.enterFault i kind).hlc = s.hlc ∧ (s.enterFault i kind).geu = s.geu ∧ (s.enterFault i kind).lvc = s.lvc ∧ (s.enterFault i kind).fdc = s.fdc ∧ (s.enterFault i kind).mru = s.mru ∧ (s.enterFault i kind).inbox = s.inbox ∧ (s.enterFault i kind).pending = s.pending := by
  unfold State.enterFault; refine ⟨?_, ?_, ?_, ?_, ?_, ?_, ?_, ?_, ?_, ?_, ?_, ?_⟩ <;> (repeat' first | (simp; done) | split | dsimp only | simp)

@[simp] theorem State.temperatureMoves_frame (s : State) (i : Nat) (z : Zone) (temperature : Int) :
    (s.temperatureMoves i z temperature).mem = s.mem ∧ (s.temperatureMoves i z temperature).port = s.port ∧ (s.temperatureMoves i z temperature).rif = s.rif ∧ (s.temperatureMoves i z temperature).bdr = s.bdr ∧ (s.temperatureMoves i z temperature).sps = s.sps ∧ (s.temperatureMoves i z temperature).msc = s.msc ∧ (s.temperatureMoves i z temperature).trm = s.trm ∧ (s.temperatureMoves i z temperature).hlc = s.hlc ∧ (s.temperatureMoves i z temperature).geu = s.geu ∧ (s.temperatureMoves i z temperature).lvc = s.lvc ∧ (s.temperatureMoves i z temperature).fdc = s.fdc ∧ (s.temperatureMoves i z temperature).mru = s.mru ∧ (s.temperatureMoves i z temperature).inbox = s.inbox ∧ (s.temperatureMoves i z temperature).pending = s.pending := by
  unfold State.temperatureMoves; refine ⟨?_, ?_, ?_, ?_, ?_, ?_, ?_, ?_, ?_, ?_, ?_, ?_, ?_, ?_⟩ <;> (repeat' first | (simp; done) | split | dsimp only | simp)

@[simp] theorem State.judgeSample_frame (s : State) (i : Nat) (z : Zone) (temperature : Int) (current : Nat) :
    (s.judgeSample i z temperature current).mem = s.mem ∧ (s.judgeSample i z temperature current).bdr = s.bdr ∧ (s.judgeSample i z temperature current).sps = s.sps ∧ (s.judgeSample i z temperature current).msc = s.msc ∧ (s.judgeSample i z temperature current).trm = s.trm ∧ (s.judgeSample i z temperature current).hlc = s.hlc ∧ (s.judgeSample i z temperature current).geu = s.geu ∧ (s.judgeSample i z temperature current).lvc = s.lvc ∧ (s.judgeSample i z temperature current).fdc = s.fdc ∧ (s.judgeSample i z temperature current).mru = s.mru ∧ (s.judgeSample i z temperature current).inbox = s.inbox ∧ (s.judgeSample i z temperature current).pending = s.pending := by
  unfold State.judgeSample; refine ⟨?_, ?_, ?_, ?_, ?_, ?_, ?_, ?_, ?_, ?_, ?_, ?_⟩ <;> (repeat' first | (simp; done) | split | dsimp only | simp)

@[simp] theorem State.confirmEnds_frame (s : State) (i current : Nat) :
    (s.confirmEnds i current).mem = s.mem ∧ (s.confirmEnds i current).bdr = s.bdr ∧ (s.confirmEnds i current).sps = s.sps ∧ (s.confirmEnds i current).msc = s.msc ∧ (s.confirmEnds i current).trm = s.trm ∧ (s.confirmEnds i current).hlc = s.hlc ∧ (s.confirmEnds i current).geu = s.geu ∧ (s.confirmEnds i current).lvc = s.lvc ∧ (s.confirmEnds i current).fdc = s.fdc ∧ (s.confirmEnds i current).mru = s.mru ∧ (s.confirmEnds i current).inbox = s.inbox ∧ (s.confirmEnds i current).pending = s.pending := by
  unfold State.confirmEnds; refine ⟨?_, ?_, ?_, ?_, ?_, ?_, ?_, ?_, ?_, ?_, ?_, ?_⟩ <;> (repeat' first | (simp; done) | split | dsimp only | simp)

@[simp] theorem State.rotate_frame (s : State) (i : Nat) (z : Zone) :
    (s.rotate i z).mem = s.mem ∧ (s.rotate i z).port = s.port ∧ (s.rotate i z).rif = s.rif ∧ (s.rotate i z).bdr = s.bdr ∧ (s.rotate i z).sps = s.sps ∧ (s.rotate i z).msc = s.msc ∧ (s.rotate i z).trm = s.trm ∧ (s.rotate i z).hlc = s.hlc ∧ (s.rotate i z).geu = s.geu ∧ (s.rotate i z).lvc = s.lvc ∧ (s.rotate i z).fdc = s.fdc ∧ (s.rotate i z).mru = s.mru ∧ (s.rotate i z).inbox = s.inbox ∧ (s.rotate i z).pending = s.pending := by
  unfold State.rotate; refine ⟨?_, ?_, ?_, ?_, ?_, ?_, ?_, ?_, ?_, ?_, ?_, ?_, ?_, ?_⟩ <;> (repeat' first | (simp; done) | split | dsimp only | simp)

@[simp] theorem State.takeReport_frame (s : State) (r : PowerReport) :
    (s.takeReport r).mem = s.mem ∧ (s.takeReport r).bdr = s.bdr ∧ (s.takeReport r).sps = s.sps ∧ (s.takeReport r).msc = s.msc ∧ (s.takeReport r).trm = s.trm ∧ (s.takeReport r).hlc = s.hlc ∧ (s.takeReport r).geu = s.geu ∧ (s.takeReport r).lvc = s.lvc ∧ (s.takeReport r).fdc = s.fdc ∧ (s.takeReport r).mru = s.mru ∧ (s.takeReport r).inbox = s.inbox ∧ (s.takeReport r).pending = s.pending := by
  unfold State.takeReport; refine ⟨?_, ?_, ?_, ?_, ?_, ?_, ?_, ?_, ?_, ?_, ?_, ?_⟩ <;> (repeat' first | (simp; done) | split | dsimp only | simp)

@[simp] theorem State.takeLevel_frame (s : State) (level : HeatLevel) :
    (s.takeLevel level).mem = s.mem ∧ (s.takeLevel level).port = s.port ∧ (s.takeLevel level).rif = s.rif ∧ (s.takeLevel level).bdr = s.bdr ∧ (s.takeLevel level).sps = s.sps ∧ (s.takeLevel level).msc = s.msc ∧ (s.takeLevel level).trm = s.trm ∧ (s.takeLevel level).hlc = s.hlc ∧ (s.takeLevel level).geu = s.geu ∧ (s.takeLevel level).lvc = s.lvc ∧ (s.takeLevel level).fdc = s.fdc ∧ (s.takeLevel level).mru = s.mru ∧ (s.takeLevel level).inbox = s.inbox ∧ (s.takeLevel level).pending = s.pending := by
  unfold State.takeLevel; refine ⟨?_, ?_, ?_, ?_, ?_, ?_, ?_, ?_, ?_, ?_, ?_, ?_, ?_, ?_⟩ <;> (repeat' first | (simp; done) | split | dsimp only | simp)

@[simp] theorem State.takeLive_frame (s : State) (live : LiveSet) :
    (s.takeLive live).mem = s.mem ∧ (s.takeLive live).port = s.port ∧ (s.takeLive live).rif = s.rif ∧ (s.takeLive live).bdr = s.bdr ∧ (s.takeLive live).sps = s.sps ∧ (s.takeLive live).msc = s.msc ∧ (s.takeLive live).trm = s.trm ∧ (s.takeLive live).hlc = s.hlc ∧ (s.takeLive live).geu = s.geu ∧ (s.takeLive live).lvc = s.lvc ∧ (s.takeLive live).fdc = s.fdc ∧ (s.takeLive live).mru = s.mru ∧ (s.takeLive live).inbox = s.inbox ∧ (s.takeLive live).pending = s.pending := by
  unfold State.takeLive; refine ⟨?_, ?_, ?_, ?_, ?_, ?_, ?_, ?_, ?_, ?_, ?_, ?_, ?_, ?_⟩ <;> (repeat' first | (simp; done) | split | dsimp only | simp)

@[simp] theorem State.rebuildZones_frame (s : State) (items : List ZoneItem) :
    (s.rebuildZones items).mem = s.mem ∧ (s.rebuildZones items).port = s.port ∧ (s.rebuildZones items).rif = s.rif ∧ (s.rebuildZones items).bdr = s.bdr ∧ (s.rebuildZones items).sps = s.sps ∧ (s.rebuildZones items).msc = s.msc ∧ (s.rebuildZones items).trm = s.trm ∧ (s.rebuildZones items).hlc = s.hlc ∧ (s.rebuildZones items).geu = s.geu ∧ (s.rebuildZones items).lvc = s.lvc ∧ (s.rebuildZones items).fdc = s.fdc ∧ (s.rebuildZones items).mru = s.mru ∧ (s.rebuildZones items).inbox = s.inbox ∧ (s.rebuildZones items).pending = s.pending := by
  unfold State.rebuildZones; refine ⟨?_, ?_, ?_, ?_, ?_, ?_, ?_, ?_, ?_, ?_, ?_, ?_, ?_, ?_⟩ <;> (repeat' first | (simp; done) | split | dsimp only | simp)

@[simp] theorem State.applyEnable_frame (s : State) (i : Nat) (on : Bool) :
    (s.applyEnable i on).mem = s.mem ∧ (s.applyEnable i on).port = s.port ∧ (s.applyEnable i on).rif = s.rif ∧ (s.applyEnable i on).bdr = s.bdr ∧ (s.applyEnable i on).sps = s.sps ∧ (s.applyEnable i on).msc = s.msc ∧ (s.applyEnable i on).trm = s.trm ∧ (s.applyEnable i on).hlc = s.hlc ∧ (s.applyEnable i on).geu = s.geu ∧ (s.applyEnable i on).lvc = s.lvc ∧ (s.applyEnable i on).fdc = s.fdc ∧ (s.applyEnable i on).mru = s.mru ∧ (s.applyEnable i on).inbox = s.inbox ∧ (s.applyEnable i on).pending = s.pending := by
  unfold State.applyEnable; refine ⟨?_, ?_, ?_, ?_, ?_, ?_, ?_, ?_, ?_, ?_, ?_, ?_, ?_, ?_⟩ <;> (repeat' first | (simp; done) | split | dsimp only | simp)

@[simp] theorem State.clearZone_frame (s : State) (i : Nat) :
    (s.clearZone i).mem = s.mem ∧ (s.clearZone i).port = s.port ∧ (s.clearZone i).rif = s.rif ∧ (s.clearZone i).bdr = s.bdr ∧ (s.clearZone i).sps = s.sps ∧ (s.clearZone i).msc = s.msc ∧ (s.clearZone i).trm = s.trm ∧ (s.clearZone i).hlc = s.hlc ∧ (s.clearZone i).geu = s.geu ∧ (s.clearZone i).lvc = s.lvc ∧ (s.clearZone i).fdc = s.fdc ∧ (s.clearZone i).mru = s.mru ∧ (s.clearZone i).inbox = s.inbox ∧ (s.clearZone i).pending = s.pending := by
  unfold State.clearZone; refine ⟨?_, ?_, ?_, ?_, ?_, ?_, ?_, ?_, ?_, ?_, ?_, ?_, ?_, ?_⟩ <;> (repeat' first | (simp; done) | split | dsimp only | simp)

/-! ## Feed -/

@[simp] theorem State.modChannel_frame (s : State) (c : Fin 4) (f : Channel → Channel) :
    (s.modChannel c f).mem = s.mem ∧ (s.modChannel c f).port = s.port ∧ (s.modChannel c f).rif = s.rif ∧ (s.modChannel c f).bdr = s.bdr ∧ (s.modChannel c f).sps = s.sps ∧ (s.modChannel c f).msc = s.msc ∧ (s.modChannel c f).trm = s.trm ∧ (s.modChannel c f).hlc = s.hlc ∧ (s.modChannel c f).geu = s.geu ∧ (s.modChannel c f).lvc = s.lvc ∧ (s.modChannel c f).htc = s.htc ∧ (s.modChannel c f).mru = s.mru ∧ (s.modChannel c f).inbox = s.inbox ∧ (s.modChannel c f).pending = s.pending := by
  unfold State.modChannel; refine ⟨?_, ?_, ?_, ?_, ?_, ?_, ?_, ?_, ?_, ?_, ?_, ?_, ?_, ?_⟩ <;> (repeat' first | (simp; done) | split | dsimp only | simp)

@[simp] theorem State.settleStall_frame (s : State) (c : Fin 4) :
    (s.settleStall c).mem = s.mem ∧ (s.settleStall c).port = s.port ∧ (s.settleStall c).rif = s.rif ∧ (s.settleStall c).bdr = s.bdr ∧ (s.settleStall c).sps = s.sps ∧ (s.settleStall c).msc = s.msc ∧ (s.settleStall c).trm = s.trm ∧ (s.settleStall c).hlc = s.hlc ∧ (s.settleStall c).geu = s.geu ∧ (s.settleStall c).lvc = s.lvc ∧ (s.settleStall c).htc = s.htc ∧ (s.settleStall c).mru = s.mru ∧ (s.settleStall c).inbox = s.inbox ∧ (s.settleStall c).pending = s.pending := by
  unfold State.settleStall; refine ⟨?_, ?_, ?_, ?_, ?_, ?_, ?_, ?_, ?_, ?_, ?_, ?_, ?_, ?_⟩ <;> (repeat' first | (simp; done) | split | dsimp only | simp)

@[simp] theorem State.recomputeDemand_frame (s : State) (c : Fin 4) :
    (s.recomputeDemand c).mem = s.mem ∧ (s.recomputeDemand c).port = s.port ∧ (s.recomputeDemand c).rif = s.rif ∧ (s.recomputeDemand c).bdr = s.bdr ∧ (s.recomputeDemand c).sps = s.sps ∧ (s.recomputeDemand c).msc = s.msc ∧ (s.recomputeDemand c).trm = s.trm ∧ (s.recomputeDemand c).hlc = s.hlc ∧ (s.recomputeDemand c).geu = s.geu ∧ (s.recomputeDemand c).lvc = s.lvc ∧ (s.recomputeDemand c).htc = s.htc ∧ (s.recomputeDemand c).mru = s.mru ∧ (s.recomputeDemand c).inbox = s.inbox ∧ (s.recomputeDemand c).pending = s.pending := by
  unfold State.recomputeDemand; refine ⟨?_, ?_, ?_, ?_, ?_, ?_, ?_, ?_, ?_, ?_, ?_, ?_, ?_, ?_⟩ <;> (repeat' first | (simp; done) | split | dsimp only | simp)

@[simp] theorem State.recomputeFlow_frame (s : State) :
    (s.recomputeFlow).mem = s.mem ∧ (s.recomputeFlow).port = s.port ∧ (s.recomputeFlow).rif = s.rif ∧ (s.recomputeFlow).bdr = s.bdr ∧ (s.recomputeFlow).sps = s.sps ∧ (s.recomputeFlow).msc = s.msc ∧ (s.recomputeFlow).trm = s.trm ∧ (s.recomputeFlow).hlc = s.hlc ∧ (s.recomputeFlow).geu = s.geu ∧ (s.recomputeFlow).lvc = s.lvc ∧ (s.recomputeFlow).htc = s.htc ∧ (s.recomputeFlow).mru = s.mru ∧ (s.recomputeFlow).inbox = s.inbox ∧ (s.recomputeFlow).pending = s.pending := by
  unfold State.recomputeFlow; refine ⟨?_, ?_, ?_, ?_, ?_, ?_, ?_, ?_, ?_, ?_, ?_, ?_, ?_, ?_⟩ <;> (repeat' first | (simp; done) | split | dsimp only | simp)

@[simp] theorem State.takeFeedMode_frame (s : State) (c : Fin 4) (mode : FeedMode) :
    (s.takeFeedMode c mode).mem = s.mem ∧ (s.takeFeedMode c mode).port = s.port ∧ (s.takeFeedMode c mode).rif = s.rif ∧ (s.takeFeedMode c mode).bdr = s.bdr ∧ (s.takeFeedMode c mode).sps = s.sps ∧ (s.takeFeedMode c mode).msc = s.msc ∧ (s.takeFeedMode c mode).trm = s.trm ∧ (s.takeFeedMode c mode).hlc = s.hlc ∧ (s.takeFeedMode c mode).geu = s.geu ∧ (s.takeFeedMode c mode).lvc = s.lvc ∧ (s.takeFeedMode c mode).htc = s.htc ∧ (s.takeFeedMode c mode).mru = s.mru ∧ (s.takeFeedMode c mode).inbox = s.inbox ∧ (s.takeFeedMode c mode).pending = s.pending := by
  unfold State.takeFeedMode; simp

@[simp] theorem State.resumeRunning_frame (s : State) (c : Fin 4) :
    (s.resumeRunning c).mem = s.mem ∧ (s.resumeRunning c).port = s.port ∧ (s.resumeRunning c).rif = s.rif ∧ (s.resumeRunning c).bdr = s.bdr ∧ (s.resumeRunning c).sps = s.sps ∧ (s.resumeRunning c).msc = s.msc ∧ (s.resumeRunning c).trm = s.trm ∧ (s.resumeRunning c).hlc = s.hlc ∧ (s.resumeRunning c).geu = s.geu ∧ (s.resumeRunning c).lvc = s.lvc ∧ (s.resumeRunning c).htc = s.htc ∧ (s.resumeRunning c).mru = s.mru ∧ (s.resumeRunning c).inbox = s.inbox ∧ (s.resumeRunning c).pending = s.pending := by
  unfold State.resumeRunning; refine ⟨?_, ?_, ?_, ?_, ?_, ?_, ?_, ?_, ?_, ?_, ?_, ?_, ?_, ?_⟩ <;> (repeat' first | (simp; done) | split | dsimp only | simp)

@[simp] theorem State.followSample_frame (s : State) (c : Fin 4) (sample : Nat) :
    (s.followSample c sample).mem = s.mem ∧ (s.followSample c sample).bdr = s.bdr ∧ (s.followSample c sample).sps = s.sps ∧ (s.followSample c sample).msc = s.msc ∧ (s.followSample c sample).trm = s.trm ∧ (s.followSample c sample).hlc = s.hlc ∧ (s.followSample c sample).geu = s.geu ∧ (s.followSample c sample).lvc = s.lvc ∧ (s.followSample c sample).htc = s.htc ∧ (s.followSample c sample).mru = s.mru ∧ (s.followSample c sample).inbox = s.inbox ∧ (s.followSample c sample).pending = s.pending := by
  unfold State.followSample; refine ⟨?_, ?_, ?_, ?_, ?_, ?_, ?_, ?_, ?_, ?_, ?_, ?_⟩ <;> (repeat' first | (simp; done) | split | dsimp only | simp)

@[simp] theorem State.endOnTime_frame (s : State) (c : Fin 4) (length sample : Nat) :
    (s.endOnTime c length sample).mem = s.mem ∧ (s.endOnTime c length sample).bdr = s.bdr ∧ (s.endOnTime c length sample).sps = s.sps ∧ (s.endOnTime c length sample).msc = s.msc ∧ (s.endOnTime c length sample).trm = s.trm ∧ (s.endOnTime c length sample).hlc = s.hlc ∧ (s.endOnTime c length sample).geu = s.geu ∧ (s.endOnTime c length sample).lvc = s.lvc ∧ (s.endOnTime c length sample).htc = s.htc ∧ (s.endOnTime c length sample).mru = s.mru ∧ (s.endOnTime c length sample).inbox = s.inbox ∧ (s.endOnTime c length sample).pending = s.pending := by
  unfold State.endOnTime; refine ⟨?_, ?_, ?_, ?_, ?_, ?_, ?_, ?_, ?_, ?_, ?_, ?_⟩ <;> (repeat' first | (simp; done) | split | dsimp only | simp)

@[simp] theorem State.loseSensor_frame (s : State) (c : Fin 4) :
    (s.loseSensor c).mem = s.mem ∧ (s.loseSensor c).bdr = s.bdr ∧ (s.loseSensor c).sps = s.sps ∧ (s.loseSensor c).msc = s.msc ∧ (s.loseSensor c).trm = s.trm ∧ (s.loseSensor c).hlc = s.hlc ∧ (s.loseSensor c).geu = s.geu ∧ (s.loseSensor c).lvc = s.lvc ∧ (s.loseSensor c).htc = s.htc ∧ (s.loseSensor c).mru = s.mru ∧ (s.loseSensor c).inbox = s.inbox ∧ (s.loseSensor c).pending = s.pending := by
  unfold State.loseSensor; refine ⟨?_, ?_, ?_, ?_, ?_, ?_, ?_, ?_, ?_, ?_, ?_, ?_⟩ <;> (repeat' first | (simp; done) | split | dsimp only | simp)

@[simp] theorem State.couple_frame (s : State) (c : Fin 4) :
    (s.couple c).mem = s.mem ∧ (s.couple c).port = s.port ∧ (s.couple c).rif = s.rif ∧ (s.couple c).bdr = s.bdr ∧ (s.couple c).sps = s.sps ∧ (s.couple c).msc = s.msc ∧ (s.couple c).trm = s.trm ∧ (s.couple c).hlc = s.hlc ∧ (s.couple c).geu = s.geu ∧ (s.couple c).lvc = s.lvc ∧ (s.couple c).htc = s.htc ∧ (s.couple c).mru = s.mru ∧ (s.couple c).inbox = s.inbox ∧ (s.couple c).pending = s.pending := by
  unfold State.couple; refine ⟨?_, ?_, ?_, ?_, ?_, ?_, ?_, ?_, ?_, ?_, ?_, ?_, ?_, ?_⟩ <;> (repeat' first | (simp; done) | split | dsimp only | simp)

@[simp] theorem State.uncouple_frame (s : State) (c : Fin 4) :
    (s.uncouple c).mem = s.mem ∧ (s.uncouple c).port = s.port ∧ (s.uncouple c).rif = s.rif ∧ (s.uncouple c).bdr = s.bdr ∧ (s.uncouple c).sps = s.sps ∧ (s.uncouple c).msc = s.msc ∧ (s.uncouple c).trm = s.trm ∧ (s.uncouple c).hlc = s.hlc ∧ (s.uncouple c).geu = s.geu ∧ (s.uncouple c).lvc = s.lvc ∧ (s.uncouple c).htc = s.htc ∧ (s.uncouple c).mru = s.mru ∧ (s.uncouple c).inbox = s.inbox ∧ (s.uncouple c).pending = s.pending := by
  unfold State.uncouple; refine ⟨?_, ?_, ?_, ?_, ?_, ?_, ?_, ?_, ?_, ?_, ?_, ?_, ?_, ?_⟩ <;> (repeat' first | (simp; done) | split | dsimp only | simp)

@[simp] theorem State.jam_frame (s : State) (c : Fin 4) :
    (s.jam c).mem = s.mem ∧ (s.jam c).bdr = s.bdr ∧ (s.jam c).sps = s.sps ∧ (s.jam c).msc = s.msc ∧ (s.jam c).trm = s.trm ∧ (s.jam c).hlc = s.hlc ∧ (s.jam c).geu = s.geu ∧ (s.jam c).lvc = s.lvc ∧ (s.jam c).htc = s.htc ∧ (s.jam c).mru = s.mru ∧ (s.jam c).inbox = s.inbox ∧ (s.jam c).pending = s.pending := by
  unfold State.jam; refine ⟨?_, ?_, ?_, ?_, ?_, ?_, ?_, ?_, ?_, ?_, ?_, ?_⟩ <;> (repeat' first | (simp; done) | split | dsimp only | simp)

@[simp] theorem State.requestFeed_frame (s : State) (c : Fin 4) (mode : FeedMode) :
    (s.requestFeed c mode).mem = s.mem ∧ (s.requestFeed c mode).bdr = s.bdr ∧ (s.requestFeed c mode).sps = s.sps ∧ (s.requestFeed c mode).trm = s.trm ∧ (s.requestFeed c mode).hlc = s.hlc ∧ (s.requestFeed c mode).geu = s.geu ∧ (s.requestFeed c mode).lvc = s.lvc ∧ (s.requestFeed c mode).htc = s.htc ∧ (s.requestFeed c mode).fdc = s.fdc ∧ (s.requestFeed c mode).mru = s.mru ∧ (s.requestFeed c mode).pending = s.pending := by
  unfold State.requestFeed; refine ⟨?_, ?_, ?_, ?_, ?_, ?_, ?_, ?_, ?_, ?_, ?_⟩ <;> (repeat' first | (simp; done) | split | dsimp only | simp)

@[simp] theorem State.clearJam_frame (s : State) (c : Fin 4) :
    (s.clearJam c).mem = s.mem ∧ (s.clearJam c).port = s.port ∧ (s.clearJam c).rif = s.rif ∧ (s.clearJam c).bdr = s.bdr ∧ (s.clearJam c).sps = s.sps ∧ (s.clearJam c).msc = s.msc ∧ (s.clearJam c).trm = s.trm ∧ (s.clearJam c).hlc = s.hlc ∧ (s.clearJam c).geu = s.geu ∧ (s.clearJam c).lvc = s.lvc ∧ (s.clearJam c).htc = s.htc ∧ (s.clearJam c).mru = s.mru ∧ (s.clearJam c).inbox = s.inbox ∧ (s.clearJam c).pending = s.pending := by
  unfold State.clearJam; refine ⟨?_, ?_, ?_, ?_, ?_, ?_, ?_, ?_, ?_, ?_, ?_, ?_, ?_, ?_⟩ <;> (repeat' first | (simp; done) | split | dsimp only | simp)

/-! ## Records -/

@[simp] theorem State.issuePage_frame (s : State) :
    (s.issuePage).mem = s.mem ∧ (s.issuePage).rif = s.rif ∧ (s.issuePage).bdr = s.bdr ∧ (s.issuePage).sps = s.sps ∧ (s.issuePage).msc = s.msc ∧ (s.issuePage).trm = s.trm ∧ (s.issuePage).hlc = s.hlc ∧ (s.issuePage).geu = s.geu ∧ (s.issuePage).lvc = s.lvc ∧ (s.issuePage).htc = s.htc ∧ (s.issuePage).fdc = s.fdc ∧ (s.issuePage).mru = s.mru ∧ (s.issuePage).inbox = s.inbox ∧ (s.issuePage).pending = s.pending := by
  unfold State.issuePage; refine ⟨?_, ?_, ?_, ?_, ?_, ?_, ?_, ?_, ?_, ?_, ?_, ?_, ?_, ?_⟩ <;> (repeat' first | (simp; done) | split | dsimp only | simp)

@[simp] theorem State.settleDrain_frame (s : State) :
    (s.settleDrain).mem = s.mem ∧ (s.settleDrain).port = s.port ∧ (s.settleDrain).bdr = s.bdr ∧ (s.settleDrain).sps = s.sps ∧ (s.settleDrain).msc = s.msc ∧ (s.settleDrain).trm = s.trm ∧ (s.settleDrain).hlc = s.hlc ∧ (s.settleDrain).geu = s.geu ∧ (s.settleDrain).lvc = s.lvc ∧ (s.settleDrain).htc = s.htc ∧ (s.settleDrain).fdc = s.fdc ∧ (s.settleDrain).inbox = s.inbox ∧ (s.settleDrain).pending = s.pending := by
  unfold State.settleDrain; refine ⟨?_, ?_, ?_, ?_, ?_, ?_, ?_, ?_, ?_, ?_, ?_, ?_, ?_⟩ <;> (repeat' first | (simp; done) | split | dsimp only | simp)

@[simp] theorem State.nextOp_frame (s : State) (search : Bool) :
    (s.nextOp search).mem = s.mem ∧ (s.nextOp search).port = s.port ∧ (s.nextOp search).bdr = s.bdr ∧ (s.nextOp search).sps = s.sps ∧ (s.nextOp search).msc = s.msc ∧ (s.nextOp search).trm = s.trm ∧ (s.nextOp search).hlc = s.hlc ∧ (s.nextOp search).geu = s.geu ∧ (s.nextOp search).lvc = s.lvc ∧ (s.nextOp search).htc = s.htc ∧ (s.nextOp search).fdc = s.fdc ∧ (s.nextOp search).inbox = s.inbox ∧ (s.nextOp search).pending = s.pending := by
  unfold State.nextOp; refine ⟨?_, ?_, ?_, ?_, ?_, ?_, ?_, ?_, ?_, ?_, ?_, ?_, ?_⟩ <;> (repeat' first | (simp; done) | split | dsimp only | simp)

@[simp] theorem State.drive_frame (s : State) (search : Bool) :
    (s.drive search).mem = s.mem ∧ (s.drive search).bdr = s.bdr ∧ (s.drive search).sps = s.sps ∧ (s.drive search).msc = s.msc ∧ (s.drive search).trm = s.trm ∧ (s.drive search).hlc = s.hlc ∧ (s.drive search).geu = s.geu ∧ (s.drive search).lvc = s.lvc ∧ (s.drive search).htc = s.htc ∧ (s.drive search).fdc = s.fdc ∧ (s.drive search).inbox = s.inbox ∧ (s.drive search).pending = s.pending := by
  unfold State.drive; refine ⟨?_, ?_, ?_, ?_, ?_, ?_, ?_, ?_, ?_, ?_, ?_, ?_⟩ <;> (repeat' first | (simp; done) | split | dsimp only | simp)

@[simp] theorem State.joinQueue_frame (s : State) (e : Entry) :
    (s.joinQueue e).mem = s.mem ∧ (s.joinQueue e).bdr = s.bdr ∧ (s.joinQueue e).sps = s.sps ∧ (s.joinQueue e).msc = s.msc ∧ (s.joinQueue e).trm = s.trm ∧ (s.joinQueue e).hlc = s.hlc ∧ (s.joinQueue e).geu = s.geu ∧ (s.joinQueue e).lvc = s.lvc ∧ (s.joinQueue e).htc = s.htc ∧ (s.joinQueue e).fdc = s.fdc ∧ (s.joinQueue e).inbox = s.inbox ∧ (s.joinQueue e).pending = s.pending := by
  unfold State.joinQueue; refine ⟨?_, ?_, ?_, ?_, ?_, ?_, ?_, ?_, ?_, ?_, ?_, ?_⟩ <;> (repeat' first | (simp; done) | split | dsimp only | simp)

@[simp] theorem State.reportLoss_frame (s : State) (subject : Nat) :
    (s.reportLoss subject).mem = s.mem ∧ (s.reportLoss subject).bdr = s.bdr ∧ (s.reportLoss subject).sps = s.sps ∧ (s.reportLoss subject).msc = s.msc ∧ (s.reportLoss subject).trm = s.trm ∧ (s.reportLoss subject).hlc = s.hlc ∧ (s.reportLoss subject).geu = s.geu ∧ (s.reportLoss subject).lvc = s.lvc ∧ (s.reportLoss subject).htc = s.htc ∧ (s.reportLoss subject).fdc = s.fdc ∧ (s.reportLoss subject).inbox = s.inbox ∧ (s.reportLoss subject).pending = s.pending := by
  unfold State.reportLoss; refine ⟨?_, ?_, ?_, ?_, ?_, ?_, ?_, ?_, ?_, ?_, ?_, ?_⟩ <;> (repeat' first | (simp; done) | split | dsimp only | simp)

@[simp] theorem State.trigger_frame (s : State) (unplaced : Bool) :
    (s.trigger unplaced).mem = s.mem ∧ (s.trigger unplaced).port = s.port ∧ (s.trigger unplaced).rif = s.rif ∧ (s.trigger unplaced).bdr = s.bdr ∧ (s.trigger unplaced).sps = s.sps ∧ (s.trigger unplaced).msc = s.msc ∧ (s.trigger unplaced).trm = s.trm ∧ (s.trigger unplaced).hlc = s.hlc ∧ (s.trigger unplaced).geu = s.geu ∧ (s.trigger unplaced).lvc = s.lvc ∧ (s.trigger unplaced).htc = s.htc ∧ (s.trigger unplaced).fdc = s.fdc ∧ (s.trigger unplaced).pending = s.pending := by
  unfold State.trigger; refine ⟨?_, ?_, ?_, ?_, ?_, ?_, ?_, ?_, ?_, ?_, ?_, ?_, ?_⟩ <;> (repeat' first | (simp; done) | split | dsimp only | simp)

@[simp] theorem State.runAdvance_frame (s : State) (next : Nat) :
    (s.runAdvance next).mem = s.mem ∧ (s.runAdvance next).port = s.port ∧ (s.runAdvance next).rif = s.rif ∧ (s.runAdvance next).bdr = s.bdr ∧ (s.runAdvance next).sps = s.sps ∧ (s.runAdvance next).msc = s.msc ∧ (s.runAdvance next).trm = s.trm ∧ (s.runAdvance next).hlc = s.hlc ∧ (s.runAdvance next).geu = s.geu ∧ (s.runAdvance next).lvc = s.lvc ∧ (s.runAdvance next).htc = s.htc ∧ (s.runAdvance next).fdc = s.fdc ∧ (s.runAdvance next).pending = s.pending := by
  unfold State.runAdvance; refine ⟨?_, ?_, ?_, ?_, ?_, ?_, ?_, ?_, ?_, ?_, ?_, ?_, ?_⟩ <;> (repeat' first | (simp; done) | split | dsimp only | simp)

@[simp] theorem State.advanceRecords_frame (s : State) :
    (s.advanceRecords).mem = s.mem ∧ (s.advanceRecords).port = s.port ∧ (s.advanceRecords).rif = s.rif ∧ (s.advanceRecords).bdr = s.bdr ∧ (s.advanceRecords).sps = s.sps ∧ (s.advanceRecords).msc = s.msc ∧ (s.advanceRecords).trm = s.trm ∧ (s.advanceRecords).hlc = s.hlc ∧ (s.advanceRecords).geu = s.geu ∧ (s.advanceRecords).lvc = s.lvc ∧ (s.advanceRecords).htc = s.htc ∧ (s.advanceRecords).fdc = s.fdc ∧ (s.advanceRecords).pending = s.pending := by
  unfold State.advanceRecords; refine ⟨?_, ?_, ?_, ?_, ?_, ?_, ?_, ?_, ?_, ?_, ?_, ?_, ?_⟩ <;> (repeat' first | (simp; done) | split | dsimp only | simp)

@[simp] theorem State.settleFallback_frame (s : State) :
    (s.settleFallback).mem = s.mem ∧ (s.settleFallback).port = s.port ∧ (s.settleFallback).rif = s.rif ∧ (s.settleFallback).bdr = s.bdr ∧ (s.settleFallback).sps = s.sps ∧ (s.settleFallback).msc = s.msc ∧ (s.settleFallback).trm = s.trm ∧ (s.settleFallback).hlc = s.hlc ∧ (s.settleFallback).geu = s.geu ∧ (s.settleFallback).lvc = s.lvc ∧ (s.settleFallback).htc = s.htc ∧ (s.settleFallback).fdc = s.fdc ∧ (s.settleFallback).inbox = s.inbox ∧ (s.settleFallback).pending = s.pending := by
  unfold State.settleFallback; refine ⟨?_, ?_, ?_, ?_, ?_, ?_, ?_, ?_, ?_, ?_, ?_, ?_, ?_, ?_⟩ <;> (repeat' first | (simp; done) | split | dsimp only | simp)

@[simp] theorem State.askReference_frame (s : State) :
    (s.askReference).mem = s.mem ∧ (s.askReference).port = s.port ∧ (s.askReference).rif = s.rif ∧ (s.askReference).bdr = s.bdr ∧ (s.askReference).sps = s.sps ∧ (s.askReference).msc = s.msc ∧ (s.askReference).trm = s.trm ∧ (s.askReference).hlc = s.hlc ∧ (s.askReference).geu = s.geu ∧ (s.askReference).lvc = s.lvc ∧ (s.askReference).htc = s.htc ∧ (s.askReference).fdc = s.fdc ∧ (s.askReference).pending = s.pending := by
  unfold State.askReference; refine ⟨?_, ?_, ?_, ?_, ?_, ?_, ?_, ?_, ?_, ?_, ?_, ?_, ?_⟩ <;> (repeat' first | (simp; done) | split | dsimp only | simp)

@[simp] theorem State.runCycle_frame (s : State) :
    (s.runCycle).mem = s.mem ∧ (s.runCycle).port = s.port ∧ (s.runCycle).rif = s.rif ∧ (s.runCycle).bdr = s.bdr ∧ (s.runCycle).sps = s.sps ∧ (s.runCycle).msc = s.msc ∧ (s.runCycle).trm = s.trm ∧ (s.runCycle).hlc = s.hlc ∧ (s.runCycle).geu = s.geu ∧ (s.runCycle).lvc = s.lvc ∧ (s.runCycle).htc = s.htc ∧ (s.runCycle).fdc = s.fdc ∧ (s.runCycle).pending = s.pending := by
  unfold State.runCycle; refine ⟨?_, ?_, ?_, ?_, ?_, ?_, ?_, ?_, ?_, ?_, ?_, ?_, ?_⟩ <;> (repeat' first | (simp; done) | split | dsimp only | simp)

@[simp] theorem State.endCycle_frame (s : State) :
    (s.endCycle).mem = s.mem ∧ (s.endCycle).port = s.port ∧ (s.endCycle).rif = s.rif ∧ (s.endCycle).bdr = s.bdr ∧ (s.endCycle).sps = s.sps ∧ (s.endCycle).msc = s.msc ∧ (s.endCycle).trm = s.trm ∧ (s.endCycle).hlc = s.hlc ∧ (s.endCycle).geu = s.geu ∧ (s.endCycle).lvc = s.lvc ∧ (s.endCycle).htc = s.htc ∧ (s.endCycle).fdc = s.fdc ∧ (s.endCycle).inbox = s.inbox ∧ (s.endCycle).pending = s.pending := by
  unfold State.endCycle; refine ⟨?_, ?_, ?_, ?_, ?_, ?_, ?_, ?_, ?_, ?_, ?_, ?_, ?_, ?_⟩ <;> (repeat' first | (simp; done) | split | dsimp only | simp)

@[simp] theorem State.referenceDue_frame (s : State) :
    (s.referenceDue).mem = s.mem ∧ (s.referenceDue).bdr = s.bdr ∧ (s.referenceDue).sps = s.sps ∧ (s.referenceDue).msc = s.msc ∧ (s.referenceDue).trm = s.trm ∧ (s.referenceDue).hlc = s.hlc ∧ (s.referenceDue).geu = s.geu ∧ (s.referenceDue).lvc = s.lvc ∧ (s.referenceDue).htc = s.htc ∧ (s.referenceDue).fdc = s.fdc ∧ (s.referenceDue).pending = s.pending := by
  unfold State.referenceDue; refine ⟨?_, ?_, ?_, ?_, ?_, ?_, ?_, ?_, ?_, ?_, ?_⟩ <;> (repeat' first | (simp; done) | split | dsimp only | simp)

@[simp] theorem State.followThermal_frame (s : State) (e : LineEntry) :
    (s.followThermal e).mem = s.mem ∧ (s.followThermal e).bdr = s.bdr ∧ (s.followThermal e).sps = s.sps ∧ (s.followThermal e).msc = s.msc ∧ (s.followThermal e).trm = s.trm ∧ (s.followThermal e).hlc = s.hlc ∧ (s.followThermal e).geu = s.geu ∧ (s.followThermal e).lvc = s.lvc ∧ (s.followThermal e).htc = s.htc ∧ (s.followThermal e).fdc = s.fdc ∧ (s.followThermal e).inbox = s.inbox ∧ (s.followThermal e).pending = s.pending := by
  unfold State.followThermal; refine ⟨?_, ?_, ?_, ?_, ?_, ?_, ?_, ?_, ?_, ?_, ?_, ?_⟩ <;> (repeat' first | (simp; done) | split | dsimp only | simp)

@[simp] theorem State.loseLine_frame (s : State) :
    (s.loseLine).mem = s.mem ∧ (s.loseLine).bdr = s.bdr ∧ (s.loseLine).sps = s.sps ∧ (s.loseLine).msc = s.msc ∧ (s.loseLine).trm = s.trm ∧ (s.loseLine).hlc = s.hlc ∧ (s.loseLine).geu = s.geu ∧ (s.loseLine).lvc = s.lvc ∧ (s.loseLine).htc = s.htc ∧ (s.loseLine).fdc = s.fdc ∧ (s.loseLine).inbox = s.inbox ∧ (s.loseLine).pending = s.pending := by
  unfold State.loseLine; refine ⟨?_, ?_, ?_, ?_, ?_, ?_, ?_, ?_, ?_, ?_, ?_, ?_⟩ <;> (repeat' first | (simp; done) | split | dsimp only | simp)

@[simp] theorem State.offerLine_frame (s : State) (e : LineEntry) :
    (s.offerLine e).mem = s.mem ∧ (s.offerLine e).bdr = s.bdr ∧ (s.offerLine e).sps = s.sps ∧ (s.offerLine e).msc = s.msc ∧ (s.offerLine e).trm = s.trm ∧ (s.offerLine e).hlc = s.hlc ∧ (s.offerLine e).geu = s.geu ∧ (s.offerLine e).lvc = s.lvc ∧ (s.offerLine e).htc = s.htc ∧ (s.offerLine e).fdc = s.fdc ∧ (s.offerLine e).inbox = s.inbox ∧ (s.offerLine e).pending = s.pending := by
  unfold State.offerLine; refine ⟨?_, ?_, ?_, ?_, ?_, ?_, ?_, ?_, ?_, ?_, ?_, ?_⟩ <;> (repeat' first | (simp; done) | split | dsimp only | simp)

@[simp] theorem State.releaseCycle_frame (s : State) :
    (s.releaseCycle).mem = s.mem ∧ (s.releaseCycle).port = s.port ∧ (s.releaseCycle).rif = s.rif ∧ (s.releaseCycle).bdr = s.bdr ∧ (s.releaseCycle).sps = s.sps ∧ (s.releaseCycle).msc = s.msc ∧ (s.releaseCycle).trm = s.trm ∧ (s.releaseCycle).hlc = s.hlc ∧ (s.releaseCycle).geu = s.geu ∧ (s.releaseCycle).lvc = s.lvc ∧ (s.releaseCycle).htc = s.htc ∧ (s.releaseCycle).fdc = s.fdc ∧ (s.releaseCycle).pending = s.pending := by
  unfold State.releaseCycle; refine ⟨?_, ?_, ?_, ?_, ?_, ?_, ?_, ?_, ?_, ?_, ?_, ?_, ?_⟩ <;> (repeat' first | (simp; done) | split | dsimp only | simp)

@[simp] theorem State.produceLine_frame (s : State) (l : LineInFlight) (points : List Half) :
    (s.produceLine l points).mem = s.mem ∧ (s.produceLine l points).bdr = s.bdr ∧ (s.produceLine l points).sps = s.sps ∧ (s.produceLine l points).msc = s.msc ∧ (s.produceLine l points).trm = s.trm ∧ (s.produceLine l points).hlc = s.hlc ∧ (s.produceLine l points).geu = s.geu ∧ (s.produceLine l points).lvc = s.lvc ∧ (s.produceLine l points).htc = s.htc ∧ (s.produceLine l points).fdc = s.fdc ∧ (s.produceLine l points).pending = s.pending := by
  unfold State.produceLine; refine ⟨?_, ?_, ?_, ?_, ?_, ?_, ?_, ?_, ?_, ?_, ?_⟩ <;> (repeat' first | (simp; done) | split | dsimp only | simp)

@[simp] theorem State.giveUpLine_frame (s : State) :
    (s.giveUpLine).mem = s.mem ∧ (s.giveUpLine).bdr = s.bdr ∧ (s.giveUpLine).sps = s.sps ∧ (s.giveUpLine).msc = s.msc ∧ (s.giveUpLine).trm = s.trm ∧ (s.giveUpLine).hlc = s.hlc ∧ (s.giveUpLine).geu = s.geu ∧ (s.giveUpLine).lvc = s.lvc ∧ (s.giveUpLine).htc = s.htc ∧ (s.giveUpLine).fdc = s.fdc ∧ (s.giveUpLine).pending = s.pending := by
  unfold State.giveUpLine; refine ⟨?_, ?_, ?_, ?_, ?_, ?_, ?_, ?_, ?_, ?_, ?_⟩ <;> (repeat' first | (simp; done) | split | dsimp only | simp)

@[simp] theorem State.scannerFails_frame (s : State) :
    (s.scannerFails).mem = s.mem ∧ (s.scannerFails).bdr = s.bdr ∧ (s.scannerFails).sps = s.sps ∧ (s.scannerFails).msc = s.msc ∧ (s.scannerFails).trm = s.trm ∧ (s.scannerFails).hlc = s.hlc ∧ (s.scannerFails).geu = s.geu ∧ (s.scannerFails).lvc = s.lvc ∧ (s.scannerFails).htc = s.htc ∧ (s.scannerFails).fdc = s.fdc ∧ (s.scannerFails).pending = s.pending := by
  unfold State.scannerFails; refine ⟨?_, ?_, ?_, ?_, ?_, ?_, ?_, ?_, ?_, ?_, ?_⟩ <;> (repeat' first | (simp; done) | split | dsimp only | simp)

@[simp] theorem State.scannerCompletes_frame (s : State) (ask : ScannerAsk) (points : List Half) :
    (s.scannerCompletes ask points).mem = s.mem ∧ (s.scannerCompletes ask points).bdr = s.bdr ∧ (s.scannerCompletes ask points).sps = s.sps ∧ (s.scannerCompletes ask points).msc = s.msc ∧ (s.scannerCompletes ask points).trm = s.trm ∧ (s.scannerCompletes ask points).hlc = s.hlc ∧ (s.scannerCompletes ask points).geu = s.geu ∧ (s.scannerCompletes ask points).lvc = s.lvc ∧ (s.scannerCompletes ask points).htc = s.htc ∧ (s.scannerCompletes ask points).fdc = s.fdc ∧ (s.scannerCompletes ask points).pending = s.pending := by
  unfold State.scannerCompletes; refine ⟨?_, ?_, ?_, ?_, ?_, ?_, ?_, ?_, ?_, ?_, ?_⟩ <;> (repeat' first | (simp; done) | split | dsimp only | simp)

@[simp] theorem State.takeAnswer_frame (s : State) (answer : ScannerAnswer) :
    (s.takeAnswer answer).mem = s.mem ∧ (s.takeAnswer answer).bdr = s.bdr ∧ (s.takeAnswer answer).sps = s.sps ∧ (s.takeAnswer answer).msc = s.msc ∧ (s.takeAnswer answer).trm = s.trm ∧ (s.takeAnswer answer).hlc = s.hlc ∧ (s.takeAnswer answer).geu = s.geu ∧ (s.takeAnswer answer).lvc = s.lvc ∧ (s.takeAnswer answer).htc = s.htc ∧ (s.takeAnswer answer).fdc = s.fdc ∧ (s.takeAnswer answer).pending = s.pending := by
  unfold State.takeAnswer; refine ⟨?_, ?_, ?_, ?_, ?_, ?_, ?_, ?_, ?_, ?_, ?_⟩ <;> (repeat' first | (simp; done) | split | dsimp only | simp)

@[simp] theorem State.startStop_frame (s : State) :
    (s.startStop).mem = s.mem ∧ (s.startStop).bdr = s.bdr ∧ (s.startStop).sps = s.sps ∧ (s.startStop).msc = s.msc ∧ (s.startStop).trm = s.trm ∧ (s.startStop).hlc = s.hlc ∧ (s.startStop).geu = s.geu ∧ (s.startStop).lvc = s.lvc ∧ (s.startStop).htc = s.htc ∧ (s.startStop).fdc = s.fdc ∧ (s.startStop).inbox = s.inbox ∧ (s.startStop).pending = s.pending := by
  unfold State.startStop; refine ⟨?_, ?_, ?_, ?_, ?_, ?_, ?_, ?_, ?_, ?_, ?_, ?_⟩ <;> (repeat' first | (simp; done) | split | dsimp only | simp)

@[simp] theorem State.pauseStarts_frame (s : State) :
    (s.pauseStarts).mem = s.mem ∧ (s.pauseStarts).bdr = s.bdr ∧ (s.pauseStarts).sps = s.sps ∧ (s.pauseStarts).msc = s.msc ∧ (s.pauseStarts).trm = s.trm ∧ (s.pauseStarts).hlc = s.hlc ∧ (s.pauseStarts).geu = s.geu ∧ (s.pauseStarts).lvc = s.lvc ∧ (s.pauseStarts).htc = s.htc ∧ (s.pauseStarts).fdc = s.fdc ∧ (s.pauseStarts).pending = s.pending := by
  unfold State.pauseStarts; refine ⟨?_, ?_, ?_, ?_, ?_, ?_, ?_, ?_, ?_, ?_, ?_⟩ <;> (repeat' first | (simp; done) | split | dsimp only | simp)

@[simp] theorem State.recordsRun_frame (s : State) :
    (s.recordsRun).mem = s.mem ∧ (s.recordsRun).port = s.port ∧ (s.recordsRun).rif = s.rif ∧ (s.recordsRun).bdr = s.bdr ∧ (s.recordsRun).sps = s.sps ∧ (s.recordsRun).msc = s.msc ∧ (s.recordsRun).trm = s.trm ∧ (s.recordsRun).hlc = s.hlc ∧ (s.recordsRun).geu = s.geu ∧ (s.recordsRun).lvc = s.lvc ∧ (s.recordsRun).htc = s.htc ∧ (s.recordsRun).fdc = s.fdc ∧ (s.recordsRun).inbox = s.inbox ∧ (s.recordsRun).pending = s.pending := by
  unfold State.recordsRun; refine ⟨?_, ?_, ?_, ?_, ?_, ?_, ?_, ?_, ?_, ?_, ?_, ?_, ?_, ?_⟩ <;> (repeat' first | (simp; done) | split | dsimp only | simp)

@[simp] theorem State.recordsOff_frame (s : State) :
    (s.recordsOff).mem = s.mem ∧ (s.recordsOff).bdr = s.bdr ∧ (s.recordsOff).sps = s.sps ∧ (s.recordsOff).msc = s.msc ∧ (s.recordsOff).trm = s.trm ∧ (s.recordsOff).hlc = s.hlc ∧ (s.recordsOff).geu = s.geu ∧ (s.recordsOff).lvc = s.lvc ∧ (s.recordsOff).htc = s.htc ∧ (s.recordsOff).fdc = s.fdc ∧ (s.recordsOff).inbox = s.inbox ∧ (s.recordsOff).pending = s.pending := by
  unfold State.recordsOff; refine ⟨?_, ?_, ?_, ?_, ?_, ?_, ?_, ?_, ?_, ?_, ?_, ?_⟩ <;> (repeat' first | (simp; done) | split | dsimp only | simp)

@[simp] theorem State.takeRecords_frame (s : State) (mode : RecordsMode) :
    (s.takeRecords mode).mem = s.mem ∧ (s.takeRecords mode).bdr = s.bdr ∧ (s.takeRecords mode).sps = s.sps ∧ (s.takeRecords mode).msc = s.msc ∧ (s.takeRecords mode).trm = s.trm ∧ (s.takeRecords mode).hlc = s.hlc ∧ (s.takeRecords mode).geu = s.geu ∧ (s.takeRecords mode).lvc = s.lvc ∧ (s.takeRecords mode).htc = s.htc ∧ (s.takeRecords mode).fdc = s.fdc ∧ (s.takeRecords mode).inbox = s.inbox ∧ (s.takeRecords mode).pending = s.pending := by
  unfold State.takeRecords; refine ⟨?_, ?_, ?_, ?_, ?_, ?_, ?_, ?_, ?_, ?_, ?_, ?_⟩ <;> (repeat' first | (simp; done) | split | dsimp only | simp)

@[simp] theorem State.pauseEnds_frame (s : State) (cause : PauseCause) (mode : RecordsMode) :
    (s.pauseEnds cause mode).mem = s.mem ∧ (s.pauseEnds cause mode).bdr = s.bdr ∧ (s.pauseEnds cause mode).sps = s.sps ∧ (s.pauseEnds cause mode).msc = s.msc ∧ (s.pauseEnds cause mode).trm = s.trm ∧ (s.pauseEnds cause mode).hlc = s.hlc ∧ (s.pauseEnds cause mode).geu = s.geu ∧ (s.pauseEnds cause mode).lvc = s.lvc ∧ (s.pauseEnds cause mode).htc = s.htc ∧ (s.pauseEnds cause mode).fdc = s.fdc ∧ (s.pauseEnds cause mode).inbox = s.inbox ∧ (s.pauseEnds cause mode).pending = s.pending := by
  unfold State.pauseEnds; refine ⟨?_, ?_, ?_, ?_, ?_, ?_, ?_, ?_, ?_, ?_, ?_, ?_⟩ <;> (repeat' first | (simp; done) | split | dsimp only | simp)

@[simp] theorem State.consoleMarked_frame (s : State) (code : Half) (runTime chainage : Word) :
    (s.consoleMarked code runTime chainage).mem = s.mem ∧ (s.consoleMarked code runTime chainage).bdr = s.bdr ∧ (s.consoleMarked code runTime chainage).sps = s.sps ∧ (s.consoleMarked code runTime chainage).msc = s.msc ∧ (s.consoleMarked code runTime chainage).trm = s.trm ∧ (s.consoleMarked code runTime chainage).hlc = s.hlc ∧ (s.consoleMarked code runTime chainage).geu = s.geu ∧ (s.consoleMarked code runTime chainage).lvc = s.lvc ∧ (s.consoleMarked code runTime chainage).htc = s.htc ∧ (s.consoleMarked code runTime chainage).fdc = s.fdc ∧ (s.consoleMarked code runTime chainage).inbox = s.inbox ∧ (s.consoleMarked code runTime chainage).pending = s.pending := by
  unfold State.consoleMarked; refine ⟨?_, ?_, ?_, ?_, ?_, ?_, ?_, ?_, ?_, ?_, ?_, ?_⟩ <;> (repeat' first | (simp; done) | split | dsimp only | simp)

@[simp] theorem State.countPage_frame (s : State) :
    (s.countPage).mem = s.mem ∧ (s.countPage).bdr = s.bdr ∧ (s.countPage).sps = s.sps ∧ (s.countPage).msc = s.msc ∧ (s.countPage).trm = s.trm ∧ (s.countPage).hlc = s.hlc ∧ (s.countPage).geu = s.geu ∧ (s.countPage).lvc = s.lvc ∧ (s.countPage).htc = s.htc ∧ (s.countPage).fdc = s.fdc ∧ (s.countPage).mru = s.mru ∧ (s.countPage).inbox = s.inbox ∧ (s.countPage).pending = s.pending := by
  unfold State.countPage; refine ⟨?_, ?_, ?_, ?_, ?_, ?_, ?_, ?_, ?_, ?_, ?_, ?_, ?_⟩ <;> (repeat' first | (simp; done) | split | dsimp only | simp)

@[simp] theorem State.finishFlush_frame (s : State) (p : OpenPage) :
    (s.finishFlush p).mem = s.mem ∧ (s.finishFlush p).rif = s.rif ∧ (s.finishFlush p).sps = s.sps ∧ (s.finishFlush p).msc = s.msc ∧ (s.finishFlush p).trm = s.trm ∧ (s.finishFlush p).hlc = s.hlc ∧ (s.finishFlush p).geu = s.geu ∧ (s.finishFlush p).lvc = s.lvc ∧ (s.finishFlush p).htc = s.htc ∧ (s.finishFlush p).fdc = s.fdc ∧ (s.finishFlush p).inbox = s.inbox ∧ (s.finishFlush p).pending = s.pending := by
  unfold State.finishFlush; refine ⟨?_, ?_, ?_, ?_, ?_, ?_, ?_, ?_, ?_, ?_, ?_, ?_⟩ <;> (repeat' first | (simp; done) | split | dsimp only | simp)

@[simp] theorem State.recordsRunStatus_frame (s : State) (status : RunStatus) :
    (s.recordsRunStatus status).mem = s.mem ∧ (s.recordsRunStatus status).bdr = s.bdr ∧ (s.recordsRunStatus status).sps = s.sps ∧ (s.recordsRunStatus status).msc = s.msc ∧ (s.recordsRunStatus status).trm = s.trm ∧ (s.recordsRunStatus status).hlc = s.hlc ∧ (s.recordsRunStatus status).geu = s.geu ∧ (s.recordsRunStatus status).lvc = s.lvc ∧ (s.recordsRunStatus status).htc = s.htc ∧ (s.recordsRunStatus status).fdc = s.fdc ∧ (s.recordsRunStatus status).inbox = s.inbox ∧ (s.recordsRunStatus status).pending = s.pending := by
  unfold State.recordsRunStatus; refine ⟨?_, ?_, ?_, ?_, ?_, ?_, ?_, ?_, ?_, ?_, ?_, ?_⟩ <;> (repeat' first | (simp; done) | split | dsimp only | simp)

end Sys2Proof.Machine
end

