-- ==== Sys2Proof/Laws/Bytes.lean ====
section
/-! SUPPORT. Little-endian fields read back, and the lengths of the blocks built of them (12). -/
namespace Sys2Proof.Machine

@[simp] theorem leBytes_length (n v : Nat) : (leBytes n v).length = n := by
  induction n generalizing v with
  | zero => rfl
  | succ n ih => simp [leBytes, ih]

/-- A field reads back modulo its width. -/
theorem leNat_leBytes (n v : Nat) : leNat (leBytes n v) = v % 256 ^ n := by
  induction n generalizing v with
  | zero => simp [leBytes, leNat, Nat.mod_one]
  | succ n ih => rw [leBytes, leNat, ih, pow_succ', Nat.mod_mul, BitVec.toNat_ofNat]; omega

/-- A word written in four bytes reads back. -/
theorem leNat_leBytes_word (v : Word) : leNat (leBytes 4 v.toNat) = v.toNat :=
  (leNat_leBytes 4 _).trans (Nat.mod_eq_of_lt v.isLt)

/-- A half written in two bytes reads back. -/
theorem leNat_leBytes_half (v : Half) : leNat (leBytes 2 v.toNat) = v.toNat :=
  (leNat_leBytes 2 _).trans (Nat.mod_eq_of_lt v.isLt)

/-- A code below 256 in one byte reads back. -/
theorem leNat_code {v : Nat} (h : v < 256) : leNat [BitVec.ofNat 8 v] = v := by
  simp [leNat, Nat.mod_eq_of_lt h]

/-- The number that bytes hold fits in their width. -/
theorem leNat_lt (bs : List Byte) : leNat bs < 256 ^ bs.length := by
  induction bs with
  | nil => exact Nat.one_pos
  | cons b bs ih => have := b.isLt; simp only [leNat, List.length_cons, pow_succ]; omega

/-- A field of `n` bytes, whatever the block's length, is below `256 ^ n`. -/
theorem fieldAt_lt (bs : List Byte) (offset n : Nat) : fieldAt bs offset n < 256 ^ n :=
  (leNat_lt _).trans_le (Nat.pow_le_pow_right (by decide) (List.length_take_le ..))

/-- A field that lies behind `before` in a block. -/
theorem leNat_behind (before after : List Byte) (k n : Nat) (h : before.length ≤ k) :
    leNat (((before ++ after).drop k).take n) = leNat ((after.drop (k - before.length)).take n) := by
  rw [List.drop_append, List.drop_eq_nil_of_le h, List.nil_append]

/-- The field at the start of a block. -/
theorem leNat_first (after : List Byte) (n v : Nat) :
    leNat (((leBytes n v ++ after).drop 0).take n) = v % 256 ^ n := by
  rw [List.drop_zero, List.take_left' (leBytes_length n v), leNat_leBytes]

@[simp] theorem State.summaryStates_length (s : State) : s.summaryStates.length = 20 := rfl

@[simp] theorem State.summaryFigures_length (s : State) : s.summaryFigures.length = 56 := by
  simp [State.summaryFigures]

/-- 12.2: the summary block is 256 bytes. -/
@[simp] theorem State.summaryBytes_length (s : State) (sequence : Word) : (s.summaryBytes sequence).length = 256 := by
  simp only [State.summaryBytes, List.length_append, leBytes_length, State.summaryStates_length,
    State.summaryFigures_length, List.length_replicate]

/-- 12.2: bytes 80 to 251 of the summary block are 0. -/
theorem State.summaryBytes_reserved (s : State) (sequence : Word) (i : Nat) (h1 : 80 ≤ i) (h2 : i < 252) :
    (s.summaryBytes sequence)[i]? = some 0 := by
  have e : (leBytes 4 sequence.toNat ++ s.summaryStates ++ s.summaryFigures).length = 80 := by
    simp only [List.length_append, leBytes_length, State.summaryStates_length, State.summaryFigures_length]
  rw [State.summaryBytes, List.append_assoc, List.getElem?_append_right (by omega), e,
    List.getElem?_append_left (by rw [List.length_replicate]; omega), List.getElem?_replicate, if_pos (by omega)]

/-- 12.2: the tail copy of the rewrite sequence. -/
theorem State.summaryBytes_tail (s : State) (sequence : Word) :
    leNat (((s.summaryBytes sequence).drop 252).take 4) = sequence.toNat := by
  have h := leNat_behind (leBytes 4 sequence.toNat ++ s.summaryStates ++ s.summaryFigures ++ List.replicate 172 0)
    (leBytes 4 sequence.toNat) 252 4 (by
      simp only [List.length_append, leBytes_length, State.summaryStates_length, State.summaryFigures_length,
        List.length_replicate]; omega)
  simp only [List.length_append, leBytes_length, State.summaryStates_length, State.summaryFigures_length,
    List.length_replicate] at h
  rw [State.summaryBytes, h]
  exact leNat_leBytes_word sequence

/-- 12.5: a note is 16 bytes. -/
@[simp] theorem NoteRequest.bytes_length (n : NoteRequest) : n.bytes.length = 16 := by simp [NoteRequest.bytes]

/-- 12.6: the fields before an entry's CRC are 12 bytes. -/
@[simp] theorem Entry.header_length (e : Entry) (sequence : Word) : (e.header sequence).length = 12 := by
  simp [Entry.header]

/-- 12.6: a field before an entry's CRC. -/
theorem Entry.field_header (e : Entry) (sequence : Word) (k n : Nat) (h : k + n ≤ 12) :
    leNat (((e.bytes sequence).drop k).take n) = leNat (((e.header sequence).drop k).take n) := by
  rw [Entry.bytes, List.append_assoc, List.drop_append_of_le_length (by rw [Entry.header_length]; omega),
    List.take_append_of_le_length (by simp; omega)]

/-- 12.6: a field behind an entry's CRC. -/
theorem Entry.field_body (e : Entry) (sequence : Word) (k n : Nat) (h : 14 ≤ k) :
    leNat (((e.bytes sequence).drop k).take n) = leNat ((e.filled.drop (k - 14)).take n) := by
  have h1 : (e.header sequence ++ leBytes 2 (crc16 (e.header sequence ++ e.filled)).toNat).length = 14 := by simp
  rw [Entry.bytes, leNat_behind _ _ _ _ (by rw [h1]; omega), h1]

/-- 12.6: an entry ends in padding of 0. -/
theorem Entry.bytes_padding (e : Entry) (sequence : Word) (i : Nat) (h1 : 14 + e.body.length ≤ i) (h2 : i < e.length) :
    (e.bytes sequence)[i]? = some 0 := by
  have h3 : (e.header sequence ++ leBytes 2 (crc16 (e.header sequence ++ e.filled)).toNat).length = 14 := by simp
  rw [Entry.bytes, List.getElem?_append_right (by rw [h3]; omega), h3, Entry.filled,
    List.getElem?_append_right (by omega), List.getElem?_replicate, if_pos (by omega)]

/-- 12.6: a page's header is 32 bytes with its owner. -/
@[simp] theorem OpenPage.header_length (p : OpenPage) (closedBy : ClosedBy) : (p.header closedBy).length = 31 := by
  simp [OpenPage.header, OpenPage.headerBody]

end Sys2Proof.Machine
end

