-- ==== Sys2Proof/Laws/Heating.lean ====
section
/-! SUPPORT. What the operations of the Heating Controller may do to the closings: only a grant attempt closes a contactor, and
one alone (R137, R138). -/
namespace Sys2Proof.Machine

/-- R134, R135: the member with the least measure; of a rising list, the least such member. -/
theorem leastBy_spec (f : Nat → Nat) (l : List Nat) :
    (leastBy f l = none ↔ l = []) ∧
    ∀ i, leastBy f l = some i → i ∈ l ∧ (∀ k ∈ l, f i ≤ f k) ∧ (l.Pairwise (· < ·) → ∀ k ∈ l, f i = f k → i ≤ k) := by
  induction l with
  | nil => simp [leastBy]
  | cons x xs ih =>
    obtain ⟨h1, h2⟩ := ih
    rw [leastBy]
    split
    · rename_i k hk
      obtain ⟨m1, m2, m3⟩ := h2 k hk
      split
      · refine ⟨by simp, ?_⟩
        rintro i ⟨⟩
        refine ⟨by simp [m1], ?_, ?_⟩
        · intro j hj; rcases List.mem_cons.mp hj with rfl | hj
          · omega
          · exact m2 j hj
        · intro hp j hj e; rcases List.mem_cons.mp hj with rfl | hj
          · omega
          · exact m3 (List.pairwise_cons.mp hp).2 j hj e
      · refine ⟨by simp, ?_⟩
        rintro i ⟨⟩
        refine ⟨by simp, ?_, ?_⟩
        · intro j hj; rcases List.mem_cons.mp hj with rfl | hj
          · omega
          · have := m2 j hj; omega
        · intro hp j hj e; rcases List.mem_cons.mp hj with rfl | hj
          · omega
          · exact Nat.le_of_lt ((List.pairwise_cons.mp hp).1 j hj)
    · rename_i hk
      have := h1.mp hk; subst this
      refine ⟨by simp, ?_⟩
      rintro i ⟨⟩
      simp

/-! ## Closings -/

/-- No zone enters CLOSING and no closing is recorded. -/
def Htc.noClosing (a b : Htc) : Prop :=
  b.closings = a.closings ∧
    ∀ (k : Nat) (z : Zone), b.zones[k]? = some z → z.state = .closing → ∃ z0, a.zones[k]? = some z0 ∧ z0.state = .closing

/-- R137, R138: at most one zone enters CLOSING, recorded, with its time rules met and the draw within the available power. -/
def Htc.closesWell (a b : Htc) : Prop :=
  a.noClosing b ∨
  ∃ i z, b.zones[i]? = some z ∧ z.state = .closing ∧ b.closings = a.closings.push z.sect b.clock ∧
    a.closings.earliest z.sect ≤ b.clock ∧ b.draw ≤ b.available ∧
    ∀ (k : Nat) (z' : Zone), k ≠ i → b.zones[k]? = some z' → z'.state = .closing →
      ∃ z0, a.zones[k]? = some z0 ∧ z0.state = .closing

theorem Htc.noClosing_refl (a : Htc) : a.noClosing a := ⟨rfl, fun _ z h1 h2 => ⟨z, h1, h2⟩⟩

theorem Htc.noClosing_trans {a b c : Htc} (h1 : a.noClosing b) (h2 : b.noClosing c) : a.noClosing c := by
  refine ⟨h2.1.trans h1.1, fun k z hz hc => ?_⟩
  obtain ⟨z0, a1, a2⟩ := h2.2 k z hz hc
  exact h1.2 k z0 a1 a2

theorem Htc.noClosing_closes {a b c : Htc} (h1 : a.noClosing b) (h2 : b.closesWell c) : a.closesWell c := by
  rcases h2 with h2 | ⟨i, z, e1, e2, e3, e4, e5, e6⟩
  · exact .inl (Htc.noClosing_trans h1 h2)
  · refine .inr ⟨i, z, e1, e2, by rw [e3, h1.1], by rw [← h1.1]; exact e4, e5, fun k z' hk hz hc => ?_⟩
    obtain ⟨z0, a1, a2⟩ := e6 k z' hk hz hc
    exact h1.2 k z0 a1 a2

theorem Htc.noClosing_of_zones {a b : Htc} (h1 : b.closings = a.closings) (h2 : b.zones = a.zones) : a.noClosing b :=
  ⟨h1, fun _ z h3 h4 => ⟨z, h2 ▸ h3, h4⟩⟩

theorem Htc.noClosing_modify {a b : Htc} (h1 : b.closings = a.closings) (i : Nat) (f : Zone → Zone)
    (hf : ∀ z, (f z).state = .closing → z.state = .closing) (h2 : b.zones = a.zones.modify i f) : a.noClosing b := by
  refine ⟨h1, fun k z h3 h4 => ?_⟩
  rw [h2, List.getElem?_modify] at h3
  obtain ⟨z0, hz, rfl⟩ := Option.map_eq_some_iff.mp h3
  refine ⟨z0, hz, ?_⟩
  split at h4
  · exact hf _ h4
  · exact h4

theorem Htc.noClosing_mapIdx {a b : Htc} (h1 : b.closings = a.closings) (f : Nat → Zone → Zone)
    (hf : ∀ i z, (f i z).state = .closing → z.state = .closing) (h2 : b.zones = a.zones.mapIdx f) : a.noClosing b := by
  refine ⟨h1, fun k z h3 h4 => ?_⟩
  rw [h2, List.getElem?_mapIdx] at h3
  obtain ⟨z0, hz, rfl⟩ := Option.map_eq_some_iff.mp h3
  exact ⟨z0, hz, hf _ _ h4⟩

/-- R127: a settled zone is never CLOSING. -/
theorem Htc.settled_ne_closing (h : Htc) (i : Nat) (sect : Section) : h.settled i sect ≠ .closing := by
  unfold Htc.settled
  repeat' split
  all_goals simp

/-! ## Sums over the zones -/

/-- A sum over zones of which one changes rises by no more than that one's measure. -/
theorem sum_modify_le (l : List Zone) (i : Nat) (f : Zone → Zone) (g : Zone → Nat) (w : Zone) (r : Nat)
    (hw : l[i]? = some w) (h : g (f w) ≤ g w + r) : ((l.modify i f).map g).sum ≤ (l.map g).sum + r := by
  induction l generalizing i with
  | nil => simp at hw
  | cons z l ih =>
    cases i with
    | zero => simp at hw; subst hw; simp; omega
    | succ i => simp at hw; have := ih i hw; simp; omega

/-! ## The operations -/

/-- R137, R138: a grant attempt closes at most the one contactor its rules allow. -/
theorem State.attempt_closesWell (s : State) : s.htc.closesWell s.attempt.htc := by
  unfold State.attempt
  split
  · rename_i i hi
    have hg := List.find?_some hi
    cases hz : s.htc.zones[i]? with
    | none => simp [Htc.grantable, hz] at hg
    | some w =>
      simp only [Htc.grantable, hz, Htc.fits, Bool.and_eq_true, decide_eq_true_eq] at hg
      let granted (z : Zone) : Zone :=
        { z with
          state := .closing, grantTime := some s.now, onCount := z.onCount + 1
          confirmTimer := s.startTimer (s.settingNat Setting.confirmTime)
          maxOnTimer := s.startTimer (s.settingNat Setting.maxOn) }
      refine .inr ⟨i, granted w, ?_, rfl, ?_, hg.2, ?_, ?_⟩
      · simp [granted, State.grant, State.modHtc, Htc.modZone, Htc.setArbiter, hz]
      · simp [granted, State.grant, State.modHtc, Htc.modZone, Htc.setArbiter, hz]
      · have h1 : (s.grant i).htc.draw ≤ s.htc.draw + w.rating := by
          simp only [State.grant, State.modHtc, Htc.modZone, Htc.draw]
          exact sum_modify_le _ i _ _ w _ hz (by simp [Zone.closed])
        have h2 : s.htc.available ≤ (s.grant i).htc.available := by
          simp only [Htc.available, State.grant, State.modHtc, Htc.modZone, Htc.weldedRating]
          exact Nat.sub_le_sub_left (sum_modify_le s.htc.zones i granted (fun z => if z.welded then z.rating else 0) w 0 hz
            (by simp [granted, Zone.welded])) _
        have h3 : ((s.grant i).modHtc Htc.setArbiter).htc.draw = (s.grant i).htc.draw := rfl
        have h4 : ((s.grant i).modHtc Htc.setArbiter).htc.available = (s.grant i).htc.available := rfl
        rw [h3, h4]; omega
      · intro k z' hk h1 h2
        refine ⟨z', ?_, h2⟩
        simp [State.grant, State.modHtc, Htc.modZone, Htc.setArbiter, hz, List.getElem?_modify] at h1
        cases h : s.htc.zones[k]? with
        | none => simp [h] at h1
        | some z0 => simp [h] at h1; rw [if_neg (fun h => hk h.symm)] at h1; rw [h1]
  · exact .inl (Htc.noClosing_of_zones rfl rfl)

theorem State.modZone_noClosing (s : State) (i : Nat) (f : Zone → Zone)
    (hf : ∀ z, (f z).state = .closing → z.state = .closing) : s.htc.noClosing (s.modZone i f).htc :=
  Htc.noClosing_modify rfl i f hf rfl

theorem State.runTo_noClosing (s : State) (expiry : Word) : s.htc.noClosing (s.runTo expiry).htc :=
  Htc.noClosing_of_zones rfl rfl

theorem State.leaveZone_noClosing (s : State) (i : Nat) (state : ZoneState) (h : state ≠ .closing) :
    s.htc.noClosing (s.leaveZone i state).htc :=
  Htc.noClosing_modify rfl i (fun z => z.release s.now state) (fun _ hz => absurd hz h) rfl

theorem State.waitZone_noClosing (s : State) (i : Nat) : s.htc.noClosing (s.waitZone i).htc := by
  refine Htc.noClosing_trans (State.leaveZone_noClosing s i .waiting (by decide)) ?_
  refine Htc.noClosing_of_zones ?_ ?_ <;> simp only [State.waitZone, State.modHtc, Htc.join]

theorem State.shed_noClosing (n : Nat) (s : State) : s.htc.noClosing (State.shed n s).htc := by
  induction n generalizing s with
  | zero => exact Htc.noClosing_refl _
  | succ n ih =>
    rw [State.shed]
    split
    · exact Htc.noClosing_refl _
    · split
      · rename_i i _
        refine Htc.noClosing_trans ?_ (ih _)
        have e : (s.shedZone i).htc = (s.waitZone i).htc := by simp [State.shedZone]
        rw [e]
        exact State.waitZone_noClosing s i
      · exact Htc.noClosing_refl _

theorem State.reportLow_noClosing (s : State) : s.htc.noClosing s.reportLow.htc := by
  unfold State.reportLow
  repeat' split
  all_goals first | exact Htc.noClosing_refl _ | (refine Htc.noClosing_of_zones ?_ ?_ <;> simp [State.modHtc])

/-- R132: an entry into FAULT. -/
theorem State.enterFault_closesWell (s : State) (i : Nat) (kind : ZoneFault) :
    s.htc.closesWell (s.enterFault i kind).htc := by
  unfold State.enterFault
  refine Htc.noClosing_closes ?_ (State.attempt_closesWell _)
  refine Htc.noClosing_trans ?_ (State.shed_noClosing _ _)
  refine Htc.noClosing_trans (State.leaveZone_noClosing s i .fault (by decide)) ?_
  refine Htc.noClosing_modify ?_ i (fun z => { z with faultKind := some kind }) (fun z h => h) ?_ <;>
    simp [State.modZone, State.modHtc, Htc.modZone]

/-- R133 to R135: a recompute of the budget. -/
theorem State.recomputeBudget_closesWell (s : State) : s.htc.closesWell s.recomputeBudget.htc := by
  unfold State.recomputeBudget
  dsimp only
  have h0 : s.htc.noClosing (s.modHtc fun h => { h with budget := s.budgetNow }).htc := Htc.noClosing_of_zones rfl rfl
  refine Htc.noClosing_closes h0 ?_
  split
  · exact Htc.noClosing_closes (Htc.noClosing_of_zones rfl rfl) (State.attempt_closesWell _)
  · split
    · split
      · exact .inl (State.reportLow_noClosing _)
      · refine Htc.noClosing_closes ?_ (State.attempt_closesWell _)
        exact Htc.noClosing_trans (State.shed_noClosing _ _) (State.reportLow_noClosing _)
    · exact .inl (Htc.noClosing_refl _)

end Sys2Proof.Machine
end

