-- ==== Sys2Proof/Laws/Link.lean ====
section
/-! SUPPORT. The link scheduler: each request resolved leaves fewer waiting, so the bound on its choices is never met. -/
namespace Sys2Proof.Machine

/-! ## A request leaves -/

/-- A member of a list is erased once. -/
theorem length_erase_mem {α : Type} [BEq α] [LawfulBEq α] {a : α} {l : List α} (h : a ∈ l) :
    (l.erase a).length + 1 = l.length := by
  have := List.length_erase_of_mem h
  have := List.length_pos_of_mem h
  omega

/-- What the scheduler picks waits. -/
theorem Hlc.pick_waiting {h : Hlc} {r : LinkRequest} (hp : h.pick = some r) : r ∈ h.waiting :=
  List.mem_of_find?_eq_some hp

/-- A request that waits leaves fewer waiting. -/
theorem Hlc.remove_load {h : Hlc} {r : LinkRequest} (hr : r ∈ h.waiting) : (h.remove r).load < h.load := by
  have e1 : (h.remove r).housekeeping.length ≤ h.housekeeping.length := List.length_erase_le
  have e2 : (h.remove r).scanner.length ≤ h.scanner.length := List.length_erase_le
  have e3 : (h.remove r).probes.length ≤ h.probes.length := List.length_erase_le
  have e4 : (h.remove r).members.length ≤ h.members.length := by
    unfold Hlc.remove
    dsimp only
    split
    · exact List.length_erase_le
    · exact Nat.le_refl _
  have e5 : (h.remove r).strokes.length ≤ h.strokes.length := by
    unfold Hlc.remove
    dsimp only
    split
    · exact List.length_erase_le
    · exact Nat.le_refl _
  simp only [Hlc.waiting, List.mem_append, List.mem_map] at hr
  unfold Hlc.load
  rcases hr with (((hr | ⟨i, hi, rfl⟩) | ⟨i, hi, rfl⟩) | hr) | hr
  · have : (h.remove r).housekeeping.length + 1 = h.housekeeping.length := length_erase_mem hr
    omega
  · have : (h.remove (.member i)).members.length + 1 = h.members.length := length_erase_mem hi
    omega
  · have : (h.remove (.stroke i)).strokes.length + 1 = h.strokes.length := length_erase_mem hi
    omega
  · have : (h.remove r).scanner.length + 1 = h.scanner.length := length_erase_mem (List.mem_of_mem_take hr)
    omega
  · have : (h.remove r).probes.length + 1 = h.probes.length := length_erase_mem hr
    omega

/-! ## What a resolution does to the requests waiting -/

/-- Nothing is added and a free line stays free. -/
def Hlc.shrinks (a b : Hlc) : Prop := b.load ≤ a.load ∧ (a.line = .free → b.line = .free)

/-- A change of nothing adds nothing. -/
theorem Hlc.shrinks_refl (a : Hlc) : a.shrinks a := ⟨Nat.le_refl _, id⟩

/-- Nothing is added by two such changes. -/
theorem Hlc.shrinks_trans {a b c : Hlc} (h1 : a.shrinks b) (h2 : b.shrinks c) : a.shrinks c :=
  ⟨Nat.le_trans h2.1 h1.1, fun h => h2.2 (h1.2 h)⟩

/-- Taking back the chosen request adds nothing. -/
theorem Hlc.unchoose_shrinks (h : Hlc) (p : LinkRequest → Bool) : h.shrinks (h.unchoose p) := by
  unfold Hlc.unchoose
  split
  · split
    · exact ⟨Nat.le_refl _, fun _ => rfl⟩
    · exact h.shrinks_refl
  · exact h.shrinks_refl

/-- A head dropped loses requests and gains none. -/
theorem State.dropHead_shrinks (s : State) (i : Nat) (keepProbe : Bool) : s.hlc.shrinks (s.dropHead i keepProbe).hlc := by
  have kept : ∀ s : State, ∀ h : Hlc, s.hlc = h → s.hlc.shrinks ({ h with
      members := h.members.filter (· != i), strokes := h.strokes.filter (· != i)
      scanner := h.scanner.filter fun r => !LinkRequest.ofHead i r
      probes := if keepProbe then h.probes else h.probes.filter (· != .headProbe i) } : Hlc) := by
    intro s h hs
    subst hs
    refine ⟨?_, id⟩
    have e1 := List.length_filter_le (· != i) s.hlc.members
    have e2 := List.length_filter_le (· != i) s.hlc.strokes
    have e3 := List.length_filter_le (fun r => !LinkRequest.ofHead i r) s.hlc.scanner
    have e4 := List.length_filter_le (· != LinkRequest.headProbe i) s.hlc.probes
    simp only [Hlc.load]
    split <;> omega
  unfold State.dropHead
  dsimp only
  split <;>
    (simp only [State.modHlc]
     refine Hlc.shrinks_trans (kept s _ ?_) (Hlc.unchoose_shrinks _ _)
     simp)

/-- A change of state announced adds no request. -/
theorem State.announceHead_shrinks (s : State) (i : Nat) (old : HeadState) : s.hlc.shrinks (s.announceHead i old).hlc := by
  unfold State.announceHead
  split
  · split
    · exact s.hlc.shrinks_refl
    · dsimp only
      split
      · have := State.dropHead_shrinks (s.handAll false (Head.stateHand ‹Head› i)) i (‹Head›.state == .dropped)
        simpa using this
      · simpa using s.hlc.shrinks_refl
  · exact s.hlc.shrinks_refl

/-- A head's record set adds no request. -/
theorem State.setHead_shrinks (s : State) (i counter : Nat) (state : HeadState) (note : Option NoteKind) (value : Nat) :
    s.hlc.shrinks (s.setHead i counter state note value).hlc := by
  unfold State.setHead
  dsimp only
  split <;> (simp only [State.postNote_frame, State.modHlc]; exact ⟨Nat.le_refl _, id⟩)

/-- A request missed adds none. -/
theorem State.miss_shrinks (s : State) (r : LinkRequest) (i : Nat) : s.hlc.shrinks (s.miss r i).hlc := by
  unfold State.miss
  split
  · exact s.hlc.shrinks_refl
  · dsimp only
    refine Hlc.shrinks_trans ?_ (State.announceHead_shrinks _ _ _)
    have h := State.setHead_shrinks s i (chargedCounter ‹Head›.counter .timeout)
      (chargedState ‹Head›.state (chargedCounter ‹Head›.counter .timeout)).1
      (chargedState ‹Head›.state (chargedCounter ‹Head›.counter .timeout)).2 (chargedCounter ‹Head›.counter .timeout)
    split <;> simpa [State.chargeHead] using h

/-- R92: a request resolved without the line adds none. -/
theorem State.resolve_shrinks {s t : State} {r : LinkRequest} (h : s.resolve r = some t) : s.hlc.shrinks t.hlc := by
  unfold State.resolve at h
  repeat' split at h
  all_goals first
    | (cases h; done)
    | (cases h; exact State.miss_shrinks _ _ _)
    | (cases h; simpa using s.hlc.shrinks_refl)

/-! ## The scheduler -/

/-- R92: any bound above the number of requests waiting gives the same choice. -/
theorem State.choose_enough (n : Nat) : ∀ (m : Nat) (s : State), s.hlc.load < n → s.hlc.load < m →
    State.choose n s = State.choose m s := by
  induction n with
  | zero => intro m s h; omega
  | succ n ih =>
    intro m s hn hm
    obtain ⟨m, rfl⟩ : ∃ k, m = k + 1 := ⟨m - 1, by omega⟩
    rw [State.choose, State.choose]
    split
    · rfl
    · rename_i r hp
      have hl := Hlc.remove_load (Hlc.pick_waiting hp)
      dsimp only
      split
      · rename_i t ht
        have hs : t.hlc.load ≤ (s.hlc.remove r).load := (State.resolve_shrinks ht).1
        exact ih m t (by omega) (by omega)
      · rfl

/-- R92: a request resolved without the line makes way for the next one. -/
theorem State.schedule_resolved {s t : State} {r : LinkRequest} (hl : s.hlc.line = .free) (hp : s.hlc.pick = some r)
    (ht : (s.modHlc fun h => h.remove r).resolve r = some t) : s.schedule = t.schedule := by
  have hs := State.resolve_shrinks ht
  have hd := Hlc.remove_load (Hlc.pick_waiting hp)
  have hf : t.hlc.line = .free := hs.2 hl
  have hb : t.hlc.load ≤ (s.hlc.remove r).load := hs.1
  rw [State.schedule, if_pos hl, State.schedule, if_pos hf, State.choose, hp]
  dsimp only
  rw [ht]
  exact congrArg State.settleProbe (State.choose_enough _ _ t (by omega) (by omega))

/-- R92: a request that needs the line waits out the quiet interval. -/
theorem State.schedule_chosen {s : State} {r : LinkRequest} (hl : s.hlc.line = .free) (hp : s.hlc.pick = some r)
    (ht : (s.modHlc fun h => h.remove r).resolve r = none) :
    s.schedule = (s.modHlc fun h => { h.remove r with line := .quiet r }).settleProbe := by
  rw [State.schedule, if_pos hl, State.choose, hp]
  dsimp only
  rw [ht]
  rfl

/-- R92: with the line taken or nothing to choose only the probe timer is settled. -/
theorem State.schedule_idle {s : State} (h : s.hlc.line ≠ .free ∨ s.hlc.pick = none) : s.schedule = s.settleProbe := by
  unfold State.schedule
  split
  · rename_i hl
    rw [State.choose, h.resolve_left (fun hn => hn hl)]
  · rfl

end Sys2Proof.Machine
end

