-- ==== Sys2Proof/Laws/Memory.lean ====
section
/-! SUPPORT. The shared region: what a read gives after a write, and that every write keeps the canonical form. -/
namespace Sys2Proof.Machine

/-- Every listed address lies above a bound. -/
def Memory.above (x : Nat) (m : Memory) : Prop := ∀ c ∈ m, x < c.1

theorem Memory.wf_nil : Memory.wf [] = true := rfl

theorem Memory.wf_cons (a : Nat) (b : Byte) (m : Memory) :
    Memory.wf ((a, b) :: m) = true ↔ b ≠ Memory.unlisted ∧ Memory.above a m ∧ Memory.wf m = true := by
  induction m generalizing a b with
  | nil => simp [Memory.wf, Memory.above]
  | cons c m ih =>
    obtain ⟨a', b'⟩ := c
    rw [Memory.wf, Bool.and_eq_true, Bool.and_eq_true, decide_eq_true_eq, decide_eq_true_eq]
    constructor
    · rintro ⟨⟨h1, h2⟩, h3⟩
      refine ⟨h1, ?_, h3⟩
      intro c hc
      rcases List.mem_cons.1 hc with rfl | hc
      · exact h2
      · exact Nat.lt_trans h2 (((ih a' b').1 h3).2.1 c hc)
    · rintro ⟨h1, h2, h3⟩
      exact ⟨⟨h1, h2 (a', b') (List.mem_cons_self ..)⟩, h3⟩

theorem Memory.read_above (m : Memory) (x : Nat) (h : Memory.above x m) : m.read x = Memory.unlisted := by
  induction m with
  | nil => rfl
  | cons c m ih =>
    obtain ⟨a, b⟩ := c
    have h1 : x < a := h (a, b) (List.mem_cons_self ..)
    rw [Memory.read, if_neg (Nat.ne_of_lt h1)]
    exact ih fun c hc => h c (List.mem_cons_of_mem _ hc)

theorem Memory.mem_write (m : Memory) (x : Nat) (v : Byte) (d : Host.Cell) (h : d ∈ m.write x v) :
    d = (x, v) ∨ d ∈ m := by
  induction m with
  | nil =>
    unfold Memory.write at h
    split at h
    · exact Or.inr h
    · exact Or.inl (List.mem_singleton.1 h)
  | cons c m ih =>
    obtain ⟨a, b⟩ := c
    unfold Memory.write at h
    split at h
    · split at h
      · exact Or.inr h
      · exact List.mem_cons.1 h
    · split at h
      · split at h
        · exact Or.inr (List.mem_cons_of_mem _ h)
        · exact (List.mem_cons.1 h).imp id (List.mem_cons_of_mem _)
      · rcases List.mem_cons.1 h with h | h
        · exact Or.inr (h ▸ List.mem_cons_self ..)
        · exact (ih h).imp id (List.mem_cons_of_mem _)

theorem Memory.above_write (m : Memory) (y x : Nat) (v : Byte) (h : Memory.above y m) (hx : y < x) :
    Memory.above y (m.write x v) := fun d hd => by
  rcases Memory.mem_write m x v d hd with rfl | hd
  · exact hx
  · exact h d hd

/-- Writing one byte keeps the canonical form. -/
theorem Memory.write_wf (m : Memory) (x : Nat) (v : Byte) (h : m.wf = true) : (m.write x v).wf = true := by
  induction m with
  | nil =>
    unfold Memory.write
    split
    · rfl
    · rename_i hv; simp [Memory.wf, hv]
  | cons c m ih =>
    obtain ⟨a, b⟩ := c
    obtain ⟨hb, ha, hm⟩ := (Memory.wf_cons a b m).1 h
    unfold Memory.write
    split
    · rename_i hx
      split
      · exact h
      · rename_i hv
        refine (Memory.wf_cons x v _).2 ⟨hv, ?_, h⟩
        intro d hd
        rcases List.mem_cons.1 hd with rfl | hd
        · exact hx
        · exact Nat.lt_trans hx (ha d hd)
    · split
      · rename_i hxa
        subst hxa
        split
        · exact hm
        · rename_i hv; exact (Memory.wf_cons x v m).2 ⟨hv, ha, hm⟩
      · rename_i h1 h2
        exact (Memory.wf_cons a b _).2 ⟨hb, Memory.above_write m a x v ha (by omega), ih hm⟩

/-- A byte written reads as written, and every other byte as before. -/
theorem Memory.read_write (m : Memory) (x : Nat) (v : Byte) (y : Nat) (h : m.wf = true) :
    (m.write x v).read y = if y = x then v else m.read y := by
  induction m with
  | nil =>
    unfold Memory.write
    split <;> rename_i hv <;> by_cases hy : y = x <;> simp [Memory.read, hv, hy]
  | cons c m ih =>
    obtain ⟨a, b⟩ := c
    obtain ⟨hb, ha, hm⟩ := (Memory.wf_cons a b m).1 h
    unfold Memory.write
    split
    · rename_i hx
      have hu : Memory.read ((a, b) :: m) x = Memory.unlisted :=
        Memory.read_above _ _ fun d hd => by
          rcases List.mem_cons.1 hd with rfl | hd
          · exact hx
          · exact Nat.lt_trans hx (ha d hd)
      split
      · rename_i hv
        by_cases hy : y = x
        · rw [if_pos hy, hy, hu, hv]
        · rw [if_neg hy]
      · rw [Memory.read]
    · split
      · rename_i hxa
        subst hxa
        split
        · rename_i hv
          by_cases hy : y = x
          · rw [if_pos hy, hy, Memory.read_above m x ha, hv]
          · rw [if_neg hy, Memory.read, if_neg hy]
        · by_cases hy : y = x <;> simp [Memory.read, hy]
      · rename_i h1 h2
        rw [Memory.read, Memory.read, ih hm]
        by_cases hy : y = a
        · rw [if_pos hy, if_pos hy, if_neg (by omega)]
        · rw [if_neg hy, if_neg hy]

/-- Writing bytes keeps the canonical form. -/
theorem Memory.writeBytes_wf (m : Memory) (a : Nat) (bs : List Byte) (h : m.wf = true) :
    (m.writeBytes a bs).wf = true := by
  induction bs generalizing m a with
  | nil => exact h
  | cons b bs ih => exact ih _ _ (Memory.write_wf m a b h)

/-- A byte outside the bytes written reads as before. -/
theorem Memory.read_writeBytes_outside (m : Memory) (a : Nat) (bs : List Byte) (y : Nat) (h : m.wf = true)
    (hy : y < a ∨ a + bs.length ≤ y) : (m.writeBytes a bs).read y = m.read y := by
  induction bs generalizing m a with
  | nil => rfl
  | cons b bs ih =>
    rw [List.length_cons] at hy
    rw [Memory.writeBytes, ih _ _ (Memory.write_wf m a b h) (by omega), Memory.read_write _ _ _ _ h, if_neg (by omega)]

/-- A byte written reads as written. -/
theorem Memory.read_writeBytes_inside (m : Memory) (a : Nat) (bs : List Byte) (i : Nat) (h : m.wf = true)
    (hi : i < bs.length) : (m.writeBytes a bs).read (a + i) = bs[i] := by
  induction bs generalizing m a i with
  | nil => exact absurd hi (by simp)
  | cons b bs ih =>
    have hw := Memory.write_wf m a b h
    cases i with
    | zero =>
      rw [Memory.writeBytes, Memory.read_writeBytes_outside _ _ _ _ hw (by omega), Memory.read_write _ _ _ _ h]
      simp
    | succ i =>
      have := ih (m.write a b) (a + 1) i hw (by simpa using hi)
      rw [Memory.writeBytes, show a + (i + 1) = a + 1 + i by omega, this]
      simp

/-- The host's writes keep the canonical form. -/
theorem State.hostWrite_wf (s : State) (host : HostWrites) (h : s.mem.wf = true) : (s.hostWrite host).mem.wf = true := by
  suffices ∀ (l : HostWrites) (m : Memory), m.wf = true →
      (l.foldl (fun m c => m.write (s.address c.1) c.2) m).wf = true from this host s.mem h
  intro l
  induction l with
  | nil => exact fun _ hm => hm
  | cons c l ih => exact fun m hm => ih _ (Memory.write_wf m _ _ hm)

/-- A write that becomes visible keeps the canonical form. -/
theorem PortWrite.land_wf (m : Memory) (w : PortWrite) (h : m.wf = true) : (PortWrite.land m w).wf = true := by
  suffices ∀ (l : List (Nat × List Byte)) (m : Memory), m.wf = true →
      (l.foldl (fun m x => m.writeBytes x.1 x.2) m).wf = true from this w.pieces m h
  intro l
  induction l with
  | nil => exact fun _ hm => hm
  | cons x l ih => exact fun m hm => ih _ (Memory.writeBytes_wf m _ _ hm)

/-- Writes that become visible keep the canonical form. -/
theorem foldl_land_wf (l : List PortWrite) (m : Memory) (h : m.wf = true) : (l.foldl PortWrite.land m).wf = true := by
  induction l generalizing m with
  | nil => exact h
  | cons w l ih => exact ih _ (PortWrite.land_wf m w h)

/-- The writes that become visible keep the canonical form. -/
theorem State.landWrites_wf (s : State) (n : Nat) (h : s.mem.wf = true) : (s.landWrites n).mem.wf = true :=
  foldl_land_wf _ _ h

/-- A completed write keeps the canonical form. -/
theorem State.writeDone_wf (s : State) (user : PortUser) (h : s.mem.wf = true) : (s.writeDone user).mem.wf = true :=
  s.landWrites_wf _ h

/-- The landing of every write issued keeps the canonical form. -/
theorem State.landAll_wf (s : State) (h : s.mem.wf = true) : s.landAll.mem.wf = true := s.landWrites_wf _ h

/-- A byte outside the pieces of a write reads as before it. -/
theorem PortWrite.read_land_outside (m : Memory) (w : PortWrite) (y : Nat) (h : m.wf = true)
    (hy : ∀ x ∈ w.pieces, y < x.1 ∨ x.1 + x.2.length ≤ y) : (PortWrite.land m w).read y = m.read y := by
  suffices ∀ (l : List (Nat × List Byte)) (m : Memory), m.wf = true →
      (∀ x ∈ l, y < x.1 ∨ x.1 + x.2.length ≤ y) →
      (l.foldl (fun m x => m.writeBytes x.1 x.2) m).read y = m.read y from this w.pieces m h hy
  intro l
  induction l with
  | nil => exact fun _ _ _ => rfl
  | cons x l ih =>
    intro m hm hl
    rw [List.foldl_cons, ih _ (Memory.writeBytes_wf m _ _ hm) fun z hz => hl z (List.mem_cons_of_mem _ hz),
      Memory.read_writeBytes_outside _ _ _ _ hm (hl x (List.mem_cons_self ..))]

end Sys2Proof.Machine
end

