-- ==== Sys2Proof/Laws/Ops.lean ====
section
/-! SUPPORT. What each shared operation can do, said once: takes, orders, notes, rewrites, answers, time. -/
namespace Sys2Proof.Machine

/-! ## Commands -/

/-- Every command ends in a next state: none faults and none is refused. -/
theorem exec_next (c : Instr) (s : State) : ∃ t, exec c s = .next t := by cases c <;> exact ⟨_, rfl⟩

/-! ## Hand-offs -/

/-- What is taken from a channel is the first hand-off of that channel that waited; where a transition into PAVE made it, no
PAVE entry stood before it; and the rest waits on in its order. -/
theorem takeFrom_spec (ch : Handoff → Bool) (pave : Bool) (l : List Waiting) (h : Handoff) (rest : List Waiting)
    (hl : takeFrom ch pave l = some (h, rest)) :
    ch h = true ∧ ∃ pre w post, l = pre ++ w :: post ∧ rest = pre ++ post ∧ w.handoff = h ∧
      (∀ x ∈ pre, ch x.handoff = false) ∧
      (w.afterPave = true → pave = false ∧ ∀ x ∈ pre, x.handoff ≠ .paveEntry) := by
  induction l generalizing pave rest with
  | nil => simp [takeFrom] at hl
  | cons w l ih =>
    unfold takeFrom at hl
    by_cases hc : ch w.handoff = true
    · rw [if_pos hc] at hl
      split at hl
      · cases hl
      · rename_i hn
        cases hl
        exact ⟨hc, [], w, _, rfl, rfl, rfl, by simp, fun ha => ⟨by simpa [ha] using hn, by simp⟩⟩
    · rw [if_neg hc] at hl
      split at hl
      · rename_i h' rest' he
        cases hl
        obtain ⟨h1, pre, w', post, hl', hr, hw, hp, hv⟩ := ih _ _ he
        refine ⟨h1, w :: pre, w', post, by simp [hl'], by simp [hr], hw, ?_, fun ha => ?_⟩
        · intro x hx
          rcases List.mem_cons.1 hx with rfl | hx
          · simpa using hc
          · exact hp x hx
        · obtain ⟨hb, hq⟩ := hv ha
          rw [Bool.or_eq_false_iff] at hb
          refine ⟨hb.1, fun x hx => ?_⟩
          rcases List.mem_cons.1 hx with rfl | hx
          · intro he; rw [he] at hb; exact absurd hb.2 (by decide)
          · exact hq x hx
      · cases hl

/-- A take changes the hand-offs alone, by the one taken. -/
theorem State.take_spec {s t : State} {ch : Handoff → Bool} {h : Handoff} (ht : s.take ch = some (h, t)) :
    ch h = true ∧ t = { s with inbox := t.inbox } ∧
      ∃ pre w post, s.inbox = pre ++ w :: post ∧ t.inbox = pre ++ post ∧ w.handoff = h ∧
        ∀ x ∈ pre, ch x.handoff = false := by
  unfold State.take at ht
  cases hl : takeFrom ch false s.inbox with
  | none => simp [hl] at ht
  | some p =>
    rw [hl] at ht
    cases ht
    obtain ⟨h1, pre, w, post, h2, h3, h4, h5, _⟩ := takeFrom_spec ch false s.inbox p.1 p.2 hl
    exact ⟨h1, rfl, pre, w, post, h2, h3, h4, h5⟩

/-- A take keeps every block. -/
theorem State.take_frame {s t : State} {ch : Handoff → Bool} {h : Handoff} (ht : s.take ch = some (h, t)) :
    t.mem = s.mem ∧ t.port = s.port ∧ t.rif = s.rif ∧ t.bdr = s.bdr ∧ t.sps = s.sps ∧ t.msc = s.msc ∧ t.trm = s.trm ∧
      t.hlc = s.hlc ∧ t.geu = s.geu ∧ t.lvc = s.lvc ∧ t.htc = s.htc ∧ t.fdc = s.fdc ∧ t.mru = s.mru ∧ t.pending = s.pending := by
  obtain ⟨_, h2, _⟩ := State.take_spec ht
  rw [h2]; simp

/-- A hand-off at the front of the inbox is taken by its channel. -/
theorem State.take_front (s : State) (w : Waiting) (rest : List Waiting) (ch : Handoff → Bool)
    (hs : s.inbox = w :: rest) (hc : ch w.handoff = true) :
    s.take ch = some (w.handoff, { s with inbox := rest }) := by
  simp [State.take, hs, takeFrom, hc]

/-- What is taken from a channel, read off the inbox. -/
theorem takeFrom_of_split (ch : Handoff → Bool) (pave : Bool) (pre : List Waiting) (w : Waiting) (post : List Waiting)
    (hw : ch w.handoff = true) (hp : ∀ x ∈ pre, ch x.handoff = false)
    (hv : w.afterPave = true → pave = false ∧ ∀ x ∈ pre, x.handoff ≠ .paveEntry) :
    takeFrom ch pave (pre ++ w :: post) = some (w.handoff, pre ++ post) := by
  induction pre generalizing pave with
  | nil =>
    rw [List.nil_append, takeFrom, if_pos hw, if_neg]
    · rfl
    · intro h
      rw [Bool.and_eq_true] at h
      rw [(hv h.2).1] at h
      exact Bool.false_ne_true h.1
  | cons x pre ih =>
    have hx := hp x (List.mem_cons_self ..)
    have := ih (pave || x.handoff.isPaveEntry) (fun y hy => hp y (List.mem_cons_of_mem _ hy)) fun h =>
      ⟨by
        have h1 := (hv h).2 x (List.mem_cons_self ..)
        rw [(hv h).1]
        cases hh : x.handoff <;> simp_all [Handoff.isPaveEntry],
       fun y hy => (hv h).2 y (List.mem_cons_of_mem _ hy)⟩
    rw [List.cons_append, takeFrom, if_neg (by simp [hx]), this]
    rfl

/-- The first waiting hand-off of a channel is the one taken. -/
theorem State.FirstWaiting.take {s : State} {channel : Handoff → Prop} {h : Handoff} {rest : List Waiting}
    (hf : s.FirstWaiting channel h rest) (ch : Handoff → Bool) (hc : ∀ x, ch x = true ↔ channel x) :
    s.take ch = some (h, { s with inbox := rest }) := by
  obtain ⟨pre, p, post, hs, hr, hh, hpre, hp⟩ := hf
  unfold State.take
  rw [hs, takeFrom_of_split ch false pre ⟨p, h⟩ post ((hc h).2 hh) (fun x hx => by
    have := hpre x hx
    cases hb : ch x.handoff
    · rfl
    · exact absurd ((hc _).1 hb) this) (fun hv => ⟨rfl, hp hv⟩), hr]
  rfl

/-- The hand-off taken is the first of its channel and may be taken now. -/
theorem State.take_firstWaiting {s t : State} {ch : Handoff → Bool} {h : Handoff} (ht : s.take ch = some (h, t)) :
    s.FirstWaiting (fun x => ch x = true) h t.inbox := by
  unfold State.take at ht
  cases hl : takeFrom ch false s.inbox with
  | none => simp [hl] at ht
  | some p =>
    rw [hl] at ht
    cases ht
    obtain ⟨h1, pre, w, post, h2, h3, h4, h5, h6⟩ := takeFrom_spec ch false s.inbox p.1 p.2 hl
    exact ⟨pre, w.afterPave, post, by rw [← h4]; exact h2, h3, h1, fun x hx => by simp [h5 x hx], fun ha => (h6 ha).2⟩

/-! ## The modes a SET_FEED takes -/

@[simp] theorem Handoff.feedOf_iff (c : Fin 4) (h : Handoff) : Handoff.feedOf c h = true ↔ ∃ mode, h = .feedMode c mode := by
  cases h <;> simp [Handoff.feedOf]

/-- R143: the first mode that waits for a channel is taken as FEED_MODE_HANDOFF takes it, and the others after it. -/
theorem State.takeFeedModes_first {s : State} {c : Fin 4} {mode : FeedMode} {rest : List Waiting}
    (hf : s.FirstWaiting (fun h => ∃ x, h = .feedMode c x) (.feedMode c mode) rest) (n : Nat) :
    s.takeFeedModes c (n + 1) = (State.takeFeedMode { s with inbox := rest } c mode).takeFeedModes c n := by
  rw [State.takeFeedModes, hf.take _ (Handoff.feedOf_iff c)]

/-- With no mode of the channel that may be taken, nothing changes. -/
theorem State.takeFeedModes_none {s : State} {c : Fin 4}
    (hf : ∀ mode rest, ¬ s.FirstWaiting (fun h => ∃ x, h = .feedMode c x) (.feedMode c mode) rest) (n : Nat) :
    s.takeFeedModes c n = s := by
  cases n with
  | zero => rfl
  | succ n =>
    unfold State.takeFeedModes
    split
    · rename_i ht
      have hw := State.take_firstWaiting ht
      simp only [Handoff.feedOf_iff] at hw
      obtain ⟨_, _, _, _, _, ⟨_, hx⟩, _⟩ := id hw
      cases hx
      exact absurd hw (hf _ _)
    · rfl

/-- Every waiting mode of a channel taken in turn changes the feed records and the hand-offs alone. -/
@[simp] theorem State.takeFeedModes_frame (s : State) (c : Fin 4) (n : Nat) :
    (s.takeFeedModes c n).mem = s.mem ∧ (s.takeFeedModes c n).port = s.port ∧ (s.takeFeedModes c n).rif = s.rif ∧ (s.takeFeedModes c n).bdr = s.bdr ∧ (s.takeFeedModes c n).sps = s.sps ∧ (s.takeFeedModes c n).msc = s.msc ∧ (s.takeFeedModes c n).trm = s.trm ∧ (s.takeFeedModes c n).hlc = s.hlc ∧ (s.takeFeedModes c n).geu = s.geu ∧ (s.takeFeedModes c n).lvc = s.lvc ∧ (s.takeFeedModes c n).htc = s.htc ∧ (s.takeFeedModes c n).mru = s.mru ∧ (s.takeFeedModes c n).pending = s.pending := by
  induction n generalizing s with
  | zero => simp [State.takeFeedModes]
  | succ n ih =>
    unfold State.takeFeedModes
    split
    · rename_i h; have hf := State.take_frame h; simp [ih, hf]
    · simp

/-- R152: storing a manual demand changes the feed records and the hand-offs alone. -/
@[simp] theorem State.storeManual_frame (s : State) (c : Fin 4) (demand : Nat) :
    (s.storeManual c demand).mem = s.mem ∧ (s.storeManual c demand).port = s.port ∧ (s.storeManual c demand).rif = s.rif ∧ (s.storeManual c demand).bdr = s.bdr ∧ (s.storeManual c demand).sps = s.sps ∧ (s.storeManual c demand).msc = s.msc ∧ (s.storeManual c demand).trm = s.trm ∧ (s.storeManual c demand).hlc = s.hlc ∧ (s.storeManual c demand).geu = s.geu ∧ (s.storeManual c demand).lvc = s.lvc ∧ (s.storeManual c demand).htc = s.htc ∧ (s.storeManual c demand).mru = s.mru ∧ (s.storeManual c demand).pending = s.pending := by
  unfold State.storeManual; refine ⟨?_, ?_, ?_, ?_, ?_, ?_, ?_, ?_, ?_, ?_, ?_, ?_, ?_⟩ <;> simp

/-! ## Orders -/

/-- An owner's order is the one in execution, stands with its owner, and is of the owner's kind. -/
theorem State.orderOf_spec {s : State} {k : OrderKind} {o : Order} (h : s.orderOf k = some o) :
    ∃ e, s.bdr.execution = some e ∧ e.order = o ∧ e.phase = .atOwner ∧ OrderKind.ofCode o.kind.toNat = some k := by
  unfold State.orderOf at h
  split at h
  · rename_i e he
    split at h
    · rename_i hp; cases h; exact ⟨e, he, rfl, hp.1, hp.2⟩
    · cases h
  · cases h

/-- A CLEAR_FAULT of a class is a CLEAR_FAULT whose operand B names the class. -/
theorem State.clearFaultOf_spec {s : State} {cls : Nat} {o : Order} (h : s.clearFaultOf cls = some o) :
    s.orderOf .clearFault = some o ∧ o.operandB.toNat = cls := by
  unfold State.clearFaultOf at h
  split at h
  · rename_i x hx
    split at h
    · rename_i hb; cases h; exact ⟨hx, hb⟩
    · cases h
  · cases h

/-- R38: an outcome is issued to the slot of the order in execution, which is then being written. -/
theorem State.issueOutcome_eq {s : State} {e : Execution} (h : s.bdr.execution = some e) (state : SlotState)
    (result : Word) (reason : Reason) (ind : Indicators) :
    s.issueOutcome state result reason ind =
      State.issueSlot
        { s with bdr := { s.bdr with
          op := .outcomeWrite ⟨state, result, ind, reason, s.bdr.chainageSeen, s.rif.runTime⟩
          execution := some { e with indicators := ind, phase := .writing } } }
        e.order.slot ⟨state, result, ind, reason, s.bdr.chainageSeen, s.rif.runTime⟩ := by
  simp only [State.issueOutcome, h]; rfl

/-- R38: a DONE outcome is issued with its fields, and the execution is being written. -/
theorem State.finishDone_bdr {s : State} {e : Execution} (h : s.bdr.execution = some e) (result : Word)
    (limit soft pending : Bool) :
    (s.finishDone result limit soft pending).bdr =
      { s.bdr with
        op := .outcomeWrite
          ⟨.done, result, ⟨limit, soft, s.bdr.lateNow, pending⟩, .none, s.bdr.chainageSeen, s.rif.runTime⟩
        execution := some { e with indicators := ⟨limit, soft, s.bdr.lateNow, pending⟩, phase := .writing } } := by
  rw [State.finishDone, State.issueOutcome_eq h]; rfl

/-- R38: a REFUSED outcome is issued with result 0 and its reason. -/
theorem State.finishRefused_bdr {s : State} {e : Execution} (h : s.bdr.execution = some e) (reason : Reason) :
    (s.finishRefused reason).bdr =
      { s.bdr with
        op := .outcomeWrite
          ⟨.refused, 0, ⟨false, false, s.bdr.lateNow, false⟩, reason, s.bdr.chainageSeen, s.rif.runTime⟩
        execution := some { e with indicators := ⟨false, false, s.bdr.lateNow, false⟩, phase := .writing } } := by
  rw [State.finishRefused, State.issueOutcome_eq h]; rfl

/-! ## The memory port (R24) -/

/-- R24: the writes up to a user's first stand at the front of the port, and the last of them is that user's. -/
theorem portCount_spec (user : PortUser) (p : List PortWrite) :
    portCount user p ≤ p.length ∧
      (0 < portCount user p → ∃ pre w post, p = pre ++ w :: post ∧ w.user = user ∧ portCount user p = pre.length + 1 ∧
        ∀ x ∈ pre, x.user ≠ user) := by
  induction p with
  | nil => exact ⟨Nat.le_refl _, fun h => absurd h (Nat.lt_irrefl 0)⟩
  | cons w p ih =>
    unfold portCount
    split
    · rename_i hw
      exact ⟨by simp, fun _ => ⟨[], w, p, rfl, hw, rfl, by simp⟩⟩
    · rename_i hw
      cases hc : portCount user p with
      | zero => simp
      | succ n =>
        rw [hc] at ih
        obtain ⟨pre, x, post, hp, hx, hn, hpre⟩ := ih.2 (Nat.succ_pos n)
        refine ⟨by simpa using ih.1, fun _ => ⟨w :: pre, x, post, by simp [hp], hx, by simp; omega, ?_⟩⟩
        intro y hy
        rcases List.mem_cons.1 hy with rfl | hy
        · exact hw
        · exact hpre y hy

/-- R24: the only write of a port becomes visible at its completion. -/
theorem State.writeDone_only (s : State) (w : PortWrite) (h : s.port = [w]) :
    s.writeDone w.user = { s with mem := w.land s.mem, port := [] } := by
  simp [State.writeDone, State.landWrites, State.modMem, State.modPort, h, portCount]

/-- R24: a completion of a write that is visible already changes nothing. -/
theorem State.writeDone_visible (s : State) (user : PortUser) (h : ∀ w ∈ s.port, w.user ≠ user) :
    s.writeDone user = s := by
  have : portCount user s.port = 0 := by
    rcases Nat.eq_zero_or_pos (portCount user s.port) with h0 | h0
    · exact h0
    · obtain ⟨pre, w, post, hp, hw, _⟩ := (portCount_spec user s.port).2 h0
      exact absurd hw (h w (by simp [hp]))
  simp [State.writeDone, State.landWrites, State.modMem, State.modPort, this]

/-! ## Notes and rewrites -/

/-- R170: a rewrite is issued, made pending, or, in STOPPED, not made. -/
theorem State.requestRewrite_cases (s : State) :
    (s.rif.runStatus = .stopped ∧ s.requestRewrite = s) ∨
    (s.rif.runStatus ≠ .stopped ∧ (s.rif.summaryWrite.isSome || s.rif.layoutRead) = true ∧
      s.requestRewrite = s.modRif fun r => { r with rewritePending := true }) ∨
    (s.rif.runStatus ≠ .stopped ∧ (s.rif.summaryWrite.isSome || s.rif.layoutRead) = false ∧
      s.requestRewrite = s.issueSummary) := by
  unfold State.requestRewrite
  by_cases hc : s.rif.runStatus = .stopped
  · exact Or.inl ⟨hc, if_pos hc⟩
  · rw [if_neg hc]
    by_cases hw : (s.rif.summaryWrite.isSome || s.rif.layoutRead) = true
    · exact Or.inr (Or.inl ⟨hc, hw, if_pos hw⟩)
    · exact Or.inr (Or.inr ⟨hc, Bool.not_eq_true _ ▸ hw, if_neg hw⟩)

/-- R172: outside a run a note request is discarded. -/
theorem State.postNote_idle (s : State) (k : NoteKind) (i : Nat) (v : Word) (h : s.rif.counting = false) :
    s.postNote k i v = s := by simp [State.postNote, h]

/-- R172: a note request that finds room is queued at the tail with the present run time and chainage. -/
theorem State.postNote_queued (s : State) (k : NoteKind) (i : Nat) (v : Word) (h : s.rif.counting = true)
    (hr : s.rif.noteQueue.length < 16) :
    s.postNote k i v = s.modRif fun r =>
      Rif.startNote { r with noteQueue := r.noteQueue ++ [⟨k, BitVec.ofNat 8 i, v, r.runTime, s.trm.chainage⟩] } := by
  simp [State.postNote, h, hr]

/-- R172: a note request that finds 16 queued is lost. -/
theorem State.postNote_lost (s : State) (k : NoteKind) (i : Nat) (v : Word) (h : s.rif.counting = true)
    (hr : 16 ≤ s.rif.noteQueue.length) :
    s.postNote k i v = (s.modRif fun r => { r with notesLost := r.notesLost + 1 }).requestRewrite := by
  simp [State.postNote, h, Nat.not_lt.2 hr]

/-- A rewrite touches the rewrite's own fields alone. -/
theorem State.requestRewrite_rif (s : State) :
    s.requestRewrite.rif = { s.rif with
      rewriteSequence := s.requestRewrite.rif.rewriteSequence
      summaryWrite := s.requestRewrite.rif.summaryWrite
      rewritePending := s.requestRewrite.rif.rewritePending } := by
  rcases State.requestRewrite_cases s with h | h | h <;> first | rw [h.2] | (rw [h.2.2]; rfl)

theorem State.requestRewrite_noteQueue (s : State) : s.requestRewrite.rif.noteQueue = s.rif.noteQueue := by
  rw [State.requestRewrite_rif]

/-- No note request makes the queue longer than 16. -/
theorem State.postNote_room (s : State) (k : NoteKind) (i : Nat) (v : Word) (h : s.rif.noteQueue.length ≤ 16) :
    (s.postNote k i v).rif.noteQueue.length ≤ 16 := by
  cases hc : s.rif.counting with
  | false => rw [State.postNote_idle _ _ _ _ hc]; exact h
  | true =>
    by_cases hr : s.rif.noteQueue.length < 16
    · rw [State.postNote_queued _ _ _ _ hc hr]
      simp only [State.modRif_rif, Rif.startNote]
      split <;> simp <;> omega
    · rw [State.postNote_lost _ _ _ _ hc (by omega), State.requestRewrite_noteQueue]
      exact h

/-! ## Time -/

/-- Time changes the run time and the closing clock alone. -/
theorem State.advance_spec (s : State) (ms : Nat) :
    s.advance ms =
      { s with
        rif := { s.rif with
          runTime := if s.rif.counting then s.rif.runTime + BitVec.ofNat 32 ms else s.rif.runTime }
        htc := { s.htc with clock := s.htc.clock + ms } } := by
  unfold State.advance
  cases h : s.rif.counting <;> simp [State.modRif, State.modHtc, h]

/-- A timer whose expiry lies less than 2^31 ms ahead is run to its expiry exactly. -/
theorem State.runTo_now (s : State) (expiry : Word) (h : s.rif.counting = true)
    (hd : (expiry - s.rif.runTime).toNat < 2 ^ 31) : (s.runTo expiry).rif.runTime = expiry := by
  have hm : msUntil s.now expiry = (expiry - s.rif.runTime).toNat := if_pos hd
  rw [State.runTo, State.advance_spec, hm]
  simp only [h, if_true, BitVec.ofNat_toNat, BitVec.setWidth_eq]
  bv_omega

/-! ## The board's capacities -/

/-- R37: the outcome history never holds more than 32 entries. -/
theorem pushHistory_length (h : List HistoryEntry) (e : HistoryEntry) (hl : h.length ≤ 32) :
    (pushHistory h e).length ≤ 32 := by simp [pushHistory]; omega

/-- R33: the list is cut in two where the order goes. -/
theorem stageInsert_split (l : List Order) (o : Order) :
    ∃ low high, l = low ++ high ∧ stageInsert l o = low ++ o :: high ∧ ∀ e ∈ low, e.station ≤ o.station := by
  refine ⟨_, _, (List.takeWhile_append_dropWhile (p := fun e : Order => decide (e.station ≤ o.station)) (l := l)).symm,
    rfl, ?_⟩
  intro e he
  induction l with
  | nil => simp at he
  | cons x l ih =>
    rw [List.takeWhile_cons] at he
    split at he
    · rename_i hx
      rcases List.mem_cons.1 he with rfl | he
      · exact of_decide_eq_true hx
      · exact ih he
    · simp at he

/-- R33: insertion adds one entry. -/
theorem stageInsert_length (l : List Order) (o : Order) : (stageInsert l o).length = l.length + 1 := by
  obtain ⟨low, high, hl, hi, _⟩ := stageInsert_split l o
  rw [hi, hl]; simp; omega

/-- R33: the entries are those of the list and the order. -/
theorem mem_stageInsert (l : List Order) (o e : Order) : e ∈ stageInsert l o ↔ e = o ∨ e ∈ l := by
  obtain ⟨low, high, hl, hi, _⟩ := stageInsert_split l o
  rw [hi, hl]
  simp only [List.mem_append, List.mem_cons]
  constructor
  · rintro (h | h | h)
    · exact Or.inr (Or.inl h)
    · exact Or.inl h
    · exact Or.inr (Or.inr h)
  · rintro (h | h | h)
    · exact Or.inr (Or.inl h)
    · exact Or.inl h
    · exact Or.inr (Or.inr h)

end Sys2Proof.Machine
end

