-- ==== Sys2Proof/Laws/PerInstr.lean ====
section
/-! SUPPORT. One fact of every command as syntax: a well-formed command writes no byte outside the shared region. -/
namespace Sys2Proof.Laws.HostWritesBounded

/-- Every write of the host that a well-formed command brings lies in the shared region (00, log 5). -/
def Statement (i : Instr) : Prop := i.wellFormed = true → ∀ c ∈ i.hostWrites, c.1 < regionSize

/-- The first check of Instr.wellFormed says so. -/
theorem of_check (i : Instr) : Statement i := fun h c hc => by
  unfold Instr.wellFormed at h
  rw [Bool.and_eq_true] at h
  exact of_decide_eq_true (List.all_eq_true.1 h.1 c hc)

theorem powerOnReset : Statement .powerOnReset := of_check _
theorem softReset (value : Word) : Statement (.softReset value) := of_check _
theorem runStart : Statement .runStart := of_check _
theorem orderlyStop : Statement .orderlyStop := of_check _
theorem resume : Statement .resume := of_check _
theorem sweep (value : Word) : Statement (.sweep value) := of_check _
theorem regionBaseWrite (value : Word) : Statement (.regionBaseWrite value) := of_check _
theorem attentionClear (value : Word) : Statement (.attentionClear value) := of_check _
theorem attentionEnableWrite (value : Word) : Statement (.attentionEnableWrite value) := of_check _
theorem ignoredRegisterWrite (write : IgnoredWrite) : Statement (.ignoredRegisterWrite write) := of_check _
theorem layoutReadDone (host : HostWrites) : Statement (.layoutReadDone host) := of_check _
theorem startupSlotReadDone (host : HostWrites) : Statement (.startupSlotReadDone host) := of_check _
theorem startupWriteDone : Statement .startupWriteDone := of_check _
theorem stopComplete : Statement .stopComplete := of_check _
theorem noteReadIndexDone (host : HostWrites) : Statement (.noteReadIndexDone host) := of_check _
theorem noteWriteDone : Statement .noteWriteDone := of_check _
theorem summaryWriteDone : Statement .summaryWriteDone := of_check _
theorem haltAsserted : Statement .haltAsserted := of_check _
theorem haltReleased : Statement .haltReleased := of_check _
theorem sweepTimerExpiry : Statement .sweepTimerExpiry := of_check _
theorem slotReadDone (host : HostWrites) : Statement (.slotReadDone host) := of_check _
theorem stagedWriteDone : Statement .stagedWriteDone := of_check _
theorem outcomeWriteDone : Statement .outcomeWriteDone := of_check _
theorem withdrawnWriteDone : Statement .withdrawnWriteDone := of_check _
theorem chainageReportAtBdr : Statement .chainageReportAtBdr := of_check _
theorem runStatusAtBdr : Statement .runStatusAtBdr := of_check _
theorem setState (halt : HaltLevel) : Statement (.setState halt) := of_check _
theorem clearSafe (halt : HaltLevel) : Statement (.clearSafe halt) := of_check _
theorem autoPauseTimerExpiry : Statement .autoPauseTimerExpiry := of_check _
theorem chainageAdvanceAtMsc : Statement .chainageAdvanceAtMsc := of_check _
theorem travelStatusAtMsc : Statement .travelStatusAtMsc := of_check _
theorem referenceStatusAtMsc : Statement .referenceStatusAtMsc := of_check _
theorem runStatusAtMsc (halt : HaltLevel) : Statement (.runStatusAtMsc halt) := of_check _
theorem setSide : Statement .setSide := of_check _
theorem setFeed : Statement .setFeed := of_check _
theorem setValue : Statement .setValue := of_check _
theorem adjustValue : Statement .adjustValue := of_check _
theorem swapValue : Statement .swapValue := of_check _
theorem readValue : Statement .readValue := of_check _
theorem loadPage : Statement .loadPage := of_check _
theorem imageReadDone (host : HostWrites) : Statement (.imageReadDone host) := of_check _
theorem patchPage : Statement .patchPage := of_check _
theorem confirmPage : Statement .confirmPage := of_check _
theorem paveEntryAtSps : Statement .paveEntryAtSps := of_check _
theorem goodFrame (frame : Frame) : Statement (.goodFrame frame) := of_check _
theorem busError : Statement .busError := of_check _
theorem travelTimerExpiry : Statement .travelTimerExpiry := of_check _
theorem rearmBus : Statement .rearmBus := of_check _
theorem setChainage : Statement .setChainage := of_check _
theorem machineStateAtTrm : Statement .machineStateAtTrm := of_check _
theorem runStatusAtTrm : Statement .runStatusAtTrm := of_check _
theorem filterHandoff : Statement .filterHandoff := of_check _
theorem quietIntervalEnd : Statement .quietIntervalEnd := of_check _
theorem characterTimeout : Statement .characterTimeout := of_check _
theorem housekeepingEnd (received : List LinkChar) : Statement (.housekeepingEnd received) := of_check _
theorem junctionProbeEnd (received : List LinkChar) : Statement (.junctionProbeEnd received) := of_check _
theorem headProbeEnd (received : List LinkChar) : Statement (.headProbeEnd received) := of_check _
theorem headTransactionEnd (received : List LinkChar) : Statement (.headTransactionEnd received) := of_check _
theorem roundTimerExpiry : Statement .roundTimerExpiry := of_check _
theorem strokeTimerExpiry : Statement .strokeTimerExpiry := of_check _
theorem probeTimerExpiry : Statement .probeTimerExpiry := of_check _
theorem scannerRequest : Statement .scannerRequest := of_check _
theorem headMapNewlyInForce : Statement .headMapNewlyInForce := of_check _
theorem headMapWithdrawn : Statement .headMapWithdrawn := of_check _
theorem runStatusAtHlc : Statement .runStatusAtHlc := of_check _
theorem modeHandoffAtHlc : Statement .modeHandoffAtHlc := of_check _
theorem clearFaultJunction : Statement .clearFaultJunction := of_check _
theorem clearFaultHead : Statement .clearFaultHead := of_check _
theorem strokeHeadStateChange (side : Side) : Statement (.strokeHeadStateChange side) := of_check _
theorem strokePollHandoff (side : Side) : Statement (.strokePollHandoff side) := of_check _
theorem headTableRebuildAtGeu : Statement .headTableRebuildAtGeu := of_check _
theorem geometryPageHandoff : Statement .geometryPageHandoff := of_check _
theorem liveStrokeHandoff : Statement .liveStrokeHandoff := of_check _
theorem roundMemberDelivery : Statement .roundMemberDelivery := of_check _
theorem sideModeHandoff (side : Side) : Statement (.sideModeHandoff side) := of_check _
theorem pulseEnd (side : Side) : Statement (.pulseEnd side) := of_check _
theorem headTableRebuildAtLvc : Statement .headTableRebuildAtLvc := of_check _
theorem headStateChangeAtLvc : Statement .headStateChangeAtLvc := of_check _
theorem capture : Statement .capture := of_check _
theorem jog : Statement .jog := of_check _
theorem zoneSample (zone : Fin 24) (temperature : Int) (current : Nat) : Statement (.zoneSample zone temperature current) := of_check _
theorem confirmTimerExpiry (zone : Fin 24) (current : Nat) : Statement (.confirmTimerExpiry zone current) := of_check _
theorem maxOnExpiry (zone : Fin 24) : Statement (.maxOnExpiry zone) := of_check _
theorem arbiterTimerExpiry : Statement .arbiterTimerExpiry := of_check _
theorem reportAgeExpiry : Statement .reportAgeExpiry := of_check _
theorem generatorReport : Statement .generatorReport := of_check _
theorem generatorAbsence : Statement .generatorAbsence := of_check _
theorem budgetSettingHandoff : Statement .budgetSettingHandoff := of_check _
theorem heatingLevelHandoff : Statement .heatingLevelHandoff := of_check _
theorem geometryAtHtc : Statement .geometryAtHtc := of_check _
theorem zoneMapNewlyInForce : Statement .zoneMapNewlyInForce := of_check _
theorem zoneMapWithdrawn : Statement .zoneMapWithdrawn := of_check _
theorem runStatusAtHtc : Statement .runStatusAtHtc := of_check _
theorem setZone : Statement .setZone := of_check _
theorem clearFaultZone : Statement .clearFaultZone := of_check _
theorem feedModeHandoff (channel : Fin 4) : Statement (.feedModeHandoff channel) := of_check _
theorem machineStateAtFdc : Statement .machineStateAtFdc := of_check _
theorem sensePeriodExpiry (channel : Fin 4) : Statement (.sensePeriodExpiry channel) := of_check _
theorem onTimeEnd (channel : Fin 4) (sample : Nat) : Statement (.onTimeEnd channel sample) := of_check _
theorem graceExpiry (channel : Fin 4) : Statement (.graceExpiry channel) := of_check _
theorem stallExpiry (channel : Fin 4) : Statement (.stallExpiry channel) := of_check _
theorem speedPulse (channel : Fin 4) : Statement (.speedPulse channel) := of_check _
theorem speedHandoff : Statement .speedHandoff := of_check _
theorem geometryAtFdc : Statement .geometryAtFdc := of_check _
theorem clearFaultChannel : Statement .clearFaultChannel := of_check _
theorem pauseStartAtMru : Statement .pauseStartAtMru := of_check _
theorem pauseEndAtMru : Statement .pauseEndAtMru := of_check _
theorem recordsModeHandoff : Statement .recordsModeHandoff := of_check _
theorem chainageAdvanceAtMru : Statement .chainageAdvanceAtMru := of_check _
theorem travelStatusAtMru : Statement .travelStatusAtMru := of_check _
theorem fallbackTimerExpiry : Statement .fallbackTimerExpiry := of_check _
theorem consoleMarkAtMru : Statement .consoleMarkAtMru := of_check _
theorem geometryAtMru : Statement .geometryAtMru := of_check _
theorem scannerResult : Statement .scannerResult := of_check _
theorem scannerStateAtMru : Statement .scannerStateAtMru := of_check _
theorem exposureTimerExpiry : Statement .exposureTimerExpiry := of_check _
theorem referenceTimerExpiry : Statement .referenceTimerExpiry := of_check _
theorem cycleTimerExpiry : Statement .cycleTimerExpiry := of_check _
theorem sweepExpiryAtMru : Statement .sweepExpiryAtMru := of_check _
theorem runStatusAtMru : Statement .runStatusAtMru := of_check _
theorem pageSearchReadDone (host : HostWrites) : Statement (.pageSearchReadDone host) := of_check _
theorem entryWriteDone : Statement .entryWriteDone := of_check _
theorem pageCloseDone : Statement .pageCloseDone := of_check _
theorem mark : Statement .mark := of_check _
theorem flushRecords : Statement .flushRecords := of_check _
theorem withdraw : Statement .withdraw := of_check _

end Sys2Proof.Laws.HostWritesBounded
end

