-- ==== Sys2Proof/Laws/Records.lean ====
section
/-! SUPPORT. The order of the records (R155, R164): what each operation of the Mat Record Unit does to it. -/
namespace Sys2Proof.Machine

/-! ## The pending GAP of a records period (R160, R164) -/

theorem periodLeft_none {q : List QueueItem} (h : ∀ left, .closePast left ∉ q) : periodLeft q = none := by
  induction q with
  | nil => rfl
  | cons i q ih =>
    have ih := ih fun left hl => h left (List.mem_cons_of_mem _ hl)
    cases i with
    | closePast left => exact absurd (List.mem_cons_self ..) (h left)
    | _ => simpa [periodLeft] using ih

theorem periodLeft_split {pre rest : List QueueItem} {left : PeriodEnd} (h : ∀ l, .closePast l ∉ pre) :
    periodLeft (pre ++ .closePast left :: rest) = some left := by
  induction pre with
  | nil => rfl
  | cons i pre ih =>
    have ih := ih fun l hl => h l (List.mem_cons_of_mem _ hl)
    cases i with
    | closePast l => exact absurd (List.mem_cons_self ..) (h l)
    | _ => simpa [periodLeft] using ih

theorem setPeriodGap_split {pre rest : List QueueItem} {left : PeriodEnd} (gap : Option PendingGap)
    (h : ∀ l, .closePast l ∉ pre) :
    setPeriodGap gap (pre ++ .closePast left :: rest) = pre ++ .closePast { left with gap := gap } :: rest := by
  induction pre with
  | nil => rfl
  | cons i pre ih =>
    have ih := ih fun l hl => h l (List.mem_cons_of_mem _ hl)
    cases i with
    | closePast l => exact absurd (List.mem_cons_self ..) (h l)
    | _ => simpa [setPeriodGap] using ih

theorem fromLine_none {q : List QueueItem} (h : .linePlace ∉ q) : fromLine q = [] := by
  simp only [fromLine, List.dropWhile_eq_nil_iff, decide_eq_true_eq]
  rintro x hx rfl
  exact h hx

theorem fromLine_split {pre post : List QueueItem} (h : .linePlace ∉ pre) :
    fromLine (pre ++ .linePlace :: post) = .linePlace :: post ∧
    (pre ++ .linePlace :: post).takeWhile (· ≠ .linePlace) = pre := by
  have hp : ∀ x ∈ pre, x ≠ .linePlace := by rintro x hx rfl; exact h hx
  refine ⟨?_, ?_⟩
  · rw [fromLine, List.dropWhile_append_of_pos (by simpa using hp)]; simp
  · rw [List.takeWhile_append_of_pos (by simpa using hp)]; simp

/-- A line whose period is still the present one, or none: its GAP is the pending one. -/
theorem Mru.lineGap_pending {m : Mru} (h : periodLeft (fromLine m.queue) = none) (gap : Option PendingGap) :
    m.lineGap = m.pendingGap ∧ m.setLineGap gap = { m with pendingGap := gap } := by
  simp [lineGap, setLineGap, h]

/-- A line behind whose place a close mark of a period now over stands: its GAP is what that period left. -/
theorem Mru.lineGap_past {m : Mru} {pre between rest : List QueueItem} {left : PeriodEnd}
    (hq : m.queue = pre ++ .linePlace :: (between ++ .closePast left :: rest)) (hpre : .linePlace ∉ pre)
    (hb : ∀ l, .closePast l ∉ between) (gap : Option PendingGap) :
    m.lineGap = left.gap ∧ m.setLineGap gap =
      { m with queue := pre ++ .linePlace :: (between ++ .closePast { left with gap := gap } :: rest) } := by
  obtain ⟨hf, ht⟩ := fromLine_split (post := between ++ .closePast left :: rest) hpre
  have hb' : ∀ l, .closePast l ∉ QueueItem.linePlace :: between := by simpa using hb
  have hl : periodLeft (fromLine m.queue) = some left := by
    rw [hq, hf]; exact periodLeft_split (pre := .linePlace :: between) hb'
  refine ⟨by simp [lineGap, hl], ?_⟩
  have hs := setPeriodGap_split (pre := .linePlace :: between) (rest := rest) (left := left) gap hb'
  rw [setLineGap, hl]
  dsimp only
  rw [hq, hf, ht]
  exact congrArg (fun q => { m with queue := pre ++ q }) hs

theorem Mru.carryGap_pending {m : Mru} (h : periodLeft m.queue = none) (g : PendingGap) :
    m.carryGap g = { m with pendingGap := some (g.before m.pendingGap) } := by
  simp [carryGap, h]

theorem Mru.carryGap_past {m : Mru} {pre rest : List QueueItem} {left : PeriodEnd}
    (hq : m.queue = pre ++ .closePast left :: rest) (h : ∀ l, .closePast l ∉ pre) (g : PendingGap) :
    m.carryGap g =
      { m with queue := pre ++ .closePast { left with gap := some (g.before left.gap) } :: rest } := by
  simp [carryGap, hq, periodLeft_split h, setPeriodGap_split _ h]

/-! ## Chainage order through the queue (R155) -/

/-- A close mark. -/
def QueueItem.isMark : QueueItem → Bool
  | .closeMark | .closePast _ | .closeDue => true
  | .entry _ | .linePlace | .stopPlace => false

/-- Where neither the mode nor the chainage seen changes, the end of the queue stays in order. -/
theorem Mru.end_self (m : Mru) : m.recordsSeen = .off ∨ m.recordsSeen ≠ .off ∧ m.chainageSeen ≤ m.chainageSeen :=
  (Decidable.em _).imp id fun h => ⟨h, BitVec.le_refl _⟩

theorem Mru.inOrder_cons {m : Mru} {low : Option Word} {i : QueueItem} {q : List QueueItem} (h : i.isMark = false) :
    m.inOrder low (i :: q) ↔
      (∀ c ∈ low, ∀ d ∈ m.itemChainage i, c ≤ d) ∧ m.inOrder (m.itemChainage i <|> low) q := by
  cases i <;> first | exact Iff.rfl | exact absurd h (by decide) | simp [QueueItem.isMark] at h

/-- `low` is no higher than `high`. -/
def lowTo (low high : Option Word) : Prop := ∀ c ∈ low, ∃ d ∈ high, c ≤ d

theorem lowTo_refl (low : Option Word) : lowTo low low := fun c hc => ⟨c, hc, BitVec.le_refl c⟩

theorem lowTo_none (high : Option Word) : lowTo none high := by simp [lowTo]

/-- What an operation may put in place of an item of the queue without harm to the order. -/
def Mru.refines (m n : Mru) : QueueItem → List QueueItem → Prop
  | .closeMark, js => (js = [.closeMark] ∧ m.chainageSeen ≤ n.chainageSeen) ∨
      ∃ left, js = [.closePast left] ∧ m.chainageSeen ≤ left.chainage
  | .closePast left, js => ∃ left', js = [.closePast left'] ∧ left.chainage ≤ left'.chainage
  | .closeDue, js => js = [.closeDue]
  | i, js => ∀ j ∈ js, j.isMark = false ∧ ∀ d ∈ n.itemChainage j, d ∈ m.itemChainage i

/-- A queue that stands for another, item by item. -/
inductive Mru.Refined (m n : Mru) : List QueueItem → List QueueItem → Prop
  | nil : Refined m n [] []
  | cons {i js q r} (h : m.refines n i js) (t : Refined m n q r) : Refined m n (i :: q) (js ++ r)

theorem Mru.Refined.flatMap {m n : Mru} {f : QueueItem → List QueueItem} {q : List QueueItem}
    (h : ∀ i ∈ q, m.refines n i (f i)) : m.Refined n q (q.flatMap f) := by
  induction q with
  | nil => exact .nil
  | cons i q ih => exact .cons (h i (List.mem_cons_self ..)) (ih fun j hj => h j (List.mem_cons_of_mem _ hj))

theorem Mru.Refined.map {m n : Mru} {f : QueueItem → QueueItem} {q : List QueueItem}
    (h : ∀ i ∈ q, m.refines n i [f i]) : m.Refined n q (q.map f) := by
  simpa [List.map_eq_flatMap] using Mru.Refined.flatMap (f := fun i => [f i]) h

theorem Mru.Refined.filterMap {m n : Mru} {f : QueueItem → Option QueueItem} {q : List QueueItem}
    (h : ∀ i ∈ q, m.refines n i (f i).toList) : m.Refined n q (q.filterMap f) := by
  simpa [List.filterMap_eq_flatMap_toList] using Mru.Refined.flatMap (f := fun i => (f i).toList) h

/-- The entries put in place of one that is no mark keep the order behind it. -/
theorem Mru.inOrder_block {m n : Mru} {i : QueueItem} {low low' : Option Word} {js r : List QueueItem}
    (hj : ∀ j ∈ js, j.isMark = false ∧ ∀ d ∈ n.itemChainage j, d ∈ m.itemChainage i)
    (hl : lowTo low' (m.itemChainage i <|> low))
    (hr : ∀ low'', lowTo low'' (m.itemChainage i <|> low) → n.inOrder low'' r) : n.inOrder low' (js ++ r) := by
  induction js generalizing low' with
  | nil => exact hr _ hl
  | cons j js ih =>
    obtain ⟨hm, hk⟩ := hj j (List.mem_cons_self ..)
    refine (Mru.inOrder_cons hm).2 ⟨?_, ih (fun x hx => hj x (List.mem_cons_of_mem _ hx)) ?_⟩
    · intro c hc d hd
      have hd' := hk d hd
      obtain ⟨e, he, hce⟩ := hl c hc
      rw [Option.mem_def.1 hd'] at he
      cases he; exact hce
    · cases hkj : n.itemChainage j with
      | none => simpa using hl
      | some d =>
        have hd' := hk d hkj
        rw [Option.mem_def.1 hd']
        exact lowTo_refl _

/-- A refined queue keeps the order. -/
theorem Mru.inOrder_refine {m n : Mru} {q r : List QueueItem} {low low' : Option Word} (h : m.inOrder low q)
    (hq : m.Refined n q r) (hl : lowTo low' low)
    (hend : m.recordsSeen = .off ∨ n.recordsSeen ≠ .off ∧ m.chainageSeen ≤ n.chainageSeen) : n.inOrder low' r := by
  induction hq generalizing low low' with
  | nil =>
    intro c hc
    obtain ⟨d, hd, hcd⟩ := hl c hc
    obtain ⟨h1, h2⟩ := h d hd
    rcases hend with hoff | ⟨h3, h4⟩
    · exact absurd hoff h1
    · exact ⟨h3, BitVec.le_trans hcd (BitVec.le_trans h2 h4)⟩
  | @cons i js q r hi _ ih =>
    have bound (b b' : Word) (hb : ∀ c ∈ low, c ≤ b) (hbb : b ≤ b') : ∀ c ∈ low', c ≤ b' := fun c hc => by
      obtain ⟨d, hd, hcd⟩ := hl c hc
      exact BitVec.le_trans hcd (BitVec.le_trans (hb d hd) hbb)
    cases i with
    | closeMark =>
      rcases hi with ⟨rfl, hs⟩ | ⟨left, rfl, hs⟩
      · exact ⟨bound _ _ h.1 hs, ih h.2 (lowTo_refl _)⟩
      · exact ⟨bound _ _ h.1 hs, ih h.2 (lowTo_refl _)⟩
    | closePast left =>
      obtain ⟨left', rfl, hs⟩ := hi
      exact ⟨bound _ _ h.1 hs, ih h.2 (lowTo_refl _)⟩
    | closeDue =>
      cases hi
      exact ih (low := none) h (lowTo_refl _)
    | entry _ | linePlace | stopPlace =>
      obtain ⟨h1, h2⟩ := (Mru.inOrder_cons rfl).1 h
      refine Mru.inOrder_block hi ?_ fun low'' hl' => ih h2 hl'
      intro c hc
      obtain ⟨d, hd, hcd⟩ := hl c hc
      cases hk : m.itemChainage _ with
      | none => exact ⟨d, by simpa [hk] using hd, hcd⟩
      | some e => exact ⟨e, by simp, BitVec.le_trans hcd (h1 d hd e hk)⟩

theorem Mru.refines_one {m n : Mru} {i j : QueueItem} (hi : i.isMark = false) (hj : j.isMark = false)
    (hk : ∀ d ∈ n.itemChainage j, d ∈ m.itemChainage i) : m.refines n i [j] := by
  cases i with
  | closeMark | closePast _ | closeDue => cases hi
  | entry _ | linePlace | stopPlace =>
    intro x hx
    cases List.mem_singleton.1 hx
    exact ⟨hj, hk⟩

theorem Mru.refines_self {m n : Mru} (hk : ∀ i, n.itemChainage i = m.itemChainage i)
    (hs : m.chainageSeen ≤ n.chainageSeen) (i : QueueItem) : m.refines n i [i] := by
  cases i with
  | closeMark => exact .inl ⟨rfl, hs⟩
  | closePast left => exact ⟨left, rfl, BitVec.le_refl _⟩
  | closeDue => rfl
  | entry _ | linePlace | stopPlace =>
    exact Mru.refines_one rfl rfl fun d hd => hk _ ▸ hd

theorem Mru.Refined.of_self {m n : Mru} (hk : ∀ i, n.itemChainage i = m.itemChainage i)
    (hs : m.chainageSeen ≤ n.chainageSeen) (q : List QueueItem) : m.Refined n q q := by
  simpa using Mru.Refined.map (f := id) (q := q) fun i _ => Mru.refines_self hk hs i

/-- An entry of the chainage seen joins behind the last. -/
theorem Mru.inOrder_snoc {m : Mru} {low : Option Word} {q : List QueueItem} {i : QueueItem} (h : m.inOrder low q)
    (hi : i.isMark = false) (hk : ∀ d ∈ m.itemChainage i, d = m.chainageSeen) (hm : m.recordsSeen ≠ .off) :
    m.inOrder low (q ++ [i]) := by
  induction q generalizing low with
  | nil =>
    refine (Mru.inOrder_cons hi).2 ⟨fun c hc d hd => hk d hd ▸ (h c hc).2, ?_⟩
    intro c hc
    refine ⟨hm, ?_⟩
    cases hki : m.itemChainage i with
    | none => exact (h c (by simpa [hki] using hc)).2
    | some d =>
      rw [hki] at hc
      obtain rfl : d = c := by simpa using hc
      exact hk d hki ▸ BitVec.le_refl _
  | cons j q ih =>
    cases j with
    | closeMark => exact ⟨h.1, ih h.2⟩
    | closePast left => exact ⟨h.1, ih h.2⟩
    | closeDue => exact ih (low := none) h
    | entry _ | linePlace | stopPlace =>
      obtain ⟨h1, h2⟩ := (Mru.inOrder_cons rfl).1 h
      exact (Mru.inOrder_cons rfl).2 ⟨h1, ih h2⟩

/-- A close mark joins behind the last entry, whatever the mode becomes. -/
theorem Mru.inOrder_mark {m n : Mru} {low : Option Word} {q : List QueueItem} (h : m.inOrder low q)
    (hk : ∀ i, n.itemChainage i = m.itemChainage i) (hs : n.chainageSeen = m.chainageSeen) :
    n.inOrder low (q ++ [.closeMark]) := by
  induction q generalizing low with
  | nil => exact ⟨fun c hc => hs ▸ (h c hc).2, by simp [Mru.inOrder]⟩
  | cons j q ih =>
    cases j with
    | closeMark => exact ⟨fun c hc => hs ▸ h.1 c hc, ih h.2⟩
    | closePast left => exact ⟨h.1, ih h.2⟩
    | closeDue => exact ih (low := none) h
    | entry _ | linePlace | stopPlace =>
      obtain ⟨h1, h2⟩ := (Mru.inOrder_cons rfl).1 h
      refine (Mru.inOrder_cons rfl).2 ⟨?_, ?_⟩
      · rw [hk]; exact h1
      · rw [hk]; exact ih h2

/-- A change of MRU that touches no page and no sequence keeps the records in order, where the queue it leaves refines the one
before. -/
theorem Mru.Recorded.refine {m n : Mru} (h : m.Recorded) (hq : m.Refined n m.queue n.queue) (ho : n.op = m.op)
    (hp : n.openPage = m.openPage) (he : n.nextEntry = m.nextEntry)
    (hend : m.recordsSeen = .off ∨ n.recordsSeen ≠ .off ∧ m.chainageSeen ≤ n.chainageSeen)
    (hf : n.fallbackTimer.isSome = true → n.recordsSeen = .run) : n.Recorded where
  order := by
    have hl : n.filledTo = m.filledTo := by simp [filledTo, ho, hp]
    rw [hl]
    exact Mru.inOrder_refine h.order hq (lowTo_refl _) hend
  writing := by rw [ho, he]; exact h.writing
  sequence := by rw [ho, hp, he]; exact h.sequence
  fallback := hf

/-- The same, for a change that leaves the queue, the chainage seen and the records mode. -/
theorem Mru.Recorded.update {m n : Mru} (h : m.Recorded) (hq : n.queue = m.queue)
    (hk : ∀ i ∈ m.queue, n.itemChainage i = m.itemChainage i) (ho : n.op = m.op)
    (hp : n.openPage = m.openPage) (he : n.nextEntry = m.nextEntry) (hm : n.recordsSeen = m.recordsSeen)
    (hs : n.chainageSeen = m.chainageSeen) (hf : n.fallbackTimer = m.fallbackTimer) : n.Recorded := by
  refine h.refine ?_ ho hp he ?_ ?_
  · rw [hq]
    have hr : m.Refined n m.queue (m.queue.map id) := Mru.Refined.map fun i hi => ?_
    · simpa using hr
    cases i with
    | closeMark => exact .inl ⟨rfl, hs ▸ BitVec.le_refl _⟩
    | closePast left => exact ⟨left, rfl, BitVec.le_refl _⟩
    | closeDue => rfl
    | entry _ | linePlace | stopPlace =>
      exact Mru.refines_one rfl rfl fun d hd => hk _ hi ▸ hd
  · rw [hm, hs]
    exact Mru.end_self m
  · rw [hf, hm]; exact h.fallback

/-! ## The pending GAPs and the order -/

theorem setPeriodGap_refined {m n : Mru} (hk : ∀ i, n.itemChainage i = m.itemChainage i)
    (hs : m.chainageSeen ≤ n.chainageSeen) (gap : Option PendingGap) (q : List QueueItem) :
    m.Refined n q (setPeriodGap gap q) := by
  induction q with
  | nil => exact .nil
  | cons i q ih =>
    cases i with
    | closePast left => exact .cons (js := [_]) ⟨_, rfl, BitVec.le_refl _⟩ (Mru.Refined.of_self hk hs q)
    | entry _ | linePlace | stopPlace | closeMark | closeDue =>
      exact .cons (js := [_]) (Mru.refines_self hk hs _) ih

theorem Mru.Refined.append {m n : Mru} {q q' r r' : List QueueItem} (h : m.Refined n q r) (h' : m.Refined n q' r') :
    m.Refined n (q ++ q') (r ++ r') := by
  induction h with
  | nil => exact h'
  | cons hi _ ih => rw [List.append_assoc]; exact .cons hi ih

/-- What setting the GAP of the line in flight leaves as it is. -/
theorem Mru.setLineGap_frame (m : Mru) (gap : Option PendingGap) :
    ∃ queue pendingGap, m.setLineGap gap = { m with queue := queue, pendingGap := pendingGap } ∧
      ∀ k n : Mru, (∀ i, n.itemChainage i = k.itemChainage i) → k.chainageSeen ≤ n.chainageSeen →
        k.Refined n m.queue queue := by
  unfold setLineGap
  split
  · refine ⟨_, _, rfl, fun k n hk hs => ?_⟩
    conv => arg 3; rw [← List.takeWhile_append_dropWhile (p := fun i => decide (i ≠ QueueItem.linePlace)) (l := m.queue)]
    exact (Mru.Refined.of_self hk hs _).append (setPeriodGap_refined hk hs gap _)
  · exact ⟨_, _, rfl, fun k n hk hs => Mru.Refined.of_self hk hs _⟩

/-- What a GAP carried past its mark leaves as it is. -/
theorem Mru.carryGap_frame (m : Mru) (g : PendingGap) :
    ∃ queue pendingGap, m.carryGap g = { m with queue := queue, pendingGap := pendingGap } ∧
      ∀ k n : Mru, (∀ i, n.itemChainage i = k.itemChainage i) → k.chainageSeen ≤ n.chainageSeen →
        k.Refined n m.queue queue := by
  unfold carryGap
  split
  · exact ⟨_, _, rfl, fun k n hk hs => setPeriodGap_refined hk hs _ _⟩
  · exact ⟨_, _, rfl, fun k n hk hs => Mru.Refined.of_self hk hs _⟩

/-! ## The writer (R162, R164) -/

/-- The order behind an entry is an order behind none, or a lower one; it stands on the keys alone. -/
theorem Mru.inOrder_congr {m n : Mru} {low low' : Option Word} {q : List QueueItem} (h : m.inOrder low q)
    (hl : lowTo low' low) (hk : ∀ i, n.itemChainage i = m.itemChainage i) (hm : n.recordsSeen = m.recordsSeen)
    (hs : n.chainageSeen = m.chainageSeen) : n.inOrder low' q := by
  refine Mru.inOrder_refine h (Mru.Refined.of_self hk (hs ▸ BitVec.le_refl _) q) hl ?_
  rw [hm, hs]
  exact Mru.end_self m

theorem Mru.Recorded.issueClose {m : Mru} {q : List QueueItem} (h : m.Recorded) (hop : m.op = .none)
    (closedBy : ClosedBy) (hq : m.inOrder none q) : (Mru.issueClose { m with queue := q } closedBy).Recorded where
  order := Mru.inOrder_congr hq (lowTo_none _) (fun _ => rfl) rfl rfl
  writing := by simp [Mru.issueClose]
  sequence := by simpa [Mru.issueClose, hop] using h.sequence
  fallback := h.fallback

theorem Mru.Recorded.issueSearch {m : Mru} (h : m.Recorded) (hop : m.op = .none) : m.issueSearch.Recorded where
  order := by
    have hl : m.issueSearch.filledTo = m.filledTo := by simp [Mru.issueSearch, Mru.filledTo, hop]
    rw [hl]
    exact Mru.inOrder_congr h.order (lowTo_refl _) (fun _ => rfl) rfl rfl
  writing := by simp [Mru.issueSearch]
  sequence := by simpa [Mru.issueSearch, hop] using h.sequence
  fallback := h.fallback

theorem Mru.Recorded.writeHead {m : Mru} (h : m.Recorded) (hop : m.op = .none) (e : Entry) (search : Bool) :
    (m.writeHead e search).Recorded := by
  unfold Mru.writeHead
  split
  · split
    · exact {
        order := by
          have hl : ({ m with op := .entryWrite m.nextEntry, nextEntry := m.nextEntry + 1 } : Mru).filledTo = m.filledTo := by
            simp [Mru.filledTo, hop]
          rw [hl]
          exact Mru.inOrder_congr h.order (lowTo_refl _) (fun _ => rfl) rfl rfl
        writing := by intro q hq; cases hq; rfl
        sequence := by simpa [hop] using h.sequence
        fallback := h.fallback }
    · exact h.issueClose hop .full (Mru.inOrder_congr h.order (lowTo_none _) (fun _ => rfl) rfl rfl)
  · split
    · exact h.issueSearch hop
    · exact h

/-- A close mark that leaves the queue: the records behind it stay in order, and nothing else changes but the GAPs. -/
theorem Mru.leaveMark_frame (m : Mru) (mark : QueueItem) (rest : List QueueItem) :
    ∃ queue pendingGap, m.leaveMark mark rest = { m with queue := queue, pendingGap := pendingGap } ∧
      (m.inOrder none rest → m.inOrder none queue) := by
  unfold Mru.leaveMark
  split
  · obtain ⟨q, g, he, hr⟩ := Mru.carryGap_frame { m with queue := rest } ‹_›
    refine ⟨q, g, by rw [he], fun h => ?_⟩
    refine Mru.inOrder_refine h (hr m m (fun _ => rfl) (BitVec.le_refl _)) (lowTo_refl _) ?_
    exact Mru.end_self m
  · exact ⟨rest, m.pendingGap, rfl, id⟩

/-- The GAP that joins at a mark keeps the order ahead of it, and behind the mark the order is as it was. -/
theorem Mru.gapAtMark_order {m : Mru} {now : Word} {low : Option Word} {mark : QueueItem} {rest : List QueueItem} {gap : Entry}
    (hg : m.gapAtMark now mark = some gap) (h : m.inOrder low (mark :: rest)) :
    (∀ c ∈ low, c ≤ gap.chainage) ∧ m.inOrder none rest := by
  cases mark with
  | closeMark =>
    obtain ⟨g, -, rfl⟩ := Option.map_eq_some_iff.1 hg
    exact h
  | closePast left =>
    obtain ⟨g, -, rfl⟩ := Option.map_eq_some_iff.1 hg
    exact h
  | _ => cases hg

theorem Mru.inOrder_behindMark {m : Mru} {low : Option Word} {mark : QueueItem} {rest : List QueueItem}
    (hm : mark.isMark = true) (h : m.inOrder low (mark :: rest)) : m.inOrder none rest := by
  cases mark with
  | closeMark => exact h.2
  | closePast left => exact h.2
  | closeDue => exact h
  | _ => cases hm

theorem Mru.filledTo_none {m : Mru} (hop : m.op = .none) (h : m.pageHolds = false) : m.filledTo = none := by
  unfold Mru.pageHolds at h
  cases hp : m.openPage with
  | none => simp [Mru.filledTo, hop, hp]
  | some p => simpa [Mru.filledTo, hop, hp, Option.filter] using h

/-- The writer at a close mark. -/
theorem Mru.Recorded.atMark {m : Mru} (h : m.Recorded) (hop : m.op = .none) {mark : QueueItem} {rest : List QueueItem}
    (hq : m.queue = mark :: rest) (hm : mark.isMark = true) :
    (m.pageHolds = true → (Mru.issueClose (m.leaveMark mark rest) m.markReason).Recorded) ∧
    (m.pageHolds = false → (m.leaveMark mark rest).Recorded ∧ (m.leaveMark mark rest).op = .none) := by
  obtain ⟨q, g, he, ho⟩ := m.leaveMark_frame mark rest
  have hr := ho (Mru.inOrder_behindMark hm (hq ▸ h.order))
  rw [he]
  refine ⟨fun _ => ?_, fun hp => ⟨?_, hop⟩⟩
  · exact (Mru.Recorded.update (n := { m with pendingGap := g }) h rfl (fun _ _ => rfl) rfl rfl rfl rfl rfl rfl).issueClose
      hop _ (Mru.inOrder_congr hr (lowTo_refl _) (fun _ => rfl) rfl rfl)
  · exact {
      order := by
        have hl : ({ m with queue := q, pendingGap := g } : Mru).filledTo = none := Mru.filledTo_none hop hp
        rw [hl]
        exact Mru.inOrder_congr hr (lowTo_refl _) (fun _ => rfl) rfl rfl
      writing := h.writing, sequence := h.sequence, fallback := h.fallback }

theorem Mru.Recorded.joinAtMark {m : Mru} (h : m.Recorded) {now : Word} {mark : QueueItem} {rest : List QueueItem}
    {gap : Entry} (hq : m.queue = mark :: rest) (hg : m.gapAtMark now mark = some gap) :
    (m.joinAtMark mark gap rest).Recorded where
  order := by
    obtain ⟨h1, h2⟩ := Mru.gapAtMark_order hg (hq ▸ h.order)
    exact ⟨fun c hc d hd => by cases hd; exact h1 c hc,
      Mru.inOrder_congr h2 (lowTo_refl _) (fun _ => rfl) rfl rfl⟩
  writing := h.writing
  sequence := h.sequence
  fallback := h.fallback

theorem Mru.Recorded.runWriter {now : Word} {fuel : Nat} {search : Bool} {m : Mru} (h : m.Recorded) (hop : m.op = .none) :
    (Mru.runWriter now fuel search m).Recorded := by
  induction fuel generalizing search m with
  | zero => exact h
  | succ fuel ih =>
    unfold Mru.runWriter
    split
    · split
      · exact h
      · exact h.writeHead hop _ _
    · exact h
    · exact h
    · exact h
    · rename_i mark rest h1 h2 h3 hq
      have hm : mark.isMark = true := by
        cases mark with
        | entry e => exact absurd rfl (h1 e)
        | linePlace => exact absurd rfl h2
        | stopPlace => exact absurd rfl h3
        | _ => rfl
      split
      · exact ih (h.joinAtMark hq ‹_›) hop
      · obtain ⟨hc, hp⟩ := h.atMark hop hq hm
        split
        · exact hc ‹_›
        · rename_i hn
          obtain ⟨hr, ho⟩ := hp (by simpa using hn)
          exact ih hr ho

theorem setPeriodGap_length (gap : Option PendingGap) (q : List QueueItem) : (setPeriodGap gap q).length = q.length := by
  induction q with
  | nil => rfl
  | cons i q ih => cases i <;> simp [setPeriodGap, ih]

theorem Mru.leaveMark_length (m : Mru) (mark : QueueItem) (rest : List QueueItem) :
    (m.leaveMark mark rest).queue.length = rest.length := by
  unfold Mru.leaveMark
  split
  · unfold Mru.carryGap
    dsimp only
    split <;> simp [setPeriodGap_length]
  · rfl

/-- Fuel for every item of the queue and one more is enough. -/
theorem Mru.runWriter_succ (now : Word) (fuel : Nat) {search : Bool} {m : Mru} (h : m.queue.length + 1 ≤ fuel) :
    Mru.runWriter now (fuel + 1) search m = Mru.runWriter now fuel search m := by
  induction fuel generalizing search m with
  | zero => omega
  | succ fuel ih =>
    rw [Mru.runWriter.eq_def now (fuel + 1 + 1), Mru.runWriter.eq_def now (fuel + 1)]
    dsimp only
    split
    · rfl
    · rfl
    · rfl
    · rfl
    · rename_i mark rest _ _ _ hq
      simp only [hq, List.length_cons] at h
      split
      · obtain ⟨k, rfl⟩ : ∃ k, fuel = k + 1 := ⟨fuel - 1, by omega⟩
        rw [Mru.runWriter.eq_def now (k + 1 + 1), Mru.runWriter.eq_def now (k + 1)]
        simp [Mru.joinAtMark]
      · split
        · rfl
        · exact ih (by rw [Mru.leaveMark_length]; omega)

theorem Mru.runWriter_fuel (now : Word) {fuel fuel' : Nat} {search : Bool} {m : Mru} (h : m.queue.length + 1 ≤ fuel)
    (h' : m.queue.length + 1 ≤ fuel') : Mru.runWriter now fuel search m = Mru.runWriter now fuel' search m := by
  have key (k : Nat) : Mru.runWriter now (m.queue.length + 1 + k) search m =
      Mru.runWriter now (m.queue.length + 1) search m := by
    induction k with
    | zero => rfl
    | succ k ih => rw [← Nat.add_assoc, Mru.runWriter_succ now _ (by omega), ih]
  obtain ⟨a, rfl⟩ := Nat.exists_eq_add_of_le h
  obtain ⟨b, rfl⟩ := Nat.exists_eq_add_of_le h'
  rw [key, key]

/-- The writer goes on as it does from a state whose writer ends alike. -/
theorem State.drive_of_writer {s : State} {m : Mru} {search search' : Bool} (ho : s.mru.op = .none)
    (hf : s.mru.flushing = false) (ho' : m.op = .none) (hf' : m.flushing = false)
    (h : Mru.runWriter s.now (2 * s.mru.queue.length + 2) search s.mru =
      Mru.runWriter s.now (2 * m.queue.length + 2) search' m) :
    s.drive search = State.drive { s with mru := m } search' := by
  have e : (s.modMru fun m => Mru.runWriter s.now (2 * m.queue.length + 2) search m) =
      (State.modMru { s with mru := m } fun m => Mru.runWriter s.now (2 * m.queue.length + 2) search' m) := by
    simp only [State.modMru, h]
  have e' : s.nextOp search = State.nextOp { s with mru := m } search' := by
    unfold State.nextOp
    rw [if_neg (by simp [hf]), if_neg (by simp [hf']), e]
    rfl
  unfold State.drive
  rw [if_neg (by simp [ho]), if_neg (by simp [ho']), e']

theorem State.issuePage_mru (s : State) : s.issuePage.mru = s.mru := by unfold State.issuePage; split <;> simp

theorem Mru.Recorded.drive {s : State} (h : s.mru.Recorded) (search : Bool) : (s.drive search).mru.Recorded := by
  unfold State.drive
  split
  · exact h
  · rename_i hop
    rw [State.issuePage_mru]
    have hop : s.mru.op = .none := by simpa using hop
    unfold State.nextOp
    split
    · exact h.issueClose hop .flush (Mru.inOrder_congr h.order (lowTo_none _) (fun _ => rfl) rfl rfl)
    · have hw := h.runWriter (now := s.now) (fuel := 2 * s.mru.queue.length + 2) (search := search) hop
      unfold State.settleDrain
      split
      · rename_i hd
        have hop' : (Mru.runWriter s.now (2 * s.mru.queue.length + 2) search s.mru).op = .none := by
          simp only [Mru.drained, State.modMru_mru, Bool.and_eq_true, beq_iff_eq] at hd
          exact hd.1.2
        split
        · exact hw.issueClose hop' .stop (Mru.inOrder_congr hw.order (lowTo_none _) (fun _ => rfl) rfl rfl)
        · exact hw
      · exact hw

/-! ## What joins, leaves and changes (R154 to R164) -/

theorem Mru.Recorded.snoc {m n : Mru} {i : QueueItem} (h : m.Recorded) (hq : n.queue = m.queue ++ [i])
    (hi : i.isMark = false) (hk : ∀ j ∈ m.queue, n.itemChainage j = m.itemChainage j)
    (hki : ∀ d ∈ n.itemChainage i, d = m.chainageSeen) (hm : m.recordsSeen ≠ .off)
    (hmode : n.recordsSeen = m.recordsSeen) (hs : n.chainageSeen = m.chainageSeen) (ho : n.op = m.op)
    (hp : n.openPage = m.openPage) (he : n.nextEntry = m.nextEntry) (hf : n.fallbackTimer = m.fallbackTimer) :
    n.Recorded := by
  have h' : ({ n with queue := m.queue } : Mru).Recorded := h.update rfl hk ho hp he hmode hs hf
  exact {
    order := by
      rw [hq]
      exact Mru.inOrder_congr (Mru.inOrder_snoc h'.order hi (fun d hd => (hki d hd).trans hs.symm) (hmode ▸ hm))
        (lowTo_refl _) (fun _ => rfl) rfl rfl
    writing := h'.writing
    sequence := h'.sequence
    fallback := h'.fallback }

theorem Mru.Recorded.joinQueue {s : State} (h : s.mru.Recorded) {e : Entry} (he : e.chainage = s.mru.chainageSeen)
    (hm : s.mru.recordsSeen ≠ .off) : (s.joinQueue e).mru.Recorded :=
  Mru.Recorded.drive (s := s.modMru fun m => { m with queue := m.queue ++ [.entry e] })
    (h.snoc (i := .entry e) rfl rfl (fun _ _ => rfl) (fun d hd => by cases hd; exact he) hm rfl rfl rfl rfl rfl rfl) true

theorem Mru.Recorded.advanceTo {m : Mru} (h : m.Recorded) (c : Word) : (m.advanceTo c).Recorded := by
  unfold Mru.advanceTo
  split
  · rename_i hc
    refine h.refine (Mru.Refined.of_self (m := m) (n := { m with chainageSeen := c }) (fun _ => rfl) hc m.queue)
      rfl rfl rfl ?_ h.fallback
    by_cases hoff : m.recordsSeen = .off
    · exact .inl hoff
    · exact .inr ⟨hoff, hc⟩
  · exact h

/-- The place of the line in flight gives way to entries of the line's chainage, or to none. -/
theorem Mru.Recorded.fillLinePlace {m n : Mru} {l : LineInFlight} (h : ({ m with line := some l } : Mru).Recorded)
    {entries : List Entry} (hc : ∀ e ∈ entries, e.chainage = l.chainage) (queue : List QueueItem)
    (hq : Mru.Refined { m with line := some l } { m with line := some l } m.queue queue)
    (hn : n.queue = (Mru.fillLinePlace { m with queue := queue } entries).queue)
    (hstop : n.pendingStop = m.pendingStop) (hmode : n.recordsSeen = m.recordsSeen)
    (hs : n.chainageSeen = m.chainageSeen) (ho : n.op = m.op)
    (hp : n.openPage = m.openPage) (he : n.nextEntry = m.nextEntry) (hf : n.fallbackTimer = m.fallbackTimer) :
    n.Recorded := by
  have h' : ({ m with line := some l, queue := queue } : Mru).Recorded := {
    order := by
      refine Mru.inOrder_congr (Mru.inOrder_refine h.order hq (lowTo_refl _) ?_) (lowTo_refl _) (fun _ => rfl) rfl rfl
      exact Mru.end_self m
    writing := h.writing, sequence := h.sequence, fallback := h.fallback }
  refine h'.refine ?_ ho hp he ?_ ?_
  · rw [hn]
    refine Mru.Refined.flatMap fun i _ => ?_
    cases i with
    | closeMark => exact .inl ⟨rfl, by rw [hs]; exact BitVec.le_refl _⟩
    | closePast left => exact ⟨left, rfl, BitVec.le_refl _⟩
    | closeDue => rfl
    | linePlace =>
      intro j hj
      simp only [if_pos, List.mem_map] at hj
      obtain ⟨e, hem, rfl⟩ := hj
      exact ⟨rfl, fun d hd => by cases hd; exact congrArg some (hc e hem).symm⟩
    | entry e =>
      exact Mru.refines_one rfl rfl fun d hd => hd
    | stopPlace => exact Mru.refines_one rfl rfl fun d hd => by simpa [Mru.itemChainage, hstop] using hd
  · rw [hmode, hs]
    exact Mru.end_self m
  · rw [hf, hmode]; exact h.fallback

theorem Mru.Recorded.countLine {m : Mru} {l : LineInFlight} (h : ({ m with line := some l } : Mru).Recorded)
    (lost missed : Word) (reason : GapReason) : (m.countLine lost missed reason).Recorded := by
  obtain ⟨q, g, he, hr⟩ := m.setLineGap_frame (some (gapWith m.lineGap lost missed reason))
  unfold Mru.countLine
  rw [he]
  exact h.fillLinePlace (entries := []) (by simp) q (hr _ _ (fun _ => rfl) (BitVec.le_refl _)) rfl rfl rfl rfl rfl rfl rfl rfl

theorem Mru.Recorded.reportLoss {s : State} (h : s.mru.Recorded) (subject : Nat) : (s.reportLoss subject).mru.Recorded := by
  unfold State.reportLoss
  split
  · exact h
  · simp only [State.modMru_mru, State.postNote_frame]
    exact h.update rfl (fun _ _ => rfl) rfl rfl rfl rfl rfl rfl

/-- A line of the chainage it was triggered at is offered: it joins at its place, or is lost. -/
theorem Mru.Recorded.offerLine {s : State} {e : LineEntry} (h : ({ s.mru with line := some e.line } : Mru).Recorded) :
    (s.offerLine e).mru.Recorded := by
  have hlost : s.loseLine.mru.Recorded :=
    Mru.Recorded.drive (Mru.Recorded.reportLoss (s := s.modMru fun m => m.countLine 1 0 .queue)
      (h.countLine 1 0 .queue) 0) false
  unfold State.offerLine
  split
  · split
    · refine Mru.Recorded.drive (s := s.modMru fun m => m.fillLinePlace [.line e]) ?_ true
      exact h.fillLinePlace (entries := [.line e]) (by simp [Entry.chainage]) s.mru.queue
        (Mru.Refined.of_self (fun _ => rfl) (BitVec.le_refl _) _) rfl rfl rfl rfl rfl rfl rfl rfl
    · exact hlost
  · split
    · rename_i g _ _
      refine Mru.Recorded.drive (s := s.modMru fun m =>
        (m.setLineGap none).fillLinePlace [g.entry e.line.chainage e.line.runTime, .line e]) ?_ true
      obtain ⟨q, gap, he, hr⟩ := s.mru.setLineGap_frame none
      simp only [State.modMru_mru]
      rw [he]
      exact h.fillLinePlace (entries := [g.entry e.line.chainage e.line.runTime, .line e])
        (by simp [Entry.chainage, PendingGap.entry]) q (hr _ _ (fun _ => rfl) (BitVec.le_refl _)) rfl rfl rfl rfl rfl rfl rfl rfl
    · exact hlost

theorem Mru.Recorded.releaseCycle {s : State} (h : s.mru.Recorded) : s.releaseCycle.mru.Recorded := by
  unfold State.releaseCycle
  split
  · exact h.update rfl (fun _ _ => rfl) rfl rfl rfl rfl rfl rfl
  · exact h

/-- The thermal run touches the run's own fields alone. -/
theorem State.followThermal_mru (s : State) (e : LineEntry) :
    ∃ count reported, (s.followThermal e).mru = { s.mru with thermalRun := count, thermalReported := reported } := by
  unfold State.followThermal
  split
  · dsimp only
    split
    · exact ⟨min 50 (s.mru.thermalRun + 1), true, by simp⟩
    · exact ⟨_, s.mru.thermalReported, rfl⟩
  · split
    · exact ⟨s.mru.thermalRun, s.mru.thermalReported, rfl⟩
    · exact ⟨0, false, rfl⟩

theorem Mru.Recorded.produceLine {s : State} (h : s.mru.Recorded) {l : LineInFlight} (hl : s.mru.line = some l)
    (points : List Half) : (s.produceLine l points).mru.Recorded := by
  refine Mru.Recorded.releaseCycle (Mru.Recorded.offerLine ?_)
  obtain ⟨count, reported, he⟩ := State.followThermal_mru
    (s.modMru fun m => { m with line := none, linesProduced := m.linesProduced + 1 }) (s.checkLine l points)
  rw [he]
  refine h.update rfl (fun i _ => ?_) rfl rfl rfl rfl rfl rfl
  cases i <;> simp [Mru.itemChainage, hl, State.checkLine]

theorem Mru.Recorded.giveUpLine {s : State} (h : s.mru.Recorded) {l : LineInFlight} (hl : s.mru.line = some l) :
    s.giveUpLine.mru.Recorded := by
  refine Mru.Recorded.releaseCycle (Mru.Recorded.drive (s := s.modMru fun m =>
    Mru.countLine { m with line := none } 0 1 .scanner) ?_ false)
  refine Mru.Recorded.countLine (m := { s.mru with line := none }) (l := l) ?_ 0 1 .scanner
  refine h.update rfl (fun i _ => ?_) rfl rfl rfl rfl rfl rfl
  cases i <;> simp [Mru.itemChainage, hl]

theorem Mru.Recorded.miss {m : Mru} (h : m.Recorded) (count : Nat) (reason : GapReason) : (m.miss count reason).Recorded := by
  unfold Mru.miss
  split
  · exact h
  · exact h.update rfl (fun _ _ => rfl) rfl rfl rfl rfl rfl rfl

/-- A trigger: the line it captures takes its place behind the last entry. -/
theorem Mru.Recorded.trigger {s : State} (h : s.mru.Recorded) (hm : s.mru.recordsSeen ≠ .off)
    (hl : s.mru.line = none → QueueItem.linePlace ∉ s.mru.queue) (unplaced : Bool) : (s.trigger unplaced).mru.Recorded := by
  unfold State.trigger
  split
  · exact h.miss 1 _
  · rename_i hr
    have hn : s.mru.line = none := by
      unfold Mru.missReason at hr
      split at hr
      · cases hr
      · split at hr
        · cases hr
        · simpa using ‹¬ s.mru.line.isSome = true›
    refine h.snoc (i := .linePlace) rfl rfl (fun j hj => ?_) (fun d hd => ?_) hm rfl rfl rfl rfl rfl rfl
    · cases j with
      | linePlace => exact absurd hj (hl hn)
      | _ => rfl
    · cases hd; rfl

/-- The fallback timer settled, whatever it was (R157). -/
theorem Mru.Recorded.settleFallback {s : State} (h : ({ s.mru with fallbackTimer := none } : Mru).Recorded) :
    s.settleFallback.mru.Recorded := by
  simp only [State.settleFallback, State.modMru_mru]
  refine h.refine (Mru.Refined.of_self (fun _ => by rfl) (by exact BitVec.le_refl _) _) rfl rfl rfl ?_ ?_
  · exact Mru.end_self s.mru
  · intro hf
    by_contra hr
    have hr : s.mru.recordsSeen ≠ .run := hr
    simp [hr] at hf

/-- The records mode becomes one in which entries are made, or stays so. -/
theorem Mru.Recorded.mode {m : Mru} (h : m.Recorded) {mode : RecordsMode} (hm : mode ≠ .off) :
    ({ m with recordsSeen := mode, fallbackTimer := none } : Mru).Recorded :=
  h.refine (Mru.Refined.of_self (fun _ => by rfl) (by exact BitVec.le_refl _) _) rfl rfl rfl
    (.inr ⟨hm, BitVec.le_refl _⟩) (by simp)

/-- The close mark of a period that ends. -/
theorem Mru.Recorded.close {m : Mru} (h : m.Recorded) :
    ({ m with
      recordsSeen := .off, afterStop := false, queue := m.queue ++ [.closeMark], fallbackTimer := none } : Mru).Recorded where
  order := Mru.inOrder_mark h.order (fun _ => rfl) rfl
  writing := h.writing
  sequence := h.sequence
  fallback := by simp

theorem endPeriod_refined {m n : Mru} (hk : ∀ i, n.itemChainage i = m.itemChainage i) (gap : Option PendingGap) (now : Word)
    (q : List QueueItem) : m.Refined n q (endPeriod gap m.chainageSeen now q) := by
  induction q generalizing gap with
  | nil => exact .nil
  | cons i q ih =>
    cases i with
    | closeMark => exact .cons (js := [_]) (.inr ⟨_, rfl, BitVec.le_refl _⟩) (ih none)
    | closePast left => exact .cons (js := [_]) ⟨left, rfl, BitVec.le_refl _⟩ (ih gap)
    | closeDue => exact .cons (js := [_]) rfl (ih gap)
    | entry _ | linePlace | stopPlace =>
      exact .cons (js := [_]) (Mru.refines_one rfl rfl fun d hd => hk _ ▸ hd) (ih gap)

/-- A period that begins where none stands open: the chainage seen may fall, the close marks before it keep their own. -/
theorem Mru.Recorded.beginPeriod {m : Mru} (h : m.Recorded) (hoff : m.recordsSeen = .off) (now chainage : Word)
    (spacing : Nat) : (m.beginPeriod now chainage spacing).Recorded :=
  h.refine (endPeriod_refined (fun _ => by rfl) _ _ _) rfl rfl rfl (.inl hoff) h.fallback

theorem Mru.Recorded.takeRecords {s : State} (h : s.mru.Recorded) (mode : RecordsMode) : (s.takeRecords mode).mru.Recorded := by
  cases mode with
  | run =>
    refine Mru.Recorded.settleFallback ?_
    simp only [State.modMru_mru]
    refine Mru.Recorded.mode ?_ (by decide)
    split
    · exact h.beginPeriod ‹_› _ _ _
    · exact h
  | off => exact Mru.Recorded.drive (Mru.Recorded.settleFallback h.close) false
  | stopmark => exact Mru.Recorded.settleFallback (Mru.Recorded.mode (mode := .stopmark) h (by decide))

/-- A STOP is completed where it waits. -/
theorem Mru.Recorded.completeStop {m : Mru} (h : m.Recorded) (now : Word) (cause : PauseCause) :
    (m.completeStop now cause).Recorded := by
  have hc (p : StopEntry) : (p.complete now cause).chainage = p.chainage := by unfold StopEntry.complete; split <;> rfl
  refine h.refine (Mru.Refined.map fun i _ => ?_) rfl rfl rfl ?_ h.fallback
  · cases i with
    | closeMark => exact .inl ⟨rfl, BitVec.le_refl _⟩
    | closePast left => exact ⟨left, rfl, BitVec.le_refl _⟩
    | closeDue => rfl
    | linePlace => exact Mru.refines_one rfl rfl fun d hd => hd
    | stopPlace =>
      refine Mru.refines_one rfl rfl fun d hd => ?_
      cases hp : m.pendingStop with
      | none => simp [Mru.completeStop, Mru.itemChainage, hp] at hd
      | some p => simpa [Mru.completeStop, Mru.itemChainage, hp, hc] using hd
    | entry e =>
      cases e with
      | stop p => exact Mru.refines_one rfl rfl fun d hd => by simpa [Mru.itemChainage, Entry.chainage, hc] using hd
      | _ => exact Mru.refines_one rfl rfl fun d hd => hd
  · exact Mru.end_self m

/-- The pending stop joins at its place. -/
theorem Mru.Recorded.admitStop {m : Mru} (h : m.Recorded) : m.admitStop.Recorded := by
  unfold Mru.admitStop
  split
  · rename_i p hp
    split
    · refine h.refine (Mru.Refined.map fun i _ => ?_) rfl rfl rfl ?_ h.fallback
      · cases i with
        | closeMark => exact .inl ⟨rfl, BitVec.le_refl _⟩
        | closePast left => exact ⟨left, rfl, BitVec.le_refl _⟩
        | closeDue => rfl
        | linePlace => exact Mru.refines_one rfl rfl fun d hd => hd
        | entry e => exact Mru.refines_one rfl rfl fun d hd => hd
        | stopPlace =>
          exact Mru.refines_one rfl rfl fun d hd => by cases hd; simp [Mru.itemChainage, hp, Entry.chainage]
      · exact Mru.end_self m
    · exact h
  · exact h

/-- An entry write lands: the page's last chainage is the entry's, and the sequence the one it was given. -/
theorem Mru.Recorded.entryWritten {m : Mru} (h : m.Recorded) {e : Entry} {rest : List QueueItem} {p : OpenPage}
    {sequence : Word} (hq : m.queue = .entry e :: rest) (hp : m.openPage = some p) (ho : m.op = .entryWrite sequence) :
    (m.entryWritten e p sequence).Recorded where
  order := by
    have hl : (m.entryWritten e p sequence).filledTo = some e.chainage := by
      simp [Mru.entryWritten, Mru.filledTo, OpenPage.added, Option.filter]
    have hr := ((Mru.inOrder_cons (i := .entry e) rfl).1 (hq ▸ h.order)).2
    have ht : (m.entryWritten e p sequence).queue = rest := by simp [Mru.entryWritten, hq]
    rw [hl, ht]
    exact Mru.inOrder_congr hr (lowTo_refl _) (fun _ => rfl) rfl rfl
  writing := by simp [Mru.entryWritten]
  sequence := by
    intro p' hp' _
    cases hp'
    have hn := h.writing sequence ho
    have hs := h.sequence p hp
    simp only [ho] at hs
    simp only [OpenPage.added, Mru.entryWritten]
    by_cases hc : p.entryCount = 0
    · simp [hc, ← hn]
    · rw [if_neg hc, BitVec.ofNat_add, ← BitVec.add_assoc, hs (by omega), ← hn]; rfl
  fallback := h.fallback

/-- A page opened or handed away: nothing is written to it. -/
theorem Mru.Recorded.emptyPage {m n : Mru} (h : m.Recorded) (hp : ∀ p, n.openPage = some p → p.entryCount = 0)
    (ho : ∀ q, n.op ≠ .entryWrite q) (hq : n.queue = m.queue) (hk : ∀ i, n.itemChainage i = m.itemChainage i)
    (hm : n.recordsSeen = m.recordsSeen) (hs : n.chainageSeen = m.chainageSeen)
    (hf : n.fallbackTimer = m.fallbackTimer) : n.Recorded where
  order := by
    have hl : n.filledTo = none := by
      unfold Mru.filledTo
      cases hp' : n.openPage with
      | none => cases n.op <;> rfl
      | some p => cases n.op <;> simp [hp p hp', Option.filter]
    rw [hl, hq]
    exact Mru.inOrder_congr h.order (lowTo_none _) hk hm hs
  writing := fun q hq => absurd hq (ho q)
  sequence := fun p hp' hc => by rw [hp p hp'] at hc; exact absurd hc (by decide)
  fallback := by rw [hf, hm]; exact h.fallback

/-- Entries that leave the queue, and GAPs that leave their marks, leave the rest in order. -/
theorem Mru.Refined.left {m n : Mru} {f : QueueItem → Option QueueItem} {q : List QueueItem}
    (hs : m.chainageSeen ≤ n.chainageSeen)
    (hf : ∀ i, f i = some i ∧ (i.isMark = false → n.itemChainage i = m.itemChainage i) ∨ f i = none ∧ i.isMark = false ∨
      ∃ left, i = .closePast left ∧ f i = some (.closePast { left with gap := none })) :
    m.Refined n q (q.filterMap f) := by
  refine Mru.Refined.filterMap fun i _ => ?_
  rcases hf i with ⟨h, hk⟩ | ⟨h, hk⟩ | ⟨left, rfl, h⟩
  · rw [h]
    cases i with
    | closeMark => exact .inl ⟨rfl, hs⟩
    | closePast left => exact ⟨left, rfl, BitVec.le_refl _⟩
    | closeDue => rfl
    | entry _ | linePlace | stopPlace =>
      exact Mru.refines_one rfl rfl fun d hd => hk rfl ▸ hd
  · rw [h]
    cases i <;> first | simp [Mru.refines]; done | simp [QueueItem.isMark] at hk
  · rw [h]; exact ⟨_, rfl, BitVec.le_refl _⟩

theorem Mru.Recorded.endDrain {m : Mru} (h : m.Recorded) : m.endDrain.Recorded := by
  refine h.refine (Mru.Refined.left (BitVec.le_refl _) fun i => ?_) rfl rfl rfl ?_ h.fallback
  · cases i with
    | closePast left => exact .inr (.inr ⟨left, rfl, rfl⟩)
    | entry _ | stopPlace => exact .inr (.inl ⟨rfl, rfl⟩)
    | linePlace | closeMark | closeDue => exact .inl ⟨rfl, fun _ => rfl⟩
  · exact Mru.end_self m

theorem Mru.Recorded.runStart {m : Mru} (h : m.Recorded) (reference : Timer) : (m.runStart reference).Recorded where
  order := by
    refine Mru.inOrder_refine h.order (Mru.Refined.left (BitVec.le_refl _) fun i => ?_) (lowTo_none _) ?_
    · cases i with
      | closePast left => exact .inr (.inr ⟨left, rfl, rfl⟩)
      | linePlace | stopPlace => exact .inr (.inl ⟨rfl, rfl⟩)
      | entry _ | closeMark | closeDue => exact .inl ⟨rfl, fun _ => rfl⟩
    · exact Mru.end_self m
  writing := by simp [Mru.runStart, Mru.reset]
  sequence := by simp [Mru.runStart, Mru.reset]
  fallback := by simp [Mru.runStart, Mru.reset]

/-- The STOP of a pause that starts: queued, pending at its place, or discarded. -/
theorem Mru.Recorded.startStop {s : State} (h : s.mru.Recorded) (hm : s.mru.recordsSeen ≠ .off)
    (hs : s.mru.pendingStop = none → QueueItem.stopPlace ∉ s.mru.queue) : s.startStop.mru.Recorded := by
  unfold State.startStop
  dsimp only
  split
  · exact Mru.Recorded.drive (by simpa using h) false
  · split
    · exact h.joinQueue rfl hm
    · have hn : s.mru.pendingStop = none := by simpa using ‹¬ s.mru.pendingStop.isSome = true›
      refine h.snoc (i := .stopPlace) rfl rfl (fun j hj => ?_) (fun d hd => ?_) hm rfl rfl rfl rfl rfl rfl
      · cases j with
        | stopPlace => exact absurd hj (hs hn)
        | _ => rfl
      · cases hd; rfl

theorem Mru.Recorded.runCycle {s : State} (h : s.mru.Recorded) : s.runCycle.mru.Recorded := by
  unfold State.runCycle
  dsimp only
  split
  · exact h.update rfl (fun _ _ => rfl) rfl rfl rfl rfl rfl rfl
  · exact h.update rfl (fun _ _ => rfl) rfl rfl rfl rfl rfl rfl

/-- A console mark above the chainage seen raises it (log 50), so the mark stands in order behind the last entry. -/
theorem Mru.Recorded.consoleMarked {s : State} (h : s.mru.Recorded) (code : Half) (runTime chainage : Word) :
    (s.consoleMarked code runTime chainage).mru.Recorded := by
  unfold State.consoleMarked
  split
  · exact h
  · rename_i hm
    split
    · exact h.reportLoss 1
    · refine Mru.Recorded.joinQueue (s := s.modMru fun m => m.advanceTo chainage) (h.advanceTo chainage) rfl ?_
      unfold State.modMru Mru.advanceTo
      dsimp only
      split <;> exact hm

end Sys2Proof.Machine
end

