-- ==== Sys2Proof/Laws/Writes.lean ====
section
/-! SUPPORT. The frame of every command: the blocks it may change, and the proof that it changes no other. -/
set_option linter.unusedTactic false
set_option linter.unreachableTactic false

namespace Sys2Proof.Machine

/-- The parts of the state. -/
inductive Block
  | mem | port | rif | bdr | sps | msc | trm | hlc | geu | lvc | htc | fdc | mru | inbox | pending
  deriving DecidableEq, Repr

/-- Two states agree on a part. -/
def State.agree (s t : State) : Block → Prop
  | .mem => t.mem = s.mem
  | .port => t.port = s.port
  | .rif => t.rif = s.rif
  | .bdr => t.bdr = s.bdr
  | .sps => t.sps = s.sps
  | .msc => t.msc = s.msc
  | .trm => t.trm = s.trm
  | .hlc => t.hlc = s.hlc
  | .geu => t.geu = s.geu
  | .lvc => t.lvc = s.lvc
  | .htc => t.htc = s.htc
  | .fdc => t.fdc = s.fdc
  | .mru => t.mru = s.mru
  | .inbox => t.inbox = s.inbox
  | .pending => t.pending = s.pending

/-- The parts a command may change. A reset changes all but the shared region and the queue; a timer's expiry may move the
run time and the closing clock (log 2). -/
def Instr.writes : Instr → List Block
  | .powerOnReset | .softReset _ =>
    [.port, .rif, .bdr, .sps, .msc, .trm, .hlc, .geu, .lvc, .htc, .fdc, .mru, .inbox]
  | .runStart | .orderlyStop | .ignoredRegisterWrite _ =>
    [.rif, .inbox]
  | .resume | .sweep _ =>
    [.bdr]
  | .regionBaseWrite _ | .attentionClear _ | .attentionEnableWrite _ =>
    [.rif]
  | .layoutReadDone _ | .startupSlotReadDone _ | .startupWriteDone =>
    [.mem, .port, .rif, .bdr, .inbox]
  | .stopComplete =>
    [.port, .rif, .inbox]
  | .noteReadIndexDone _ | .noteWriteDone | .summaryWriteDone =>
    [.mem, .port, .rif]
  | .haltAsserted | .chainageAdvanceAtMsc | .travelStatusAtMsc | .referenceStatusAtMsc
  | .runStatusAtMsc _ =>
    [.port, .rif, .msc, .inbox]
  | .haltReleased =>
    [.port, .rif, .msc]
  | .sweepTimerExpiry =>
    [.rif, .bdr, .htc, .inbox]
  | .slotReadDone _ | .stagedWriteDone | .outcomeWriteDone | .withdrawnWriteDone =>
    [.mem, .port, .rif, .bdr]
  | .chainageReportAtBdr =>
    [.port, .bdr, .inbox]
  | .runStatusAtBdr =>
    [.port, .rif, .bdr, .inbox]
  | .setState _ | .clearSafe _ =>
    [.port, .rif, .bdr, .msc, .inbox]
  | .autoPauseTimerExpiry =>
    [.port, .rif, .msc, .htc, .inbox]
  | .setSide =>
    [.port, .rif, .bdr, .msc, .lvc, .inbox]
  | .setFeed =>
    [.port, .rif, .bdr, .msc, .fdc, .inbox]
  | .setValue | .adjustValue | .swapValue | .patchPage
  | .confirmPage =>
    [.port, .bdr, .sps, .inbox]
  | .readValue | .withdraw =>
    [.port, .bdr]
  | .loadPage =>
    [.port, .bdr, .sps]
  | .imageReadDone _ =>
    [.mem, .port, .bdr, .sps, .inbox]
  | .paveEntryAtSps =>
    [.sps, .inbox]
  | .goodFrame _ | .busError | .runStatusAtTrm =>
    [.port, .rif, .trm, .inbox]
  | .travelTimerExpiry =>
    [.port, .rif, .trm, .htc, .inbox]
  | .rearmBus =>
    [.port, .rif, .bdr, .trm, .inbox]
  | .setChainage =>
    [.port, .bdr, .trm, .inbox]
  | .machineStateAtTrm | .filterHandoff =>
    [.trm, .inbox]
  | .quietIntervalEnd | .characterTimeout | .housekeepingEnd _ | .junctionProbeEnd _
  | .headProbeEnd _ | .headTransactionEnd _ | .scannerRequest | .headMapNewlyInForce =>
    [.port, .rif, .hlc, .inbox]
  | .roundTimerExpiry | .strokeTimerExpiry | .probeTimerExpiry =>
    [.port, .rif, .hlc, .htc, .inbox]
  | .headMapWithdrawn | .modeHandoffAtHlc =>
    [.hlc, .inbox]
  | .runStatusAtHlc =>
    [.port, .rif, .hlc, .lvc, .inbox]
  | .clearFaultJunction | .clearFaultHead =>
    [.port, .rif, .bdr, .hlc, .inbox]
  | .strokeHeadStateChange _ | .strokePollHandoff _ | .headTableRebuildAtGeu | .geometryPageHandoff
  | .liveStrokeHandoff =>
    [.geu, .inbox]
  | .roundMemberDelivery | .headTableRebuildAtLvc =>
    [.port, .rif, .lvc, .inbox]
  | .sideModeHandoff _ | .headStateChangeAtLvc =>
    [.lvc, .inbox]
  | .pulseEnd _ =>
    [.rif, .lvc, .htc]
  | .capture | .jog =>
    [.port, .bdr, .lvc]
  | .zoneSample _ _ _ | .confirmTimerExpiry _ _ | .reportAgeExpiry =>
    [.port, .rif, .htc]
  | .maxOnExpiry _ | .arbiterTimerExpiry =>
    [.rif, .htc]
  | .generatorReport | .generatorAbsence | .budgetSettingHandoff =>
    [.port, .rif, .htc, .inbox]
  | .heatingLevelHandoff | .geometryAtHtc | .zoneMapNewlyInForce | .zoneMapWithdrawn
  | .runStatusAtHtc =>
    [.htc, .inbox]
  | .setZone | .clearFaultZone =>
    [.port, .bdr, .htc]
  | .feedModeHandoff _ | .machineStateAtFdc | .speedHandoff | .geometryAtFdc =>
    [.fdc, .inbox]
  | .sensePeriodExpiry _ =>
    [.rif, .htc, .fdc]
  | .onTimeEnd _ _ | .graceExpiry _ | .stallExpiry _ =>
    [.port, .rif, .htc, .fdc]
  | .speedPulse _ =>
    [.fdc]
  | .clearFaultChannel =>
    [.port, .bdr, .fdc]
  | .pauseStartAtMru | .pauseEndAtMru | .recordsModeHandoff | .consoleMarkAtMru
  | .scannerResult | .sweepExpiryAtMru | .runStatusAtMru =>
    [.port, .rif, .mru, .inbox]
  | .chainageAdvanceAtMru | .travelStatusAtMru | .geometryAtMru | .scannerStateAtMru =>
    [.mru, .inbox]
  | .fallbackTimerExpiry | .exposureTimerExpiry =>
    [.rif, .htc, .mru, .inbox]
  | .referenceTimerExpiry =>
    [.port, .rif, .htc, .mru, .inbox]
  | .cycleTimerExpiry =>
    [.rif, .htc, .mru]
  | .pageSearchReadDone _ | .entryWriteDone =>
    [.mem, .port, .rif, .mru]
  | .pageCloseDone =>
    [.mem, .port, .rif, .bdr, .mru]
  | .mark | .flushRecords =>
    [.port, .rif, .bdr, .mru]

set_option maxHeartbeats 4000000 in
/-- A command changes no part of the state that Instr.writes does not list for it. -/
theorem exec_writes (c : Instr) (s t : State) (h : exec c s = .next t) (b : Block) (hb : b ∉ Instr.writes c) :
    s.agree t b := by
  cases c <;> cases h <;> (repeat' split) <;> (try have hf := State.take_frame (by assumption)) <;> cases b <;> first
    | exact absurd (List.elem_iff.1 rfl) hb
    | (show _ = _; simp [hf]; done)
    | (show _ = _; simp; done)
    | (show _ = _; simp [State.resetAll]; done)
    | (show _ = _; repeat' first | (simp; done) | split | dsimp only)

end Sys2Proof.Machine
end

