-- ==== Sys2Proof/Tests/Slice0.lean ====
section
/-! SUPPORT. The model's own tests: what WellFormed refuses, worked examples of the manual, and for every statement states
that meet its hypotheses, clause by clause, at the values where clauses meet. -/
set_option synthInstance.maxSize 4096
set_option synthInstance.maxHeartbeats 400000
set_option maxRecDepth 4096
set_option Elab.async false

namespace Sys2Proof.Test
open Sys2Proof.Machine

/-! ## Small states -/

/-- The state a command gives; the state itself where it gives none. -/
def reach (s : State) (c : Instr) : State := match exec c s with | .next t => t | _ => s

/-- A run in progress: eight slots at 0x1000, two pages at 0x4000, the note strip at 0x2000, the machine bus listening, the
report made at reset taken. -/
def live : State := { State.reset with
  rif := { Rif.reset with runStatus := .running, layout := some ⟨0x1000, 8, 2, 0x4000, 0x2000⟩, runTime := 5000 }
  bdr := { Bdr.reset with runSeen := .running }
  msc := { Msc.reset with runSeen := .running }
  trm := { Trm.reset with runSeen := .running, busState := .listening }
  hlc := { Hlc.reset with runSeen := .running }
  htc := { Htc.reset with runSeen := .running }
  mru := { Mru.reset with runSeen := .running }
  inbox := [] }

/-- One hand-off waits. -/
def handed (s : State) (h : Handoff) : State := { s with inbox := [⟨false, h⟩] }

/-- An order of a kind. -/
def order (k : OrderKind) (subject : Byte) (a b : Word) : Order :=
  ⟨3, 7, 9, BitVec.ofNat 8 k.code, false, false, false, subject, a, b, 0⟩

/-- An order with STRICT. -/
def strictOrder (k : OrderKind) (subject : Byte) (a b : Word) : Order := { order k subject a b with strict := true }

/-- An order staged at a station. -/
def stagedOrder (slot : Nat) (stamp : Half) (station : Word) : Order :=
  ⟨slot, 1, stamp, BitVec.ofNat 8 OrderKind.readValue.code, false, false, true, 0, 0, 0, station⟩

/-- The order stands with its owner. -/
def owned (s : State) (o : Order) : State :=
  s.modBdr fun b => { b with activity := .executing, execution := some ⟨o, .clear, .atOwner⟩ }

/-- A machine state, with every effective mode recomputed. -/
def inState (s : State) (m : MachineState) : State :=
  (s.modMsc fun x => { x with state := m }).modMsc fun x => x.recompute .ok .ok

/-- A zone of MAIN_L in a state, with a rating in watts. -/
def zone (rating : Nat) (st : ZoneState) : Zone :=
  ⟨.mainL, rating, 0, 0, 0, st, none, none, none, 0, none, 0, none, none⟩

/-- The left side's reference is LOST. -/
def lost (s : State) : State :=
  s.modLvc fun l => { l with sides := l.sides.set .left { l.sides.left with status := .lost } }

/-- The outcome BDR is writing for the order in execution: its state, result and reason. -/
def outcome (s : State) : Option (SlotState × Word × Reason) :=
  match s.bdr.op with
  | .outcomeWrite o => some (o.state, o.result, o.reason)
  | _ => none

/-- A hand-off that waits alone is the first of its channel. -/
theorem handed_first (s : State) (h : Handoff) (channel : Handoff → Prop) (hc : channel h) :
    (handed s h).FirstWaiting channel h [] :=
  ⟨[], false, [], rfl, rfl, hc, fun x hx => by simp at hx, fun _ x hx => by simp at hx⟩

/-! ## WellFormed refuses -/

theorem test_refuses_hostWriteOutside : (Instr.layoutReadDone [(2 ^ 20, 0)]).wellFormed = false ∧
    (Instr.layoutReadDone [(2 ^ 20 - 1, 0)]).wellFormed = true := by decide +kernel
theorem test_refuses_softResetWithoutReset : (Instr.softReset 1).wellFormed = false ∧
    (Instr.softReset 2).wellFormed = true := by decide
theorem test_refuses_standardIdentifier : (Instr.goodFrame ⟨0x800, false, false, 0, []⟩).wellFormed = false ∧
    (Instr.goodFrame ⟨0x7FF, false, false, 0, []⟩).wellFormed = true ∧
    (Instr.goodFrame ⟨0x800, true, false, 0, []⟩).wellFormed = true := by decide +kernel
theorem test_refuses_lengthCode : (Instr.goodFrame ⟨0, false, true, 16, []⟩).wellFormed = false ∧
    (Instr.goodFrame ⟨0, false, true, 15, []⟩).wellFormed = true := by decide +kernel
theorem test_refuses_frameLength : (Instr.goodFrame ⟨0, false, false, 2, [1]⟩).wellFormed = false ∧
    (Instr.goodFrame ⟨0, false, true, 1, [1]⟩).wellFormed = false ∧
    (Instr.goodFrame ⟨0, false, false, 1, [1]⟩).wellFormed = true := by decide +kernel
theorem test_refuses_temperature : (Instr.zoneSample 0 32768 0).wellFormed = false ∧
    (Instr.zoneSample 0 (-32769) 0).wellFormed = false ∧ (Instr.zoneSample 0 32767 2000).wellFormed = true := by decide
theorem test_refuses_current : (Instr.zoneSample 0 0 2001).wellFormed = false ∧
    (Instr.confirmTimerExpiry 0 2001).wellFormed = false ∧ (Instr.confirmTimerExpiry 0 2000).wellFormed = true := by decide
theorem test_refuses_sample : (Instr.onTimeEnd 0 1001).wellFormed = false ∧
    (Instr.onTimeEnd 0 1000).wellFormed = true := by decide

/-! ## Steps and registers -/

theorem test_witness_StepRunsTheFrontCommand :
    ({ State.reset with pending := [.runStart] } : State).pending = [.runStart] ∧ State.reset.pending = [] := by decide

/-- Time brought to an expiry ahead, at the bound of 2^31 ms, past, and where the run time does not count. -/
theorem test_witness_time : (live.runTo 5100).rif.runTime = 5100 ∧ (live.runTo 5100).htc.clock = 100 ∧
    (live.runTo (5000 + 0x7FFFFFFF)).rif.runTime = 5000 + 0x7FFFFFFF ∧ live.runTo (5000 + 0x80000000) = live ∧
    live.runTo 4999 = live ∧ live.runTo 5000 = live ∧ (State.reset.runTo 7).rif.runTime = 0 ∧
    (State.reset.runTo 7).htc.clock = 7 := by decide +kernel

theorem test_witness_ResetGivesTheValuesOfEveryBlock : (2 : Word).getLsbD 1 = true ∧
    (reach live (.softReset 2)).rif.runStatus = .stopped ∧ State.reset.readRegister .ident = 0x0A460460#32 := by
  decide +kernel

theorem test_witness_RunStartsAndStops :
    (reach State.reset .runStart).rif.runStatus = .starting ∧
    (reach (live.modRif fun r => { r with runStatus := .stopped }) .runStart).inbox.length = 6 ∧
    (reach (live.modRif fun r => { r with runStatus := .stopped }) .runStart).rif.runTime = 0 ∧
    (reach live .runStart).rif.runStatus = .running ∧
    (reach live .orderlyStop).rif.runStatus = .stopping ∧
    (reach State.reset .orderlyStop).rif.runStatus = .stopped ∧
    (let stopping := (live.modRif fun r => { r with runStatus := .stopping, boardQuiet := true, recordsQuiet := true }).modMsc
       fun m => { m with runSeen := .stopping }
     let side (f : SideRecord → SideRecord) := stopping.modLvc fun l => { l with sides := l.sides.set .left (f l.sides.left) }
     let after (s : State) := (reach s .stopComplete).rif.runStatus
     after stopping = .stopped ∧ after (stopping.modRif fun r => { r with boardQuiet := false }) = .stopping ∧
     after (side fun x => { x with valve := .pulsingUp }) = .stopping ∧
     after (side fun x => { x with modeSeen := .manual }) = .stopping ∧
     after (stopping.modMsc fun m => { m with runSeen := .running }) = .stopping ∧
     after (handed stopping (.runStatus .msc .stopping)) = .stopping ∧
     after (handed stopping (.sideMode .right .auto)) = .stopping ∧
     after (handed stopping (.heatingLevel .off)) = .stopping ∧
     after (stopping.modHtc fun h => { h with levelSeen := .hold }) = .stopping ∧
     (let zones (st : ZoneState) := stopping.modHtc fun h => { h with zones := [zone 500 .disabled, zone 500 st] }
      after (zones .disabled) = .stopped ∧ after (zones .fault) = .stopped ∧ after (zones .closing) = .stopping ∧
      after (zones .on) = .stopping) ∧
     after (handed stopping (.runStatus .mru .stopping)) = .stopped) := by decide +kernel

theorem test_witness_RegisterWritesAndInterrupt :
    (reach State.reset (.regionBaseWrite 0x12345678)).rif.regionBase = 0x12345000#32 ∧
    (reach live (.regionBaseWrite 0x12345678)).rif.regionBase = 0#32 ∧
    (reach (live.modRif fun r => { r with attention := 0x3F#6 }) (.attentionClear 5)).rif.attention = 0x3A#6 ∧
    (reach live (.attentionEnableWrite 0xFFFFFFC1)).rif.attentionEnable = 1#6 ∧
    ((live.setCause .outcome).modRif fun r => { r with attentionEnable := 0x3F#6 }).interruptOutput = true ∧
    (live.setCause .outcome).interruptOutput = false ∧
    [RunStatus.stopped, .starting, .running, .stopping].map (fun x => (live.modRif fun r =>
      { r with runStatus := x }).readRegister .control) = [0x00#32, 0x11#32, 0x21#32, 0x30#32] ∧
    ((live.setCause .outcome).readRegister .attention = 1#32) ∧ live.readRegister .sweep = 0#32 := by decide +kernel

/-- A layout block of the host: a board at 0x1000, 2 pages at 0x4000, the note strip at 0x2000. -/
def layoutWrites (slots : Nat) : HostWrites :=
  let bytes := leBytes 4 0x1000 ++ leBytes 2 slots ++ leBytes 2 2 ++ leBytes 4 0x4000 ++ leBytes 4 0x2000 ++ leBytes 4 0
  (List.range bytes.length).zip bytes

theorem test_witness_RunStartReadsLayoutAndBoard :
    let starting := State.reset.modRif fun r => { r with runStatus := .starting, layoutRead := true }
    let reading (k : Nat) := live.modBdr fun b => { b with op := .startupRead k }
    (reach starting (.layoutReadDone (layoutWrites 7))).rif.runStatus = .stopped ∧
    (reach starting (.layoutReadDone (layoutWrites 8))).bdr.op = .startupRead 0 ∧
    (reach (reading 6) (.startupSlotReadDone [])).bdr.op = .startupRead 7 ∧
    (reach (reading 7) (.startupSlotReadDone [])).bdr.op = .none ∧
    (reach (reading 7) (.startupSlotReadDone [])).rif.runTime = 0 ∧
    (reach (reach (reading 7) (.startupSlotReadDone [(0x1000 + 48 * 7 + 22, 3)])) .startupWriteDone).rif.attention ≠ 0 ∧
    (reach (reach (reading 6) (.startupSlotReadDone [(0x1000 + 48 * 6 + 22, 2)])) .startupWriteDone).bdr.op
      = .startupRead 7 ∧
    (let asked := starting.modRif fun r => { r with rewritePending := true }
     (reach asked (.layoutReadDone (layoutWrites 8))).rif.summaryWrite.isSome = true ∧
     (reach asked (.layoutReadDone (layoutWrites 7))).rif.rewritePending = false) ∧
    layoutOk ⟨0x1000, 128, 2, 0x4000, 0x3000⟩ 0 = true ∧ layoutOk ⟨0x1000, 129, 2, 0x4000, 0x3000⟩ 0 = false ∧
    layoutOk ⟨0x1000, 128, 2, 0x4000, 0x2800⟩ 0 = true ∧ layoutOk ⟨0x1000, 128, 2, 0x4000, 0x27F0⟩ 0 = false ∧
    layoutOk ⟨0x1000, 8, 2, 0x4000, 0x3000⟩ 1 = false := by decide +kernel

theorem test_witness_NotesAndSummaryRewrites :
    State.reset.postNote .badStep 0 0 = State.reset ∧
    (live.postNote .badStep 0 0).rif.noteOp = .readIndex ∧
    (let full := live.modRif fun r => { r with noteQueue := List.replicate 16 ⟨.badStep, 0, 0, 0, 0⟩ }
     (full.postNote .badStep 0 0).rif.notesLost = 1 ∧ (full.postNote .badStep 0 0).rif.summaryWrite.isSome = true ∧
     ((full.requestRewrite).requestRewrite).rif.rewritePending = true) ∧
    (let asked := live.postNote .badStep 0 0
     (reach asked (.noteReadIndexDone [])).rif.noteOp = .write ∧
     (reach (asked.modRif fun r => { r with noteWriteIndex := 63 }) (.noteReadIndexDone [])).rif.noteOp = .write ∧
     (reach (asked.modRif fun r => { r with noteWriteIndex := 64 }) (.noteReadIndexDone [])).rif.notesLost = 1 ∧
     (reach (reach asked (.noteReadIndexDone [])) .noteWriteDone).rif.noteWriteIndex = 1 ∧
     (reach live.requestRewrite .summaryWriteDone).rif.summaryWrite = none ∧
     (reach (live.requestRewrite).requestRewrite .summaryWriteDone).rif.rewriteSequence = 2) ∧
    State.reset.requestRewrite = State.reset ∧
    (let unread := live.modRif fun r => { r with layoutRead := true }
     unread.requestRewrite.rif.rewritePending = true ∧ unread.requestRewrite.port = [] ∧
     (reach ((live.requestRewrite).modRif fun r => { r with layoutRead := true, rewritePending := true })
       .summaryWriteDone).port = []) ∧
    (let asked := ((live.issueWrite .note [(0x2000, [1])]).issueWrite .summary [(0x100, [2])]).issueWrite .board
       [(0x1016, [3])]
     (asked.writeDone .summary).mem = [(0x100, 2), (0x2000, 1)] ∧ (asked.writeDone .summary).port.length = 1 ∧
     asked.writeDone .page = asked ∧ asked.landAll.port = [] ∧ asked.mem.wf = true) ∧
    (let block := ((inState live .pave).modTrm fun t => { t with travel := .silent }).summaryBytes 0x01020304
     let field (offset length : Nat) := leNat ((block.drop offset).take length)
     field 0 4 = 0x01020304 ∧ field 252 4 = 0x01020304 ∧ field 4 1 = 2 ∧ field 5 1 = 2 ∧ field 20 4 = 0x01020102 ∧
     field 28 4 = 5000 ∧ field 80 4 = 0 ∧ (State.reset.summaryBytes 1)[5]? = some 0) ∧
    (⟨.halt, 7, 0xFFFFFFFF, 5000, 9⟩ : NoteRequest).bytes =
      [23, 7, 0, 0, 255, 255, 255, 255, 0x88, 0x13, 0, 0, 9, 0, 0, 0] := by decide +kernel

/-! ## The board -/

theorem test_witness_SweepRequests :
    (reach live (.sweep 0)).bdr.op = .slotRead 0 ∧
    (reach (owned live (order .mark 0 0 0)) (.sweep 9)).bdr.pendingSweep = true ∧
    (reach State.reset (.sweep 0)).bdr = Bdr.reset ∧
    (reach (live.modBdr fun b => { b with status := .held }) .resume).bdr.op = .slotRead 0 ∧
    (reach live .resume).bdr.op = .none ∧
    (reach (live.modBdr fun b => { b with sweepTimer := some 5100 }) .sweepTimerExpiry).rif.runTime = 5100 ∧
    (reach (live.modBdr fun b => { b with sweepTimer := some 5100 }) .sweepTimerExpiry).inbox = [⟨false, .sweepExpiry⟩] ∧
    live.bdr.sweepTimer = none := by decide +kernel

/-- The host's writes of a POSTED READ_VALUE order of setting 12 in slot 0, with its check word raised by `off`. -/
def postedWrites (off : Nat) (flags : Byte) (station : Nat) : HostWrites :=
  let request : List Byte := leBytes 2 9 ++ [BitVec.ofNat 8 OrderKind.readValue.code, flags, 12, 0, 0, 0] ++ leBytes 4 0 ++
    leBytes 4 0 ++ leBytes 4 station
  let bytes := request ++ leBytes 2 ((crc16 request).toNat + off) ++ [1]
  ((List.range bytes.length).map (0x1000 + ·)).zip bytes

theorem test_witness_SlotReadDone :
    let reading := live.modBdr fun b => { b with activity := .reading, op := .slotRead 0 }
    (reach reading (.slotReadDone [])).bdr.activity = .idle ∧
    (reach (reading.modBdr fun b => { b with pendingSweep := true }) (.slotReadDone [])).bdr.op = .slotRead 0 ∧
    (reach (reading.modBdr fun b => { b with pendingSweep := true, status := .held }) (.slotReadDone [])).bdr.activity
      = .idle ∧
    (reach reading (.slotReadDone (postedWrites 0 0 0))).bdr.cursor = 1 ∧
    (reach reading (.slotReadDone (postedWrites 1 0 0))).bdr.status = .held ∧
    (reach (reading.modBdr fun b => { b with runSeen := .stopping }) (.slotReadDone [])).rif.boardQuiet = true ∧
    (reach (reading.modBdr fun b => { b with staging := [stagedOrder 1 1 0] }) (.slotReadDone [])).bdr.staging = [] := by
  decide +kernel

/-- The state bytes about POSTED, TAKEN and STAGED, and the request fields at bytes that all differ. -/
theorem test_witness_slotLayout :
    (let state (b : Byte) : List Byte := List.replicate 22 0 ++ [b]
     [0, 1, 2].map (fun b => slotPosted (state b)) = [false, true, false] ∧
     [1, 2, 3, 4].map (fun b => slotHeld (state b)) = [false, true, true, false]) ∧
    (let o := orderOfSlot ((List.range 48).map (BitVec.ofNat 8)) 5 6
     o = ⟨5, 6, 0x0100, 2, true, true, false, 4, 0x0B0A0908, 0x0F0E0D0C, 0x13121110⟩ ∧ o.settingId = 4 ∧ o.zone = 4) ∧
    (let subject (b : Byte) := orderOfSlot [0, 0, 0, 0, b] 0 0
     (subject 46).settingId = 46 ∧ (subject 3).page = .geometry ∧ (subject 1).side = .right ∧ (subject 0).side = .left ∧
     (subject 23).zone = 23 ∧ (subject 3).channel = 3) := by decide +kernel

/-- The history at 31 and at 32 outcomes. -/
theorem test_witness_history :
    let h (n : Nat) : List HistoryEntry := (List.range n).map fun i => ⟨BitVec.ofNat 32 i, .done⟩
    pushHistory (h 31) ⟨31, .done⟩ = h 32 ∧ pushHistory (h 32) ⟨32, .done⟩ = (h 33).tail := by decide +kernel

/-- Sixteen staged orders. -/
def fullStaging : List Order := (List.range 16).map fun i => stagedOrder (i + 10) (BitVec.ofNat 16 (i + 20)) 100

theorem test_witness_TakenOrderIsCheckedStagedOrBegun :
    let reading := live.modBdr fun b => { b with activity := .reading, op := .slotRead 0 }
    let ahead := reach reading (.slotReadDone (postedWrites 0 4 1))
    (reach reading (.slotReadDone (postedWrites 0 4 0))).bdr.staging = [] ∧
    ahead.bdr.staging.length = 1 ∧ ahead.bdr.op = .stagedWrite 0 ∧
    (reach ahead .stagedWriteDone).mem.read (0x1000 + 22) = BitVec.ofNat 8 SlotState.staged.code ∧
    (let full := reading.modBdr fun b => { b with staging := fullStaging }
     outcome (reach full (.slotReadDone (postedWrites 0 4 1))) = some (.refused, 0, .stageFull) ∧
     (reach (full.modBdr fun b => { b with staging := b.staging.drop 1 })
       (.slotReadDone (postedWrites 0 4 1))).bdr.staging.length = 16) ∧
    outcome (reach (reading.modBdr fun b => { b with staging := [stagedOrder 1 9 100] })
      (.slotReadDone (postedWrites 0 4 1))) = some (.refused, 0, .duplicateStamp) ∧
    outcome (reach reading (.slotReadDone (postedWrites 0 2 0))) = some (.skipped, 0, .chain) ∧
    outcome (reach (reading.modBdr fun b => { b with history := [⟨0, .done⟩] })
      (.slotReadDone (postedWrites 0 2 0))) = none ∧
    ahead.mem.read (0x1000 + 22) = BitVec.ofNat 8 SlotState.taken.code ∧ ahead.port.length = 1 ∧
    (let check (k : OrderKind) (subject : Byte) (b : Word) := live.bdr.takeCheck (order k subject 0 b)
     check .setValue 46 0 = none ∧ check .setValue 47 0 = some .badSubject ∧ check .clearFault 23 0 = none ∧
     check .clearFault 4 1 = some .badSubject ∧ check .clearFault 15 2 = none ∧ check .clearFault 3 3 = some .badSubject ∧
     check .clearFault 0 4 = some .badSubject ∧ check .mark 255 0 = none) ∧
    live.bdr.takeCheck { order .mark 0 0 0 with kind := 0 } = some .badKind ∧
    (let staged (slot : Nat) (stamp : Half) := { live.bdr with staging := [stagedOrder slot stamp 0] }
     (staged 3 9).takeCheck (order .mark 0 0 0) = some .duplicateStage ∧
     (staged 4 9).takeCheck (order .mark 0 0 0) = none) ∧
    stageInsert ([stagedOrder 1 1 5] ++ [stagedOrder 2 2 6]) (stagedOrder 4 4 5)
      = [stagedOrder 1 1 5, stagedOrder 4 4 5, stagedOrder 2 2 6] := by decide +kernel

theorem test_witness_OutcomeWriteDone :
    let s := owned live (order .readValue 12 0 0)
    let writing := reach s .readValue
    (reach writing .outcomeWriteDone).bdr.history = [⟨7, .done⟩] ∧
    (reach writing .outcomeWriteDone).bdr.activity = .idle ∧
    (reach writing .outcomeWriteDone).rif.outcomesWritten = 1 ∧
    (reach (writing.modBdr fun b => { b with sweepContinuing := true }) .outcomeWriteDone).bdr.op = .slotRead 0 ∧
    (reach (writing.modBdr fun b => { b with pendingSweep := true }) .outcomeWriteDone).bdr.op = .slotRead 0 ∧
    (reach (writing.modBdr fun b => { b with sweepContinuing := true, status := .held }) .outcomeWriteDone).bdr.activity
      = .idle ∧
    (reach (writing.modBdr fun b => { b with staging := [stagedOrder 1 1 0] }) .outcomeWriteDone).bdr.activity
      = .executing ∧
    (reach (writing.modBdr fun b => { b with runSeen := .stopping }) .outcomeWriteDone).rif.boardQuiet = true ∧
    (let o : SlotOutcome := ⟨.refused, 0, .clear, .check, 0, 0⟩
     (reach (live.modBdr fun b => { b with op := .checkWrite 0 o }) .outcomeWriteDone).bdr.history = [] ∧
     (reach (live.modBdr fun b => { b with op := .stopWrite (stagedOrder 1 1 0) o }) .outcomeWriteDone).rif.boardQuiet
       = true) := by decide +kernel

theorem test_witness_ChainageAndRunStatusAtBdr :
    let waits := live.modBdr fun b => { b with staging := [stagedOrder 1 1 100] }
    (reach (handed waits (.chainageToBdr 99)) .chainageReportAtBdr).bdr.staging.length = 1 ∧
    (reach (handed waits (.chainageToBdr 100)) .chainageReportAtBdr).bdr.staging = [] ∧
    (reach (handed (waits.modBdr fun b => { b with activity := .reading }) (.chainageToBdr 100))
      .chainageReportAtBdr).bdr.staging.length = 1 ∧
    (reach (handed waits (.runStatus .bdr .stopping)) .runStatusAtBdr).bdr.activity = .executing ∧
    (reach (handed live (.runStatus .bdr .stopping)) .runStatusAtBdr).rif.boardQuiet = true ∧
    (reach (handed waits (.runStatus .bdr .running)) .runStatusAtBdr).bdr.staging = [] ∧
    (reach (handed waits (.runStatus .bdr .starting)) .runStatusAtBdr).bdr.runSeen = .starting := by decide +kernel

theorem test_witness_OrdersEndAndAreWithdrawn :
    let s (a : Word) := (owned live (order .withdraw 0 a 0)).modBdr fun b => { b with staging := [stagedOrder 1 5 100] }
    (s 5).orderOf .withdraw = some (order .withdraw 0 5 0) ∧ (s 5).bdr.execution.isSome = true ∧
    outcome (reach (s 65536) .withdraw) = some (.refused, 0, .range) ∧
    outcome (reach (s 65535) .withdraw) = some (.refused, 0, .notStaged) ∧
    (reach (s 5) .withdraw).bdr.staging = [] ∧
    outcome (reach (reach (s 5) .withdraw) .withdrawnWriteDone) = some (.done, 1, .none) := by decide +kernel

/-! ## Machine states and modes -/

theorem test_witness_SetStateAndClearSafe :
    let ready := live.modSps fun p =>
      { p with zoneMap := ⟨p.zoneMap.bytes, true⟩, headMap := ⟨p.headMap.bytes, true⟩, geometry := ⟨p.geometry.bytes, true⟩ }
    let go (s : State) (target : Byte) (halt : HaltLevel) :=
      outcome (reach (owned s (order .setState target 0 0)) (.setState halt))
    (owned live (order .setState 1 0 0)).orderOf .setState = some (order .setState 1 0 0) ∧
    go live 6 .released = some (.refused, 0, .badSubject) ∧
    go (live.modMsc fun m => { m with runSeen := .stopping }) 1 .released = some (.refused, 0, .stopped) ∧
    go live 2 .released = some (.refused, 0, .wrongState) ∧
    go live 1 .asserted = some (.refused, 0, .haltActive) ∧
    go live 1 .released = some (.refused, 0, .pageInvalid) ∧
    go ready 1 .released = some (.done, 0, .none) ∧
    go (inState live .heatup) 2 .released = some (.refused, 0, .pageInvalid) ∧
    go ((inState ready .pause).modMsc fun m => { m with pauseCause := some .auto }) 3 .released = some (.done, 3, .none) ∧
    go ((inState ready .pause).modMsc fun m => { m with pauseCause := some .order }) 3 .released
      = some (.refused, 0, .wrongState) ∧
    (let clear (s : State) (halt : HaltLevel) := outcome (reach (owned s (order .clearSafe 0 0 0)) (.clearSafe halt))
     clear live .released = some (.refused, 0, .wrongState) ∧
     clear (inState live .safe) .asserted = some (.refused, 0, .haltActive) ∧
     clear (inState live .safe) .released = some (.done, 5, .none) ∧
     clear (live.modMsc fun m => { m with runSeen := .stopping }) .released = some (.refused, 0, .stopped)) := by
  decide +kernel

theorem test_witness_TransitionWritesStateAndHandsOn :
    let t := (inState live .transit).transition .pave none .order
    t.inbox.head? = some ⟨false, .paveEntry⟩ ∧ t.msc.records = .run ∧
    (t.transition .safe none .halt).msc.heating = .off ∧ (t.transition .safe none .halt).rif.attention ≠ 0 ∧
    ⟨true, .recordsMode .run⟩ ∈ t.inbox := by decide +kernel

theorem test_witness_HaltAndAutoPause :
    (reach (inState live .pave) .haltAsserted).msc.state = .safe ∧
    (reach (inState live .safe) .haltAsserted).rif.noteQueue.length = 1 ∧
    (reach live .haltReleased).rif.noteQueue.length = 1 ∧
    (reach State.reset .haltAsserted).msc.haltSeen = .asserted ∧ (reach State.reset .haltReleased).rif.noteQueue = [] ∧
    (let paving := (inState live .pave).modMsc fun m => { m with autoPause := some 5100, travelSeen := .live }
     (reach paving .autoPauseTimerExpiry).msc.pauseCause = some .auto ∧
     (reach (paving.modMsc fun m => { m with travelSeen := .silent }) .autoPauseTimerExpiry).msc.state = .pave ∧
     (reach (handed paving .advanceToMsc) .chainageAdvanceAtMsc).msc.autoPause
       = some (5000 + BitVec.ofInt 32 (live.setting Setting.pauseDelay)) ∧
     (reach (handed (paving.modMsc fun m => { m with travelSeen := .silent }) .advanceToMsc)
       .chainageAdvanceAtMsc).msc.autoPause = none ∧
     (reach (handed ((inState live .pause).modMsc fun m => { m with pauseCause := some .auto }) .advanceToMsc)
       .chainageAdvanceAtMsc).msc.state = .pave ∧
     (reach (handed ((inState live .pause).modMsc fun m => { m with pauseCause := some .order }) .advanceToMsc)
       .chainageAdvanceAtMsc).msc.state = .pause) := by decide +kernel

theorem test_witness_ReportsAndRunStatusAtMsc :
    (reach (handed (inState live .pave) (.travelToMsc .live)) .travelStatusAtMsc).msc.autoPause.isSome = true ∧
    (reach (handed live (.travelToMsc .live)) .travelStatusAtMsc).msc.autoPause = none ∧
    (reach (handed (lost (inState (live.modMsc fun m => { m with sideRequested := ⟨.auto, .off⟩ }) .pave))
      (.referenceToMsc .left)) .referenceStatusAtMsc).msc.sideEffective.left = .hold ∧
    (reach (handed live (.runStatus .msc .running)) (.runStatusAtMsc .asserted)).msc.state = .safe ∧
    (reach (handed live (.runStatus .msc .running)) (.runStatusAtMsc .released)).msc.state = .standby ∧
    (reach (handed (inState live .pave) (.runStatus .msc .stopping)) (.runStatusAtMsc .released)).msc.state = .standby ∧
    (reach (handed (inState live .safe) (.runStatus .msc .stopping)) (.runStatusAtMsc .released)).msc.state = .safe ∧
    (reach (handed (inState live .safe) (.runStatus .msc .stopped)) (.runStatusAtMsc .released)).msc.state = .standby := by
  decide +kernel

theorem test_witness_SetSideAndSetFeed :
    let side (s : State) (a b : Word) := outcome (reach (owned s (order .setSide 0 a b)) .setSide)
    let slopeRight := live.modLvc fun l => { l with sides := l.sides.set .right { l.sides.right with kind := .slope } }
    side live 3 0 = some (.refused, 0, .range) ∧ side live 2 2 = some (.refused, 0, .range) ∧
    side slopeRight 2 1 = some (.refused, 0, .slopeTaken) ∧ side slopeRight 1 0 = some (.done, 0, .none) ∧
    side (inState live .pave) 1 0 = some (.done, 1, .none) ∧
    (reach (owned live (order .setSide 0 2 1)) .setSide).lvc.sides.left.kind = .slope ∧
    (let feed (s : State) (o : Order) := outcome (reach (owned s o) .setFeed)
     feed live (order .setFeed 0 0 4) = some (.refused, 0, .range) ∧
     feed live (strictOrder .setFeed 0 1001 1) = some (.refused, 0, .range) ∧
     feed (inState live .pave) (strictOrder .setFeed 0 1000 1) = some (.done, 1, .none) ∧
     ((reach (owned live (order .setFeed 3 1001 3)) .setFeed).fdc.channels[3]).manual = 1000) := by decide +kernel

/-- R152: an order that itself brings MANUAL drives its demand from the event that stores it, from OFF, from an automatic
mode, and where an older mode still waits; JAMMED it stores the demand alone; a mode of a PAVE entry not yet taken holds the
modes back (R5). States that meet the last clauses of SetSideAndSetFeed. -/
theorem test_setFeed_drives_manual :
    let given (s : State) (c : Byte) (a : Word) := reach (owned s (order .setFeed c a 1)) .setFeed
    let seen (s : State) (run : FeedState) (mode : FeedMode) : State :=
      s.modFdc fun d => { d with channels := d.channels.set 2 { d.channels[2] with
        run := run, modeSeen := mode, level := some 100, senseTimer := .period 5200 } }
    let auto := seen (inState (live.modMsc fun m => { m with feedRequested := m.feedRequested.set 2 .autoLevel }) .pave)
      .running .autoLevel
    let drives (s : State) (demand : Nat) := s.fdc.channels[2].demand = demand ∧ s.fdc.channels[2].run = .running ∧
      s.fdc.channels[2].modeSeen = .manual ∧ s.fdc.channels[2].senseTimer = .stopped ∧
      s.inbox.all (fun w => !Handoff.feedOf 2 w.handoff) = true
    (order .setFeed 2 400 1).channel = 2 ∧
    drives (given (inState live .heatup) 2 400) 400 ∧ drives (given auto 2 1001) 1000 ∧
    drives (given { auto with inbox := [⟨true, .feedMode 2 .autoFlow⟩] } 2 70) 70 ∧
    ((given (seen auto .jammed .autoLevel) 2 400).fdc.channels[2].manual = 400 ∧
      (given (seen auto .jammed .autoLevel) 2 400).fdc.channels[2].demand = 0) ∧
    (let held := given { seen auto .idle .off with inbox := [⟨false, .paveEntry⟩, ⟨true, .feedMode 2 .autoLevel⟩] } 2 400
     held.fdc.channels[2].manual = 400 ∧ held.fdc.channels[2].modeSeen = .off ∧
     (held.inbox.filter fun w => Handoff.feedOf 2 w.handoff) =
       [⟨true, .feedMode 2 .autoLevel⟩, ⟨false, .feedMode 2 .manual⟩]) := by decide +kernel

/-! ## Settings and pages -/

theorem test_witness_ValueOrdersAndPaveEntry :
    (owned live (order .setValue 0 0 0)).orderOf .setValue = some (order .setValue 0 0 0) ∧
    (owned live (order .adjustValue 0 0 0)).orderOf .adjustValue = some (order .adjustValue 0 0 0) ∧
    (owned live (order .swapValue 0 0 0)).orderOf .swapValue = some (order .swapValue 0 0 0) ∧
    outcome (reach (owned (inState live .pave) (order .setValue 43 1 0)) .setValue) = some (.refused, 0, .wrongState) ∧
    outcome (reach (owned live (strictOrder .setValue 12 0x7FFFFFFF 0)) .setValue) = some (.refused, 0, .range) ∧
    (let v := (settingSpec 12).high
     outcome (reach (owned live (strictOrder .setValue 12 (BitVec.ofInt 32 v) 0)) .setValue)
       = some (.done, BitVec.ofInt 32 v, .none)) ∧
    ((reach (owned (inState live .pave) (order .setValue 31 0x7FFFFFFF 0)) .setValue).sps.entries[(31 : Nat)]).pending
      = some (settingSpec 31).high ∧
    (let pend := live.modSps fun p => { p with entries := p.entries.set 31 ⟨250, some 500⟩ }
     ((reach (handed pend .paveEntry) .paveEntryAtSps).sps.entries[(31 : Nat)]) = ⟨500, none⟩ ∧
     outcome (reach (owned pend (order .swapValue 31 250 0)) .swapValue) = some (.done, 500, .none) ∧
     outcome (reach (owned pend (order .adjustValue 31 1 0)) .adjustValue) = some (.done, 501, .none)) := by decide +kernel

theorem test_witness_ReadValue :
    (owned live (order .readValue 46 0 0)).orderOf .readValue = some (order .readValue 46 0 0) ∧
    outcome (reach (owned live (order .readValue 46 0 0)) .readValue)
      = some (.done, BitVec.ofInt 32 (settingSpec 46).resetValue, .none) := by decide +kernel

/-- A ZONE_MAP of one zone of 500 W in a section. -/
def oneZone (sect : Byte) : List Byte := [1, 0, 0, 0, sect, 3, 4, 5, 0xF4, 1, 0, 0] ++ List.replicate 184 0

/-- The count and first item of a HEAD_MAP: a head of a kind and side at port 6 of the right junction, position 4. -/
def oneHead (kind side : Byte) : List Byte := [1, 0, 0, 0, 1, 6, kind, side, 4, 0, 0, 0]

theorem test_witness_LoadAndPatchPage :
    let load (s : State) (k : Byte) (a : Word) := reach (owned s (order .loadPage k a 0)) .loadPage
    outcome (load (inState live .pave) 0 0x8000) = some (.refused, 0, .wrongState) ∧
    outcome (load live 0 0x8004) = some (.refused, 0, .range) ∧
    outcome (load live 3 0xFFFFF) = some (.refused, 0, .range) ∧
    (load live 3 0xFFFF8).sps.load = some ⟨.geometry, 0xFFFF8, 3⟩ ∧
    outcome (load live 3 0x100000) = some (.refused, 0, .range) ∧
    (load (inState live .pave) 2 0x8000).sps.load = some ⟨.filter, 0x8000, 3⟩ ∧
    (let image (bs : List Byte) : HostWrites :=
       ((List.range 6).map (0x8000 + ·)).zip (bs ++ leBytes 2 (crc16 bs).toNat)
     (reach (load live 3 0x8000) (.imageReadDone (image [0, 0, 0, 0]))).sps.geometry.valid = true ∧
     outcome (reach (load live 3 0x8000) (.imageReadDone [])) = some (.refused, 0, .check) ∧
     outcome (reach (load live 3 0x8000) (.imageReadDone (image [0xFF, 0xFF, 0, 0]))) = some (.refused, 0, .pageContent)) ∧
    (let patch (s : State) (k : Byte) (a b : Word) := reach (owned s (order .patchPage k a b)) .patchPage
     outcome (patch (inState live .pave) 3 0 0) = some (.refused, 0, .wrongState) ∧
     outcome (patch live 3 0xFFFFFFFF 0) = some (.refused, 0, .range) ∧
     outcome (patch live 3 2 0) = some (.refused, 0, .range) ∧
     outcome (patch live 3 0 0xFFFF) = some (.refused, 0, .range) ∧
     ((patch live 3 1 0).bdr.op ≠ .none) ∧
     (patch (live.modSps fun p => { p with geometry := ⟨p.geometry.bytes, true⟩ }) 3 1 0).inbox
       = [⟨false, .geometryWithdrawn⟩]) ∧
    (let place (k : PageKind) (index : Nat) := (patchField k index).map fun f => (f.offset, f.length)
     let allowed (k : PageKind) (index v : Nat) := (patchField k index).map fun f => f.ok v
     place .zoneMap 388 = some (191, 1) ∧ place .zoneMap 389 = none ∧ place .zoneMap 400 = none ∧ place .zoneMap 15 = none ∧
     place .headMap 260 = some (128, 1) ∧ place .headMap 261 = none ∧ place .filter 136 = some (171, 1) ∧
     place .filter 137 = none ∧ place .filter 0 = none ∧ place .geometry 1 = some (2, 2) ∧
     allowed .zoneMap 17 499 = some false ∧ allowed .zoneMap 17 500 = some true ∧ allowed .zoneMap 17 6001 = some false ∧
     allowed .filter 20 8 = some true ∧ allowed .filter 20 9 = some false ∧ allowed .filter 20 255 = some true) ∧
    inForceHand .zoneMap (oneZone 2) = .zoneMapInForce [⟨.extL, 500, 3, 4, 5⟩] ∧
    inForceHand .headMap (oneHead 1 0 ++ List.replicate 120 0) = .headMapInForce [⟨.right, 6, .sonic, some .left, 4⟩] := by
  decide +kernel

theorem test_witness_ConfirmPage :
    let confirm (s : State) (b : Word) := reach (owned s (order .confirmPage 3 0 b)) .confirmPage
    let crc : Word := (crc16 [0, 0, 0, 0]).zeroExtend 32
    (owned live (order .confirmPage 3 0 0)).orderOf .confirmPage = some (order .confirmPage 3 0 0) ∧
    outcome (confirm live (crc + 1)) = some (.refused, 0, .check) ∧
    (confirm live crc).sps.geometry.valid = true ∧ (confirm live crc).inbox = [⟨false, .geometryInForce 0 0⟩] ∧
    (confirm (confirm live crc) crc).inbox = [⟨false, .geometryInForce 0 0⟩] ∧
    outcome (confirm (live.modSps fun p => { p with geometry := ⟨[0xFF, 0xFF, 0, 0], false⟩ }) crc)
      = some (.refused, 0, .pageContent) ∧
    pageOk .zoneMap (oneZone 5) = true ∧ pageOk .zoneMap (oneZone 6) = false ∧
    pageOk .zoneMap (2 :: (oneZone 5).tail) = false ∧ pageOk .zoneMap (List.replicate 196 0) = false ∧
    (let heads (kind side : Byte) := pageOk .headMap (oneHead kind side ++ List.replicate 120 0)
     heads 1 1 = true ∧ heads 1 2 = false ∧ heads 2 2 = true ∧ heads 2 0 = false ∧ heads 3 0 = true ∧ heads 4 2 = true ∧
     heads 5 2 = false ∧ pageOk .headMap (List.replicate 132 0) = false) ∧
    pageOk .filter (List.replicate 192 0) = true ∧
    pageOk .filter ([1, 0, 0, 0, 0, 0, 0, 0, 0, 8] ++ List.replicate 182 0) = false ∧
    pageOk .filter ([1, 1, 0, 0, 0, 0, 0, 0, 0, 8] ++ List.replicate 182 0) = true ∧
    pageOk .geometry [0xB8, 0x0B, 0, 0] = true ∧ pageOk .geometry [0xB9, 0x0B, 0, 0] = false := by decide +kernel

/-! ## Travel and the machine bus -/

/-- Filters by purpose: 0x100 travel, 0x101 generator, 0x102 console mark. -/
def listening : State :=
  let filters : List Filter := [⟨true, 0x100, 0x7FF, false, none, none, 0⟩, ⟨true, 0x101, 0x7FF, false, none, none, 1⟩,
    ⟨true, 0x102, 0x7FF, false, none, none, 2⟩]
  live.modTrm fun t => { t with filterUse := some filters }

/-- A good data frame with a standard identifier. -/
def frame (identifier : BitVec 29) (data : List Byte) : Instr := .goodFrame ⟨identifier, false, false, data.length, data⟩

theorem test_witness_GoodFrame :
    let charged := listening.modTrm fun t => { t with errorCounter := 2 }
    (reach State.reset (frame 0x100 [0, 0, 0, 0, 0])).trm = Trm.reset ∧
    (reach charged (.goodFrame ⟨0x100, false, true, 0, []⟩)).trm.errorCounter = 1 ∧
    (reach charged (frame 0x1FF [0, 0])).trm.errorCounter = 1 ∧
    (reach charged (frame 0x100 [0, 0, 0, 0])).trm.travel = .none ∧
    (reach charged (frame 0x100 [0, 0, 0, 0, 0])).trm.travel = .live ∧
    (reach charged (frame 0x101 [5])).trm.generator = none ∧
    (reach charged (frame 0x101 [5, 1])).trm.generator = some ⟨261, 5000⟩ ∧
    (reach charged (frame 0x102 [7, 0])).inbox = [⟨false, .consoleMark 7 5000 0⟩] ∧
    (live.trm.match ⟨0x100, false, false, 0, []⟩ = none) := by decide +kernel

theorem test_witness_TravelFrameSteps :
    let paving := listening.modTrm fun t => { t with machineSeen := .pave, lastCount := some 0xFFFF, chainage := 10 }
    let travel (s : State) (count : Nat) (back : Byte) := reach s (frame 0x100 (leBytes 2 count ++ [back] ++ leBytes 2 7))
    (travel listening 5 0).trm.lastCount = some 5 ∧ (travel listening 5 0).trm.chainage = 0 ∧
    (travel paving 4 0).trm.chainage = 15 ∧ (travel paving 4 0).trm.speed = 7 ∧
    (travel paving 4 1).trm.chainage = 10 ∧ (travel paving 0xFFFF 0).trm.chainage = 10 ∧
    (travel (paving.modTrm fun t => { t with machineSeen := .transit }) 4 0).trm.chainage = 10 ∧
    (travel (paving.modTrm fun t => { t with chainage := 0xFFFFFFFE }) 4 0).trm.chainage = 0xFFFFFFFF ∧
    (let maxStep := (settingSpec 39).resetValue.toNat
     (travel paving (maxStep - 1) 0).trm.chainage = BitVec.ofNat 32 (10 + maxStep) ∧
     (travel paving maxStep 0).trm.badStepReported = true) ∧
    (let out := listening.modTrm fun t => { t with travel := .silent, outageStart := some 4000 }
     (travel out 0 0).rif.noteQueue.map (·.value) = [1000] ∧ (travel out 0 0).inbox.length = 2 ∧
     (let full := out.modRif fun r => { r with noteQueue := List.replicate 16 ⟨.badStep, 0, 0, 0, 0⟩ }
      let first := ((travel full 0 0).rif.summaryWrite.getD [])
      fieldAt first 22 1 = TravelStatus.live.code ∧ fieldAt first 48 4 = 1 ∧
      (travel full 0 0).rif.rewritePending = true)) := by decide +kernel

theorem test_witness_BusErrorTravelTimerAndRearm :
    let charged (n : Nat) := listening.modTrm fun t => { t with errorCounter := n }
    (reach State.reset .busError).trm.errorCounter = 0 ∧
    (reach (charged 30) .busError).trm.errorCounter = 31 ∧ (reach (charged 30) .busError).trm.busState = .listening ∧
    (reach (charged 31) .busError).trm.busState = .unreliable ∧ (reach (charged 31) .busError).trm.travel = .lost ∧
    (let timed (st : TravelStatus) := listening.modTrm fun t => { t with travel := st, travelTimer := some ⟨5100, 400⟩ }
     (reach (timed .live) .travelTimerExpiry).trm.travel = .silent ∧
     (reach (timed .live) .travelTimerExpiry).rif.noteQueue.map (·.value) = [400] ∧
     (reach (timed .none) .travelTimerExpiry).trm.travel = .none) ∧
    (let o := order .rearmBus 0 0 0
     outcome (reach (owned (charged 3) o) .rearmBus) = some (.done, 3, .none) ∧
     (reach (owned (reach (charged 31) .busError) o) .rearmBus).trm.travel = .silent ∧
     outcome (reach (owned (reach (charged 31) .busError) o) .rearmBus) = some (.done, 32, .none)) ∧
    (let shown (s : State) := s.rif.summaryWrite.map fun b => (b[22]?, b[23]?)
     shown (reach ((charged 31).modTrm fun t => { t with travel := .live }) .busError) = some (some 3, some 2) ∧
     shown (reach (owned ((charged 32).modTrm fun t => { t with travel := .lost, busState := .unreliable })
       (order .rearmBus 0 0 0)) .rearmBus) = some (some 2, some 1)) := by decide +kernel

theorem test_witness_SetChainageAndHandoffsAtTrm :
    let set (s : State) := reach (owned s (order .setChainage 0 0 77)) .setChainage
    outcome (set (live.modTrm fun t => { t with machineSeen := .pause })) = some (.refused, 0, .wrongState) ∧
    outcome (set (live.modBdr fun b => { b with staging := [stagedOrder 1 1 1] })) = some (.refused, 0, .stagedPending) ∧
    (set live).trm.chainage = 77 ∧
    (reach (handed live (.machineToTrm .pave)) .machineStateAtTrm).trm.machineSeen = .pave ∧
    (reach (handed live (.filterInForce [])) .filterHandoff).trm.filterUse = some [] ∧
    (reach (handed listening .filterWithdrawn) .filterHandoff).trm.filterUse = none ∧
    (reach (handed live (.runStatus .trm .stopping)) .runStatusAtTrm).trm.runSeen = .stopping ∧
    (reach (handed State.reset (.runStatus .trm .starting)) .runStatusAtTrm).trm.busState = .listening ∧
    (reach (handed (live.modTrm fun t => { t with busState := .unreliable, travel := .lost }) (.runStatus .trm .starting))
      .runStatusAtTrm).trm.outageStart = some 0 ∧
    (reach (handed (live.modTrm fun t => { t with travel := .silent }) (.runStatus .trm .stopped)) .runStatusAtTrm).trm.travel
      = .none := by decide +kernel

theorem test_witness_ChainageNeverFalls :
    exec .busError live = .next (reach live .busError) ∧ Instr.busError ≠ .setChainage := ⟨rfl, by decide⟩

/-! ## The head link -/

/-- A character of a byte with its odd parity and its stop bit. -/
def char (d : Byte) : LinkChar := ⟨d, !(List.range 8).foldl (fun p i => p ^^ d.getLsbD i) false, true⟩

/-- A head at port 1 of the left junction. -/
def head (kind : HeadKind) (side : Option Side) (state : HeadState) (counter : Nat) : Head :=
  ⟨.left, 1, kind, side, 0, state, counter, 0, .none⟩

/-- A link with these heads and the left junction in a state. -/
def linked (heads : List Head) (j : Junction) : State := live.modHlc fun h =>
  { (h.setJunction .left j) with heads := heads, mapInForce := true }

/-- A junction READY in the plain mode. -/
def ready : Junction := ⟨.ready, 0, some .plain, none, none⟩

/-- The transaction of a request on the line. -/
def onLine (s : State) (r : LinkRequest) : State :=
  match s.transactionOf r with
  | some t => s.modHlc fun h => { h with line := .busy t }
  | none => s

/-- The transaction on the line was begun before a rebuild of the head table. -/
def stale (s : State) : State := s.modHlc fun h =>
  { h with line := match h.line with | .busy t => .busy { t with stale := true } | l => l }

theorem test_witness_LinkTransactionsBegin :
    let s := linked [head .sonic (some .left) .active 0, head .scanner none .unconfirmed 0] ready
    let quiet (r : LinkRequest) := s.modHlc fun h => { h with line := .quiet r }
    (reach (quiet (.member 0)) .quietIntervalEnd).hlc.line
      = .busy ⟨.member 0, 0, .left, 1, .reading, [], some .plain, false⟩ ∧
    (reach (quiet (.member 9)) .quietIntervalEnd).hlc.line = .free ∧
    (s.transactionOf (.member 1)).map (·.command) = some .status ∧
    (reach (onLine s (.member 0)) .characterTimeout).hlc.heads.map (·.counter) = [1, 0] ∧
    ((linked [] { ready with sequence := some ⟨.sync, .clear⟩ }).transactionOf (.step .left)).map (·.command) = some .clear ∧
    ((linked [] { ready with sequence := some ⟨.sync, .setMode⟩ }).transactionOf (.step .left)).map (·.command)
      = some .setMode ∧
    ((linked [] { ready with sequence := some ⟨.sync, .jstatus⟩ }).transactionOf (.step .left)).map (·.command)
      = some .jstatus ∧
    (reach (onLine (linked [] { ready with state := .resync, sequence := some ⟨.sync, .setMode⟩ }) (.step .left))
      .characterTimeout).hlc.junctions.left.failures = 1 ∧
    (reach (onLine (linked [] ⟨.down, 3, none, none, some 0⟩) (.junctionProbe .left)) .characterTimeout).hlc.line = .free ∧
    (reach (onLine (linked [head .sonic (some .left) .dropped 12] ready) (.headProbe 0)) .characterTimeout).hlc.heads.map
      (·.counter) = [13] ∧
    (reach (stale (onLine s (.member 0))) .characterTimeout).inbox = [] ∧
    (reach (stale (onLine s (.scanner 1 .line))) .characterTimeout).inbox
      = [⟨false, .scannerAnswer .failed (some .unconfirmed)⟩] ∧
    (let sent (c : LinkCommand) (payload : List Byte) (mode : LinkMode) (received : List LinkChar) :=
       ((⟨.member 0, 0, .left, 1, c, payload, some mode, false⟩ : Transaction).sends received).map (·.data)
     (sent .reading [] .plain []).length = 1 ∧
     (sent .reading [] .plain [char 0x21]).length = 2 ∧ (sent .reading [] .plain [char 0x22]).length = 1 ∧
     (sent .clear [0] .plain [char 0x21]).length = 3 ∧ (sent .clear [0] .checked [char 0x22]).length = 4 ∧
     (sent .setMode [1] .plain [char 0x22]).length = 4) := by decide +kernel

/-- R173's check values, and the answers of 12.8 with and without their parity. -/
theorem test_checks_and_answers :
    (let digits : List Byte := [0x31, 0x32, 0x33, 0x34, 0x35, 0x36, 0x37, 0x38, 0x39]
     crc16 digits = 0x29B1 ∧ crc8 digits = 0xF4) ∧
    [0x21, 0x22, 0x41, 0x42, 0x23].map (fun b => charAnswer (char b)) =
      [some .ackPlain, some .ackChecked, some .nakEmpty, some .nakLatched, none] ∧
    charAnswer { char 0x21 with parity := !(char 0x21).parity } = none := by decide +kernel

theorem test_witness_LinkTransactionsEnd :
    let s := linked [head .sonic (some .left) .active 0, head .scanner none .active 0] ready
    let answer := [char 0x21, char 0x34, char 0x12, char 0]
    (reach (onLine s (.member 0)) (.headTransactionEnd answer)).inbox
      = [⟨false, .delivery ⟨0, 0, .reading 0x1234 .valid, .active⟩⟩] ∧
    (reach (stale (onLine s (.member 0))) (.headTransactionEnd answer)).inbox = [] ∧
    (reach (stale (onLine s (.scanner 1 .trigger))) (.headTransactionEnd [char 0x21])).inbox.length = 1 ∧
    (reach (onLine s (.member 0)) (.headTransactionEnd [char 0x22])).hlc.line ≠ .free ∧
    (reach (onLine s (.member 0)) (.headTransactionEnd (answer.take 3))).hlc.heads.map (·.counter) = [1, 0] ∧
    (reach (onLine (linked [head .sonic (some .left) .dropped 16] ready) (.headProbe 0))
      (.headProbeEnd [char 0x21, char 1, char 1])).hlc.heads.map (·.counter) = [12] ∧
    (reach (onLine (linked [] ⟨.down, 3, none, none, some 1000⟩) (.junctionProbe .left))
      (.junctionProbeEnd [char 0x21])).rif.noteQueue.map (·.value) = [4000] ∧
    (reach (onLine (linked [] ⟨.resync, 0, none, some ⟨.sync, .setMode⟩, none⟩) (.step .left))
      (.housekeepingEnd [char 0x22])).hlc.junctions.left.sequence = some ⟨.sync, .clear⟩ ∧
    (let t (mode : LinkMode) : Transaction := ⟨.member 0, 0, .left, 1, .reading, [], some mode, false⟩
     ((t .checked).judge [char 0x22, char 1, char 2, char 0, char ((t .checked).check [1, 2, 0])]).1 = .good ∧
     ((t .checked).judge [char 0x22, char 1, char 2, char 0, char ((t .checked).check [1, 2, 0] + 1)]).1 = .charError ∧
     ((t .plain).judge [char 0x21, char 1, ⟨2, false, false⟩, char 0]).1 = .charError ∧
     ((t .plain).judge [char 0x42]).1 = .nakLatched ∧ ((t .plain).judge [char 0x41]).1 = .nakEmpty) := by
  decide +kernel

theorem test_witness_JunctionSequences :
    let step (j : Junction) (answer : List LinkChar) :=
      (reach (onLine (linked [] j) (.step .left)) (.housekeepingEnd answer)).hlc.junctions.left
    let resync (failures : Nat) (mode : Option LinkMode) (q : SequenceStep) : Junction :=
      ⟨.resync, failures, mode, some ⟨.sync, q⟩, none⟩
    (step ⟨.latched, 1, some .plain, some ⟨.recover, .clear⟩, none⟩ [char 0x21]).state = .ready ∧
    (step (resync 0 (some .plain) .clear) [char 0x21]).sequence = some ⟨.sync, .jstatus⟩ ∧
    (step (resync 0 (some .plain) .jstatus) [char 0x21, char 0]).state = .ready ∧
    (step (resync 0 (some .plain) .jstatus) [char 0x21, char 1]).failures = 1 ∧
    (step (resync 0 (some .plain) .jstatus) [char 0x21, char 2]).failures = 1 ∧
    (step (resync 2 (some .plain) .clear) []).state = .down ∧ (step (resync 1 (some .plain) .clear) []).failures = 2 ∧
    (let t : Transaction := ⟨.step .left, 0, .left, 7, .clear, [0], some .plain, false⟩
     let s := linked [] (resync 0 (some .plain) .setMode)
     s.housekeepingStep t .left .good [] = s ∧ ready.state = .ready ∧
     ((linked [] ready).junctionProbed t .left .good) = linked [] ready) ∧
    ((live.headJunction .left .timeout).hlc = live.hlc) ∧
    ((linked [] ready).headJunction .left .timeout).hlc.junctions.left.state = .latched ∧
    ((linked [] ready).headJunction .left .modeMismatch).hlc.junctions.left.state = .resync := by decide +kernel

theorem test_witness_HeadCharges :
    chargedState .active 7 = (.active, none) ∧ chargedState .active 8 = (.suspect, some .headSuspect) ∧
    chargedState .suspect 16 = (.dropped, some .headDropped) ∧ chargedState .suspect 3 = (.active, none) ∧
    (let poll (x : Head) (answer : List LinkChar) :=
       reach (onLine (linked [x] ready) (.member 0)) (.headTransactionEnd answer)
     let unconfirmed (counter : Nat) := head .sonic (some .left) .unconfirmed counter
     (poll (unconfirmed 8) [char 0x21, char 1, char 1]).hlc.heads.map (·.state) = [.active] ∧
     (poll (unconfirmed 9) [char 0x21, char 1, char 1]).hlc.heads.map (·.state) = [.suspect] ∧
     (poll (unconfirmed 9) [char 0x21, char 1, char 0]).hlc.heads.map (·.state) = [.unconfirmed] ∧
     (poll (unconfirmed 0) [char 0x21, char 3, char 1]).hlc.heads.map (·.state) = [.mismatch] ∧
     (poll (head .sonic (some .left) .active 7) []).hlc.heads.map (·.state) = [.suspect] ∧
     (poll (head .sonic (some .left) .active 7) [char 0x42]).hlc.heads.map (·.counter) = [7]) ∧
    (let probe (counter : Nat) (answer : List LinkChar) :=
       reach (onLine (linked [head .sonic (some .left) .dropped counter] ready) (.headProbe 0)) (.headProbeEnd answer)
     (probe 12 [char 0x21, char 1, char 1]).hlc.heads.map (·.counter) = [8] ∧
     (probe 11 [char 0x21, char 1, char 1]).hlc.heads.map (·.state) = [.active] ∧
     (probe 11 []).hlc.heads.map (·.counter) = [12]) ∧
    (let stroke := linked [head .stroke (some .left) .active 0] ready
     (reach (onLine stroke (.stroke 0)) (.headTransactionEnd [char 0x21, char 9, char 0, char 0])).inbox
       = [⟨false, .strokePoll .left (.reading 9 .valid) .active⟩]) ∧
    (let latched (s : State) (r : LinkRequest) := reach (onLine s r) (.headTransactionEnd [char 0x42])
     let sonic := linked [head .sonic (some .left) .active 0] ready
     let inRound := sonic.modHlc fun h => { h with roundInProgress := true, members := [1] }
     (latched inRound (.member 0)).hlc.members = [0, 1] ∧
     (latched sonic (.member 0)).inbox = [⟨false, .delivery ⟨0, 0, .notPolled, .active⟩⟩] ∧
     (latched (linked [head .stroke (some .left) .active 0] ready) (.stroke 0)).hlc.strokes = [0] ∧
     (latched (linked [head .scanner none .active 0] ready) (.scanner 0 .line)).hlc.scanner = [.scanner 0 .line] ∧
     (let probed (st : HeadState) (waits : List LinkRequest) (map : Bool) :=
        (reach ((onLine (linked [head .sonic none st 16] ready) (.headProbe 0)).modHlc fun h =>
          { h with probes := waits, mapInForce := map }) (.headProbeEnd [char 0x42])).hlc.probes
      probed .dropped [] true = [.headProbe 0] ∧ probed .active [] true = [.headProbe 0] ∧
      probed .unconfirmed [.headProbe 0] true = [.headProbe 0, .headProbe 0] ∧ probed .dropped [] false = [])) ∧
    (let scanner (st : HeadState) (n : Nat) := (linked [head .scanner none st n] ready).modHlc fun h =>
       { h with scanner := [.scanner 0 .line] }
     let answer (s : State) (received : List LinkChar) :=
       (reach (onLine s (.scannerStatus 0)) (.headTransactionEnd received)).inbox.map (·.handoff)
     answer (scanner .unconfirmed 0) [char 0x21, char 4, char 1] = [.scannerState (some .active)] ∧
     answer (scanner .suspect 15) []
       = [.scannerAnswer .statusFailed (some .dropped), .scannerState (some .dropped),
          .scannerAnswer .notIssued (some .dropped)]) := by decide +kernel

theorem test_witness_LinkTimersAndRequests :
    let heads := [head .sonic (some .left) .active 0, head .slope none .dropped 16, head .stroke (some .left) .active 0,
      head .scanner none .active 0]
    let s := (linked heads ready).modHlc fun h =>
      { h with roundTimer := some 5100, strokeTimer := some 5100, probeTimer := some 5100 }
    (reach s .roundTimerExpiry).hlc.roundNumber = 1 ∧
    (reach s .roundTimerExpiry).inbox = [⟨false, .delivery ⟨1, 1, .notPolled, .dropped⟩⟩] ∧
    (reach s .strokeTimerExpiry).hlc.line = .quiet (.stroke 2) ∧
    (reach s .probeTimerExpiry).hlc.line = .quiet (.headProbe 1) ∧
    (reach (handed s (.scannerRequest .trigger)) .scannerRequest).hlc.line = .quiet (.scanner 3 .trigger) ∧
    (reach (handed live (.scannerRequest .trigger)) .scannerRequest).inbox
      = [⟨false, .scannerAnswer .notIssued none⟩] ∧
    (reach (handed (linked [head .scanner none .unconfirmed 0] ready) (.scannerRequest .line)) .scannerRequest).hlc.scanner
      = [.scanner 0 .line] ∧
    (let ended := s.modHlc fun h => { h with line := .quiet (.member 0), members := [1], roundInProgress := true }
     ended.endRound.inbox.length = 2 ∧ ended.endRound.hlc.line = .free) ∧
    (let down := (linked heads ⟨.down, 3, none, none, some 0⟩).modHlc fun h => { h with members := [0] }
     down.schedule.hlc.heads.map (·.counter) = [1, 16, 0, 0] ∧
     down.schedule.inbox = [⟨false, .delivery ⟨0, 0, .failed, .active⟩⟩] ∧ down.schedule.hlc.probeTimer.isSome = true) ∧
    (let missed (i : Nat) := State.miss (linked (heads ++ [head .slope none .unconfirmed 15]) ⟨.down, 3, none, none, some 0⟩)
       (.headProbe i) i
     (missed 0).hlc.heads.map (·.counter) = [1, 16, 0, 0, 15] ∧ (missed 0).inbox = [⟨false, .headFailedToLvc 0 .active⟩] ∧
     (missed 1).hlc.heads.map (·.counter) = [0, 16, 0, 0, 15] ∧ (missed 1).inbox = [⟨false, .headFailedToLvc 1 .dropped⟩] ∧
     (missed 4).inbox = [⟨false, .headFailedToLvc 4 .dropped⟩, ⟨false, .headStateToLvc 4 .dropped⟩]) ∧
    ((linked heads ⟨.down, 3, none, none, some 0⟩).hlc.setJunction .centre ⟨.down, 3, none, none, some 0⟩).newProbes
      = [.junctionProbe .left, .junctionProbe .centre, .headProbe 1] ∧
    ((linked [head .sonic none .active 0] ready).schedule.hlc.probeTimer = none) ∧
    (let asked (st : HeadState) := (linked [head .scanner none st 0] ready).modHlc fun h =>
       { h with scanner := [.scanner 0 .line] }
     (asked .unconfirmed).schedule.inbox = [⟨false, .scannerAnswer .notIssued (some .unconfirmed)⟩] ∧
     (asked .suspect).schedule.hlc.line = .quiet (.scanner 0 .line)) ∧
    (reach (handed live (.sideModeToHlc .left .auto)) .modeHandoffAtHlc).hlc.sideModes.left = .auto ∧
    (reach (handed live (.recordsModeToHlc .run)) .modeHandoffAtHlc).hlc.recordsMode = .run := by decide +kernel

theorem test_witness_HeadTableRunsAndFaultClears :
    (reach (handed live (.headMapInForce [⟨.left, 1, .sonic, some .left, 0⟩])) .headMapNewlyInForce).hlc.heads.map (·.state)
      = [.unconfirmed] ∧
    (reach (handed (linked [head .sonic (some .left) .active 3] ready) .headMapWithdrawn) .headMapWithdrawn).hlc.mapInForce
      = false ∧
    (let run (st : RunStatus) :=
       reach (handed (linked [head .sonic (some .left) .active 3] ready) (.runStatus .hlc st)) .runStatusAtHlc
     (run .running).hlc.heads.map (·.state) = [.unconfirmed] ∧ (run .running).hlc.junctions.left.state = .resync ∧
     (run .running).hlc.junctions.right.state = .unknown ∧ (run .stopped).hlc.runSeen = .stopped ∧
     (run .stopping).hlc.heads.map (·.counter) = [3]) ∧
    (let clear (s : State) := reach (owned s (order .clearFault 0 0 3)) .clearFaultJunction
     outcome (clear (linked [] ready)) = some (.refused, 0, .notFaulted) ∧
     outcome (clear (linked [] ⟨.down, 3, none, none, some 0⟩)) = some (.done, 3, .none) ∧
     outcome (clear ((linked [] ⟨.down, 3, none, none, some 0⟩).modHlc fun h => { h with mapInForce := false }))
       = some (.done, 3, .none)) ∧
    (let clear (s : State) := reach (owned s (order .clearFault 0 0 2)) .clearFaultHead
     outcome (clear live) = some (.refused, 0, .notFaulted) ∧
     outcome (clear (linked [head .sonic (some .left) .active 3] ready)) = some (.refused, 0, .notFaulted) ∧
     outcome (clear (linked [head .sonic (some .left) .mismatch 3] ready)) = some (.refused, 0, .wrongState) ∧
     outcome (clear (linked [head .sonic (some .left) .dropped 16] ready)) = some (.done, 16, .none)) ∧
    (let s := linked [head .sonic (some .left) .active 3, head .scanner none .active 0] ready
     (onLine s (.member 0)).makeStale.inbox = [⟨false, .delivery ⟨0, 0, .notPolled, .active⟩⟩] ∧
     (stale (onLine s (.member 0))).makeStale.inbox = [] ∧ (onLine s (.scanner 1 .line)).makeStale.inbox = [] ∧
     s.makeStale = s ∧
     (let waits := s.modHlc fun h => { h with line := .quiet (.scanner 1 .line), members := [0] }
      waits.dropWaiting.inbox.length = 2 ∧ waits.dropWaiting.hlc.line = .free)) := by decide +kernel

/-! ## Geometry -/

theorem test_witness_GeometryFollowsStrokesAndPages :
    let good := live.modGeu fun g =>
      { g with headSeen := ⟨some .active, some .active⟩, geometry := { g.geometry with width := .good } }
    let step := (settingSpec 41).resetValue.toNat
    let poll (v : Nat) (st : ReadingStatus) :=
      reach (handed good (.strokePoll .left (.reading (BitVec.ofNat 16 v) st) .active)) (.strokePollHandoff .left)
    (poll step .valid).geu.stroke.left = step ∧ (poll step .valid).geu.geometry.sequence = 1 ∧
    (poll (step - 1) .valid).geu.stroke.left = 0 ∧ (poll 2500 .invalid).geu.stroke.left = 0 ∧
    (poll 0xFFFF .valid).geu.stroke.left = 0 ∧ (poll 2501 .valid).geu.stroke.left = 2500 ∧
    (reach (handed good (.strokePoll .left .failed .suspect)) (.strokePollHandoff .left)).geu.geometry.width = .stale ∧
    (reach (handed good (.strokeState .right .dropped)) (.strokeHeadStateChange .right)).geu.geometry.width = .stale ∧
    (let both : State := { good with inbox :=
        [⟨false, .strokePoll .left .failed .suspect⟩, ⟨false, .strokeState .left .suspect⟩] }
     (reach both (.strokeHeadStateChange .left)).inbox.length = 4) ∧
    (reach (handed live (.rebuildToGeu (some .active) (some .active))) .headTableRebuildAtGeu).geu.geometry.width = .good ∧
    (reach (handed live (.geometryInForce 900 0)) .geometryPageHandoff).geu.geometry.halfLeft = 2400 ∧
    (reach (handed live .geometryWithdrawn) .geometryPageHandoff).geu.geometry.sequence = 1 ∧
    (reach (handed live .liveStroke) .liveStrokeHandoff).geu.geometry.sequence = 0 := by decide +kernel

/-! ## Levelling -/

/-- A levelling side in a mode, with three sonic heads on it. -/
def levelled (mode : SideMode) : State := live.modLvc fun l =>
  { l with
    heads := List.replicate 3 ⟨.sonic, some .left, 0, .active⟩
    sides := l.sides.set .left { l.sides.left with modeSeen := mode } }

/-- A good reading delivered. -/
def reading (round head : Nat) (v : Int) : Delivery := ⟨round, head, .reading (BitVec.ofInt 16 v) .valid, .active⟩

theorem test_witness_SidesFollowRoundsAndModes :
    let s := levelled .auto
    let opened := reach (handed s (.delivery (reading 1 0 5))) .roundMemberDelivery
    let next (t : State) (i : Nat) := reach (handed t (.delivery (reading 1 i 5))) .roundMemberDelivery
    (opened.lvc.sides.left.collections.map (·.round)) = [1] ∧ (next (next opened 1) 2).lvc.sides.left.collections = [] ∧
    (next (next opened 1) 2).lvc.sides.left.lastAverage = some 5 ∧
    (reach (handed s (.delivery (reading 0 0 5))) .roundMemberDelivery).lvc.sides.left.collections = [] ∧
    (reach (handed s (.headStateToLvc 1 .dropped)) .headStateChangeAtLvc).lvc.heads.map (·.state)
      = [.active, .dropped, .active] ∧
    (reach (handed s (.headFailedToLvc 2 .dropped)) .headStateChangeAtLvc).lvc.heads.map (·.state)
      = [.active, .active, .dropped] ∧
    (reach (handed s (.rebuildToLvc [])) .headTableRebuildAtLvc).lvc.sides.left.status = .lost ∧
    (reach (handed s (.sideMode .left .off)) (.sideModeHandoff .left)).lvc.sides.left.modeSeen = .off ∧
    (reach (handed s (.sideMode .left .hold)) (.sideModeHandoff .left)).lvc.sides.left.modeSeen = .hold ∧
    (reach (handed s (.sideMode .left .manual)) (.sideModeHandoff .left)).lvc.sides.left.modeSeen = .manual := by
  decide +kernel

theorem test_witness_CorrectionsMakeAveragesAndPulses :
    let s := levelled .auto
    let dead := (settingSpec 3).resetValue
    let correct (s : State) (v : Int) := s.correction .left [reading 1 0 v, reading 1 1 v, reading 1 2 v]
    ((levelled .off).correction .left [] = levelled .off) ∧
    (s.correction .left [reading 1 0 0]).lvc.sides.left.status = .lost ∧
    (s.correction .left [reading 1 0 0]).rif.noteQueue.map (fun n => (n.kind, n.value)) = [(.sideHold, 1)] ∧
    ((s.settleReference .left .lost 0).settleReference .left .ok 3).rif.noteQueue.map (fun n => (n.kind, n.value))
      = [(.sideHold, 0), (.sideRestored, 3)] ∧
    s.settleReference .left .ok 3 = s ∧
    (correct s dead).lvc.sides.left.valve = .idle ∧ (correct s (dead + 1)).lvc.sides.left.valve = .pulsingDown ∧
    (correct s (-dead - 1)).lvc.sides.left.valve = .pulsingUp ∧
    (correct (levelled .manual) (dead + 1)).lvc.sides.left.valve = .idle ∧
    meanReading [1, 2, -6] = -1 ∧ meanReading [10, 10, 10, 40] = 10 ∧ meanReading [1, 2, 3, 4, 100] = 2 ∧
    (let slope := s.modLvc fun l => { l with sides := l.sides.set .left { l.sides.left with kind := .slope } }
     (slope.correction .left [reading 1 0 1000]).lvc.sides.left.valve = .pulsingUp ∧
     (slope.correction .left [reading 1 0 0]).lvc.sides.left.valve = .idle ∧
     (slope.correction .left [⟨1, 0, .failed, .active⟩]).lvc.sides.left.status = .lost) ∧
    (let p : Pulse := ⟨.up, 100⟩
     ((s.givePulse .left p).givePulse .left p).lvc.sides.left.valve = .pulsingUp ∧
     ((s.givePulse .left p).givePulse .left ⟨.down, 50⟩).lvc.sides.left.valve = .reversalGap ∧
     (((s.givePulse .left p).givePulse .left ⟨.down, 50⟩).givePulse .left p).lvc.sides.left.waiting = some p) := by
  decide +kernel

theorem test_witness_PulseEnd :
    let pulsing := (levelled .auto).givePulse .left ⟨.up, 100⟩
    let gap := pulsing.givePulse .left ⟨.down, 50⟩
    pulsing.lvc.sides.left.pulseEnd = some 5100 ∧ (reach pulsing (.pulseEnd .left)).lvc.sides.left.valve = .idle ∧
    (reach gap (.pulseEnd .left)).lvc.sides.left.valve = .pulsingDown ∧
    (reach (gap.modLvc fun l => { l with sides := l.sides.set .left { l.sides.left with waiting := none } })
      (.pulseEnd .left)).lvc.sides.left.valve = .idle := by decide +kernel

theorem test_witness_Capture :
    let capture (s : State) := reach (owned s (order .capture 0 0 0)) .capture
    let averaged := (levelled .auto).modLvc fun l =>
      { l with sides := l.sides.set .left { l.sides.left with lastAverage := some 50, rebase := 8 } }
    outcome (capture live) = some (.refused, 0, .wrongState) ∧
    (averaged.lvc.sides.left.kind = .grade ∧ averaged.lvc.sides.left.status = .ok ∧
      averaged.lvc.sides.left.lastAverage = some 50) ∧
    (capture averaged).lvc.sides.left.zero = 42 ∧ (capture averaged).lvc.sides.left.rebase = 0 := by decide +kernel

theorem test_witness_JogGivesAPulse :
    let jog (s : State) (o : Order) := reach (owned s o) .jog
    let most := (settingSpec 8).resetValue.toNat
    outcome (jog (levelled .auto) (order .jog 0 0 100)) = some (.refused, 0, .wrongState) ∧
    outcome (jog (levelled .manual) (order .jog 0 2 100)) = some (.refused, 0, .range) ∧
    outcome (jog (levelled .manual) (strictOrder .jog 0 1 (BitVec.ofNat 32 (most + 1)))) = some (.refused, 0, .range) ∧
    outcome (jog (levelled .manual) (strictOrder .jog 0 1 (BitVec.ofNat 32 most)))
      = some (.done, BitVec.ofNat 32 most, .none) ∧
    (jog (levelled .manual) (order .jog 0 1 0)).lvc.sides.left.valve = .pulsingDown ∧
    ((levelled .manual).lvc.sides.left.takeMode .off).valve = .idle := by decide +kernel

/-! ## Heating -/

/-- A heated screed at level FULL with a budget in 0.1 kW, under a host's limit of 50 kW. -/
def heated (budget : Nat) (zones : List Zone) : State :=
  (live.modSps fun p => { p with entries := p.entries.set 16 ⟨500, none⟩ }).modHtc fun h =>
  { h with
    zones := zones, budget := budget, levelSeen := .full, enables := Vector.replicate 24 true
    waiting := (List.range zones.length).filter fun i => (zones[i]?).any fun z => z.state == .waiting }

theorem test_witness_ZoneSamplesAndTimers :
    let set := (settingSpec 12).resetValue
    let low := set - (settingSpec 14).resetValue - 1
    let sample (st : ZoneState) (t : Int) (c : Nat) :=
      ((reach (heated 100 [zone 1000 st]) (.zoneSample 0 t c)).htc.zones.map (·.state))
    (reach State.reset (.zoneSample 0 0 0)).htc = Htc.reset ∧
    sample .on 0 1301 = [.fault] ∧ sample .on 0 1300 = [.on] ∧ sample .idle set 100 = [.fault] ∧ sample .idle set 99 = [.idle] ∧
    sample .idle 4001 0 = [.fault] ∧ sample .idle 4000 0 = [.idle] ∧ sample .idle (-401) 0 = [.fault] ∧
    sample .disabled 4001 0 = [.disabled] ∧ sample .idle low 0 = [.closing] ∧ sample .idle (low + 1) 0 = [.idle] ∧
    sample .on set 1000 = [.idle] ∧ sample .on (set - 1) 1000 = [.on] ∧ sample .closing set 1000 = [.closing] ∧
    (let confirm (c : Nat) := ((reach (heated 100 [{ zone 1000 .closing with confirmTimer := some 5100 }])
        (.confirmTimerExpiry 0 c)).htc.zones.map (·.state))
     confirm 500 = [.on] ∧ confirm 499 = [.fault]) ∧
    (let rotate (t : Option Int) := ((reach (heated 0 [{ zone 1000 .on with maxOnTimer := some 5100, temperature := t }])
        (.maxOnExpiry 0)).htc.zones.map (·.state))
     rotate none = [.waiting] ∧ rotate (some (set - 1)) = [.waiting] ∧ rotate (some set) = [.idle]) := by decide +kernel

theorem test_witness_PowerArbiterGrants :
    let s := heated 100 [zone 6000 .waiting, zone 5000 .waiting]
    let timed := s.modHtc fun h => { h with arbiter := some 40 }
    (reach timed .arbiterTimerExpiry).htc.clock = 40 ∧ (reach timed .arbiterTimerExpiry).htc.waiting = [1] ∧
    (heated 50 [zone 6000 .waiting, zone 5000 .waiting]).attempt.htc.waiting = [0] ∧
    (heated 49 [zone 6000 .waiting, zone 5000 .waiting]).attempt.htc.arbiter = none ∧
    (let c : ClosingHistory := ⟨[0, 600, 1200, 1800], Vector.replicate 6 (some 1800)⟩
     c.earliest .mainL = 2300 ∧ (⟨[100], Vector.replicate 6 none⟩ : ClosingHistory).earliest .mainR = 200) := by
  decide +kernel

theorem test_witness_ClosingsKeepTheTimeRules :
    exec .busError live = .next (reach live .busError) ∧ Instr.busError ≠ .powerOnReset := ⟨rfl, by decide⟩

theorem test_witness_BudgetAndShedding :
    let on := heated 100 [zone 6000 .on, zone 4000 .on]
    let absent (s : State) := reach (handed s .generatorAbsence) .generatorAbsence
    let held (power : Nat) (fresh : Bool) := on.modHtc fun h =>
      { h with report := some ⟨power, 5000, fresh⟩, reportAge := some 5100 }
    (reach (held 80 true) .reportAgeExpiry).htc.report = some ⟨80, 5000, false⟩ ∧
    (reach (handed on (.generatorReport ⟨80, 5000⟩)) .generatorReport).htc.budget = 80 ∧
    (reach (handed on (.generatorReport ⟨80, 5000⟩)) .generatorReport).htc.draw ≤ 8000 ∧
    (absent on).htc.report = none ∧ (reach (handed on .budgetSetting) .budgetSettingHandoff).inbox = [] ∧
    (held 80 true).budgetNow = 80 ∧ (held 80 false).budgetNow = 5 * (settingSpec 17).resetValue.toNat ∧
    (let waits := heated 100 [zone 9000 .waiting]
     (reach (handed waits (.generatorReport ⟨89, 5000⟩)) .generatorReport).htc.budgetLow = true ∧
     (reach (handed waits (.generatorReport ⟨90, 5000⟩)) .generatorReport).htc.budgetLow = false) ∧
    (heated 0 [zone 9000 .waiting, zone 5000 .waiting, zone 5000 .waiting]).htc.smallestWaiting = some 1 ∧
    on.htc.smallestWaiting = none ∧ (heated 0 [zone 6000 .on, zone 4000 .closing]).shedAll.htc.draw = 0 ∧
    (heated 60 [zone 6000 .on, zone 4000 .on]).shedAll.htc.waiting = [0] := by decide +kernel

theorem test_witness_HeatingLevelGeometryAndMap :
    let s := heated 100 [zone 1000 .on, zone 1000 .locked, zone 1000 .disabled]
    let states (t : State) := t.htc.zones.map (·.state)
    states (reach (handed s (.heatingLevel .off)) .heatingLevelHandoff) = [.disabled, .disabled, .disabled] ∧
    states (reach (handed s (.heatingLevel .hold)) .heatingLevelHandoff) = [.on, .locked, .disabled] ∧
    states (reach (handed (s.modHtc fun h => { h with levelSeen := .off }) (.heatingLevel .full)) .heatingLevelHandoff)
      = [.on, .locked, .idle] ∧
    states (reach (handed s (.geometryToHtc { GeometryRecord.reset with live := ⟨false, true, true, true, true, true⟩ }))
      .geometryAtHtc) = [.locked, .locked, .disabled] ∧
    states (reach (handed s (.geometryToHtc .reset)) .geometryAtHtc) = [.on, .idle, .disabled] ∧
    states (reach (handed s (.zoneMapInForce [⟨.mainL, 500, 0, 0, 0⟩, ⟨.extL, 500, 1, 1, 1⟩])) .zoneMapNewlyInForce)
      = [.idle, .locked] ∧
    states (reach (handed s .zoneMapWithdrawn) .zoneMapWithdrawn) = [] ∧
    (reach (handed s (.runStatus .htc .running)) .runStatusAtHtc).htc.zones.map (·.openSince) = [0, 0, 0] ∧
    (reach (handed s (.runStatus .htc .stopping)) .runStatusAtHtc).htc.runSeen = .stopping := by decide +kernel

theorem test_witness_ZoneOrders :
    let s := heated 100 [zone 1000 .on, zone 1000 .disabled, { zone 1000 .fault with faultKind := some .welded }]
    let set (i : Byte) (a : Word) := reach (owned s (order .setZone i a 0)) .setZone
    outcome (set 0 2) = some (.refused, 0, .range) ∧ outcome (set 23 1) = some (.done, 0, .none) ∧
    (set 1 1).htc.zones.map (·.state) = [.on, .idle, .fault] ∧ (set 0 0).htc.zones.map (·.state)
      = [.disabled, .disabled, .fault] ∧ (set 2 0).htc.zones.map (·.state) = [.on, .disabled, .fault] ∧
    (let clear (s : State) (i : Byte) := reach (owned s (order .clearFault i 0 0)) .clearFaultZone
     let sampled (c : Nat) := s.modHtc fun h => h.modZone 2 fun z => { z with current := some c, onCount := 3 }
     outcome (clear s 3) = some (.refused, 0, .notFaulted) ∧ outcome (clear s 0) = some (.refused, 0, .notFaulted) ∧
     outcome (clear s 2) = some (.refused, 0, .wrongState) ∧
     outcome (clear (sampled 100) 2) = some (.refused, 0, .wrongState) ∧
     outcome (clear (sampled 99) 2) = some (.done, 3, .none)) := by decide +kernel

/-! ## Feed -/

/-- A channel's record changed. -/
def fed (c : Fin 4) (f : Channel → Channel) : State :=
  live.modFdc fun d => { d with channels := d.channels.set c (f d.channels[c]) }

theorem test_witness_FeedModesAndSensing :
    let mode (s : State) (m : FeedMode) := ((reach (handed s (.feedMode 0 m)) (.feedModeHandoff 0)).fdc.channels[0])
    let sensed (run : FeedState) (invalid valid sample : Nat) :=
      let timed (r : Channel) : Channel := { r with run := run, modeSeen := .autoLevel, senseTimer := .onTime 5010 10 }
      let counted (r : Channel) : Channel := { timed r with invalidCount := invalid, validCount := valid, demand := 300 }
      ((reach (fed 0 counted) (.onTimeEnd 0 sample)).fdc.channels[0])
    (reach (handed live (.machineToFdc .pave)) .machineStateAtFdc).fdc.machineSeen = .pave ∧
    (mode (fed 0 fun r => { r with run := .running }) .off).run = .idle ∧ (mode live .manual).run = .running ∧
    (mode live .autoFlow).senseTimer = .period 5200 ∧
    (mode (fed 0 fun r => { r with modeSeen := .autoFlow, run := .holding }) .autoLevel).run = .holding ∧
    ((reach (fed 0 fun r => { r with senseTimer := .period 5010 }) (.sensePeriodExpiry 0)).fdc.channels[0]).supplyClosed
      = true ∧
    (sensed .running 0 0 50).level = some 0 ∧ (sensed .running 0 0 950).level = some 1000 ∧
    (sensed .running 1 0 49).run = .running ∧ (sensed .running 2 0 951).run = .holding ∧
    (sensed .holding 3 2 500).run = .running ∧ (sensed .holding 3 1 500).run = .holding ∧
    (sensed .sensorLost 3 2 500).run = .running ∧ (sensed .jammed 0 0 500).run = .jammed ∧
    (let grace (run : FeedState) :=
       ((reach (fed 0 fun r => { r with run := run, graceTimer := some 5100 }) (.graceExpiry 0)).fdc.channels[0]).run
     grace .holding = .sensorLost ∧ grace .jammed = .jammed) := by decide +kernel

theorem test_witness_FeedDemandJamsAndClears :
    let stall (c : Fin 4) := reach (fed c fun r => { r with run := .running, demand := 900, stallTimer := some 5100 })
      (.stallExpiry c)
    ((stall 1).fdc.channels[1]).run = .jammed ∧ ((stall 2).fdc.channels[0]).coupled = true ∧
    ((stall 3).fdc.channels[1]).coupled = true ∧ ((stall 3).fdc.channels[0]).coupled = false ∧
    ((reach (fed 0 fun r => { r with stallTimer := some 5100 }) (.speedPulse 0)).fdc.channels[0]).speedCount = 1 ∧
    (let pulsed (under : Nat) := ((reach (fed 0 fun r =>
       { r with run := .running, demand := (settingSpec 45).resetValue.toNat - under, stallTimer := some 5100 })
       (.speedPulse 0)).fdc.channels[0]).stallTimer
     (pulsed 0).isSome = true ∧ pulsed 0 ≠ some 5100 ∧ pulsed 1 = none) ∧
    (reach (handed live (.speedToFdc 55)) .speedHandoff).fdc.speedSeen = 55 ∧
    (reach (handed live (.geometryToFdc { GeometryRecord.reset with halfLeft := 2000 })) .geometryAtFdc).fdc.halfLeft = 2000 ∧
    (let clear (s : State) (c : Byte) := reach (owned s (order .clearFault c 0 1)) .clearFaultChannel
     outcome (clear live 0) = some (.refused, 0, .notFaulted) ∧
     ((clear (stall 2) 2).fdc.channels[0]).coupled = false ∧
     ((clear (stall 1) 1).fdc.channels[1]).run = .idle ∧
     ((clear (fed 1 fun r => { r with run := .jammed, modeSeen := .autoLevel, invalidCount := 3 }) 1).fdc.channels[1]).run
       = .holding) ∧
    (let jam := (settingSpec 45).resetValue.toNat
     ((((fed 0 fun r => { r with demand := jam }).settleStall 0).fdc.channels[0]).stallTimer.isSome = true) ∧
     ((((fed 0 fun r => { r with demand := jam - 1 }).settleStall 0).fdc.channels[0]).stallTimer = none)) := by
  decide +kernel

/-! ## Records -/

/-- Records in RUN with an active scanner and travel LIVE. -/
def recording : State := live.modMru fun m =>
  { m with
    recordsSeen := .run, travelSeen := .live, scannerSeen := some .active, chainageSeen := 1000
    nextTrigger := some 1250 }

/-- The state with entries queued, all console marks. -/
def queued (s : State) (n : Nat) : State := s.modMru fun m =>
  { m with queue := List.replicate n (.entry (.mark 1000 0 1 .console)) }

theorem test_witness_TriggersByChainageAndTime :
    let advance (s : State) (c : Word) := (reach (handed s (.advanceToMru c)) .chainageAdvanceAtMru).mru
    let spacing := (settingSpec 31).resetValue.toNat
    spacing = 250 ∧ (advance recording 1249).line = none ∧ (advance recording 1250).line.isSome = true ∧
    (advance recording 1499).triggersMissed = 0 ∧ (advance recording 1500).triggersMissed = 1 ∧
    (advance recording 1500).nextTrigger = some 1750 ∧ (advance recording 900).chainageSeen = 1000 ∧
    (advance (recording.modMru fun m => { m with recordsSeen := .stopmark }) 1500).nextTrigger = some 1750 ∧
    (advance (recording.modMru fun m => { m with recordsSeen := .off }) 1500).nextTrigger = some 1250 ∧
    (advance (recording.modMru fun m => { m with travelSeen := .lost }) 1500).line = none ∧
    (reach (handed recording (.travelToMru .silent)) .travelStatusAtMru).mru.fallbackTimer.isSome = true ∧
    (reach (handed live (.travelToMru .silent)) .travelStatusAtMru).mru.fallbackTimer = none ∧
    (reach (handed live (.geometryToMru { GeometryRecord.reset with sequence := 3 })) .geometryAtMru).mru.geometry.sequence
      = 3 ∧
    ((reach (recording.modMru fun m => { m with fallbackTimer := some 5100 }) .fallbackTimerExpiry).mru.line.map
      (·.unplaced)) = some true ∧
    ((recording.modMru fun m => { m with referencePhase := .busy }).trigger false).mru.pendingGap
      = some ⟨0, 1, .reference⟩ ∧
    ((recording.trigger false).trigger false).mru.pendingGap = some ⟨0, 1, .busy⟩ ∧
    ((recording.modMru fun m => { m with scannerSeen := none }).trigger false).mru.pendingGap
      = some ⟨0, 1, .scanner⟩ := by decide +kernel

/-- A line in flight in a phase. -/
def inFlight (s : State) (phase : LinePhase) : State :=
  let t := s.trigger false
  t.modMru fun m => { m with line := m.line.map fun l => { l with phase := phase } }

theorem test_witness_LinesAreReadCheckedAndOffered :
    let answer (s : State) (a : ScannerAnswer) := (reach (handed s (.scannerAnswer a (some .active))) .scannerResult).mru
    let points : List Half := (List.range 64).map fun i => BitVec.ofNat 16 (1500 + i)
    (reach (handed live (.scannerState (some .dropped))) .scannerStateAtMru).mru.scannerSeen = some .dropped ∧
    ((answer (inFlight recording .triggerWait) (.completed .trigger [])).line.map (·.phase)) = some .exposing ∧
    ((reach ((inFlight recording .exposing).modMru fun m => { m with exposureTimer := some 5020 })
      .exposureTimerExpiry).mru.line.map (·.phase)) = some .lineWait ∧
    (answer (inFlight recording .lineWait) (.completed .line points)).linesProduced = 1 ∧
    (answer (recording.modMru fun m => { m with referencePhase := .wait }) (.completed .reference [])).referencePhase = .busy ∧
    (answer (recording.modMru fun m => { m with referencePhase := .wait }) .notIssued).referencePhase = .idle ∧
    (answer (inFlight recording .triggerWait) .failed).pendingGap = some ⟨0, 1, .scanner⟩ ∧
    (answer (inFlight recording .exposing) .failed).line.isSome = true ∧
    (answer (inFlight recording .triggerWait) .statusFailed).line = (inFlight recording .triggerWait).mru.line ∧
    spreadOf [3, -4, 5] = 9 ∧ spreadOf [7] = 0 ∧
    (let offer (n : Nat) (gap : Option PendingGap) :=
       (answer ((inFlight recording .lineWait).modMru fun m =>
         { m with queue := (queued recording n).mru.queue ++ [.linePlace], pendingGap := gap })
         (.completed .line points))
     (offer 12 none).linesLost = 0 ∧ (offer 13 none).linesLost = 1 ∧
     (offer 11 (some ⟨1, 0, .queue⟩)).entriesQueued = 13 ∧ (offer 12 (some ⟨1, 0, .queue⟩)).pendingGap
       = some ⟨2, 0, .queue⟩) ∧
    (let past (gap : Option PendingGap) : QueueItem := .closePast ⟨gap, 1000, 7⟩
     let after (n : Nat) (gap : Option PendingGap) (a : ScannerAnswer) :=
       (answer ((inFlight recording .lineWait).modMru fun m => { m with
         queue := (queued recording n).mru.queue ++ [.linePlace, past gap], pendingGap := some ⟨9, 9, .busy⟩ }) a)
     let tail (m : Mru) := m.queue.getLast?
     tail (after 1 (some ⟨1, 0, .queue⟩) .failed) = some (past (some ⟨1, 1, .queue⟩)) ∧
     (after 1 none .failed).pendingGap = some ⟨9, 9, .busy⟩ ∧
     tail (after 13 none (.completed .line points)) = some (past (some ⟨1, 0, .queue⟩)) ∧
     (after 12 none (.completed .line points)).entriesQueued = 13 ∧
     (after 11 (some ⟨1, 0, .queue⟩) (.completed .line points)).entriesQueued = 13 ∧
     tail (after 11 (some ⟨1, 0, .queue⟩) (.completed .line points)) = some (past none)) ∧
    (let line : LineInFlight := ⟨0, 0, 1, 3, 0, 0, 0, false, false, false, .lineWait⟩
     let e := live.checkLine line [0, 0x8000, 1600, 1400]
     e.mean = 1500 ∧ e.minIndex = 2 ∧ e.maxIndex = 1 ∧ e.points = [0x8000, 1600, 1400] ∧
     (live.checkLine line [0, 0x8000, 0x8000, 0x8000]).mean = -32768 ∧
     0 ≤ live.setting Setting.spreadLimit) := by decide +kernel

theorem test_witness_PausesModesAndMarks :
    let job (s : State) (h : Handoff) := (reach (handed s h) .recordsModeHandoff).mru
    let start (s : State) := (reach (handed s (.pauseStart .order)) .pauseStartAtMru).mru
    (start recording).queue.length = 1 ∧ (start (queued recording 15)).entriesQueued = 16 ∧
    (start (queued recording 16)).pendingStop.isSome = true ∧
    (start ((queued recording 16).modMru fun m => { m with pendingStop := some ⟨0, 0, none⟩ })).queue.length = 16 ∧
    (start (recording.modMru fun m => { m with postponeCount := 1 })).referencePhase = .wait ∧
    (reach (handed (reach (handed recording (.pauseStart .auto)) .pauseStartAtMru) (.pauseEnd .auto .run))
      .pauseEndAtMru).mru.afterStop = true ∧
    (reach (handed recording (.pauseEnd .order .off)) .pauseEndAtMru).mru.recordsSeen = .off ∧
    (job live (.recordsMode .run)).nextTrigger = some 250 ∧ (job recording (.recordsMode .run)).nextTrigger = some 1250 ∧
    (job recording (.recordsMode .off)).recordsSeen = .off ∧
    (job recording (.recordsMode .stopmark)).recordsSeen = .stopmark ∧
    (let waiting := live.modMru fun m =>
       { m with queue := [.linePlace, .closeMark], chainageSeen := 1000, pendingGap := some ⟨1, 0, .queue⟩ }
     (job waiting (.recordsMode .run)).queue = [.linePlace, .closePast ⟨some ⟨1, 0, .queue⟩, 1000, live.now⟩] ∧
     (job waiting (.recordsMode .run)).pendingGap = none) ∧
    (let mark (s : State) := (reach (handed s (.consoleMark 7 5000 1100)) .consoleMarkAtMru).mru
     (mark live).queue = [] ∧ (mark (queued recording 16)).lossReported = true ∧
     (mark recording).queue = [.entry (.mark 1100 5000 7 .console)] ∧ (mark recording).chainageSeen = 1100 ∧
     (mark (recording.modMru fun m => { m with chainageSeen := 1200 })).queue = [.entry (.mark 1200 5000 7 .console)] ∧
     (mark (queued recording 16)).chainageSeen = 1000) ∧
    (let mark (s : State) (a : Word) := outcome (reach (owned s (order .mark 0 a 0)) .mark)
     mark recording 65536 = some (.refused, 0, .range) ∧ mark live 65535 = some (.refused, 0, .wrongState) ∧
     mark (queued recording 16) 0 = some (.refused, 0, .queueFull) ∧
     mark (queued recording 15) 65535 = some (.done, 16, .none)) := by decide +kernel

/-- A page open with an area in use. -/
def paged (s : State) (count used : Nat) : State := s.modMru fun m =>
  { m with openPage := some ⟨0, 1, count, List.replicate used 0, 1, 0, 0⟩ }

theorem test_witness_PagesAreFoundFilledAndHanded :
    let searching := (queued recording 1).drive true
    let found := reach searching (.pageSearchReadDone [(0x4000, 1)])
    let op (s : State) := (s.drive false).mru.op
    searching.mru.op = .search 0 ∧ found.mru.op = .entryWrite 1 ∧ (reach searching (.pageSearchReadDone [])).mru.op = .none ∧
    (reach (searching.modMru fun m => { m with runSeen := .stopping }) (.pageSearchReadDone [])).mru.queue = [] ∧
    (reach found .entryWriteDone).mru.queue = [] ∧ ((reach found .entryWriteDone).mru.openPage.map (·.area.length)) = some 32 ∧
    (reach ((queued found 16).modMru fun m =>
      { m with queue := m.queue ++ [.stopPlace], pendingStop := some ⟨0, 0, none⟩ }) .entryWriteDone).mru.entriesQueued = 16 ∧
    (let closing := (paged (queued recording 1) 1 4036).drive false
     (reach closing .pageCloseDone).rif.pagesHanded = 1 ∧ (reach closing .pageCloseDone).mem.read 0x4000 = 2 ∧
     (reach closing .pageCloseDone).mru.op = .search 0) ∧
    (reach (handed (queued recording 1) .sweepExpiry) .sweepExpiryAtMru).mru.op = .search 0 ∧
    (let flush (s : State) := reach (owned s (order .flushRecords 0 0 0)) .flushRecords
     (flush (paged recording 1 32)).mru.op = .close .flush ∧
     outcome (reach (flush (paged recording 1 32)) .pageCloseDone) = some (.done, 1, .none) ∧
     outcome (flush (paged recording 0 0)) = some (.done, 0, .none) ∧ (flush recording).mru.op = .search 0 ∧
     (flush (recording.modMru fun m => { m with op := .search 1 })).mru.op = .search 1) ∧
    op (paged (queued recording 1) 1 4032) = .entryWrite 1 ∧ op (paged (queued recording 1) 1 4036) = .close .full ∧
    op ((paged recording 1 32).modMru fun m => { m with queue := [.closeMark] }) = .close .state ∧
    op ((paged recording 1 32).modMru fun m => { m with queue := [.closeMark], pendingGap := some ⟨1, 0, .queue⟩ })
      = .entryWrite 1 ∧
    (let again := (paged recording 1 32).modMru fun m => { m with queue := [.closeDue], pendingGap := some ⟨1, 0, .queue⟩ }
     op again = .close .state ∧ (again.drive false).mru.pendingGap = some ⟨1, 0, .queue⟩ ∧
     op ((paged again 0 0).modMru fun m => { m with queue := [.closeDue, .linePlace] }) = .none) ∧
    op ((paged recording 0 0).modMru fun m => { m with queue := [.closeMark, .linePlace] }) = .none ∧
    (let past (gap : Option PendingGap) : QueueItem := .closePast ⟨gap, 900, 7⟩
     let at_ (gap : Option PendingGap) (behind : Nat) := ((paged recording 1 32).modMru fun m => { m with
       queue := past gap :: (queued recording behind).mru.queue ++ [past none], pendingGap := some ⟨9, 9, .busy⟩ })
     op (at_ none 1) = .close .state ∧ ((at_ none 1).drive false).mru.pendingGap = some ⟨9, 9, .busy⟩ ∧
     op (at_ (some ⟨1, 0, .queue⟩) 15) = .entryWrite 1 ∧
     ((at_ (some ⟨1, 0, .queue⟩) 15).drive false).mru.queue.head? = some (.entry (.gap 900 7 1 0 .queue)) ∧
     op (at_ (some ⟨1, 0, .queue⟩) 16) = .close .state ∧
     ((at_ (some ⟨1, 0, .queue⟩) 16).drive false).mru.queue.getLast? = some (past (some ⟨1, 0, .queue⟩)) ∧
     op ((paged (at_ (some ⟨1, 0, .queue⟩) 16) 0 0)) = .entryWrite 1) ∧
    op ((paged live 1 32).modMru fun m => { m with runSeen := .stopping }) = .close .stop ∧
    ((live.modMru fun m => { m with runSeen := .stopping }).drive false).rif.recordsQuiet = true ∧
    ((Entry.mark 1 2 3 (.order 4)).bytes 5).length = 32 ∧
    (let line (stale afterStop : Bool) : LineInFlight := ⟨7, 8, 1, 3, 9, 10, 11, false, stale, afterStop, .lineWait⟩
     let entry (spread : Bool) (l : LineInFlight) : Entry := .line ⟨l, spread, !spread, -2, 0, 2, 1, [1, 2, 0xFFFF]⟩
     let field (e : Entry) (offset length : Nat) := leNat (((e.bytes 0x105).drop offset).take length)
     field (entry true (line false true)) 0 4 = 0x01052444 ∧ field (entry false (line true false)) 0 1 = 0x28 ∧
     field (entry true (line false true)) 14 2 = 0x0301 ∧ field (entry true (line false true)) 20 2 = 0xFFFE ∧
     field (entry true (line false true)) 32 4 = 0xFFFF ∧ field (.stop ⟨1, 2, some (3, .order)⟩) 14 5 = 0x200000003 ∧
     field (.stop ⟨1, 2, none⟩) 14 18 = 0 ∧ field (.mark 1 2 3 (.order 4)) 14 6 = 0x000400010003 ∧
     field (.gap 1 2 3 4 .scanner) 14 9 = 0x050000000400000003) ∧
    (let page := (2 : Byte) :: (⟨0, 1, 2, [9], 3, 4, 5⟩ : OpenPage).header .stop
     page.take 22 = [2, 4, 2, 0, 1, 0, 0, 0, 3, 0, 0, 0, 4, 0, 0, 0, 5, 0, 0, 0, 1, 0] ∧ page.length = 32) := by
  decide +kernel

theorem test_witness_ReferenceCyclesAndRecordRuns :
    let due (n : Nat) := (reach (recording.modMru fun m => { m with referenceTimer := some 5100, postponeCount := n })
      .referenceTimerExpiry)
    (due 3).mru.postponeCount = 4 ∧ (due 4).mru.referencePhase = .wait ∧ (due 4).rif.noteQueue.length = 1 ∧
    (reach (live.modMru fun m => { m with referenceTimer := some 5100 }) .referenceTimerExpiry).mru.referencePhase = .wait ∧
    (reach ((inFlight recording .lineWait).modMru fun m => { m with referenceTimer := some 5100, recordsSeen := .stopmark })
      .referenceTimerExpiry).mru.referencePhase = .pending ∧
    (reach (live.modMru fun m => { m with cycleTimer := some 5100, referencePhase := .busy }) .cycleTimerExpiry).mru.referencePhase
      = .idle ∧
    (let run (s : State) (st : RunStatus) := reach (handed s (.runStatus .mru st)) .runStatusAtMru
     (run (queued live 3) .running).mru.queue.length = 3 ∧
     (run (live.modMru fun m => { m with queue := [.linePlace, .closePast ⟨some ⟨1, 0, .queue⟩, 5, 6⟩, .stopPlace] })
       .running).mru.queue = [.closePast ⟨none, 5, 6⟩] ∧ (run live .stopping).rif.recordsQuiet = true ∧
     (run live .starting).mru.runSeen = .starting ∧
     (run (live.modMru fun m => { m with referenceTimer := some 1 }) .stopped).mru.referenceTimer = none) := by
  decide +kernel

/-! ## The laws -/

theorem test_witness_LawsHoldAtReset : MemoryLaw State.reset := rfl

/-- Every step law is met by the state of a run in progress, which steps. -/
theorem test_witness_StepLaws :
    MemoryLaw live ∧ (live.bdr.staging.length ≤ 16 ∧ live.bdr.history.length ≤ 32) ∧ step live = .next (live.advance 1) ∧
    (live.trm.busState = .unreliable ↔ live.trm.errorCounter = 32) ∧
    (live.msc.pauseCause.isSome = true ↔ live.msc.state = .pause) ∧ live.htc.draw ≤ live.htc.available ∧
    live.mru.entriesQueued ≤ 16 := by
  refine ⟨rfl, by decide, rfl, by decide, by decide, by decide, by decide⟩

/-- The laws of the entry queue and of the records, met by a period with an open page, entries queued, a line in flight and an
earlier period's close mark, which steps. -/
theorem test_witness_RecordsLaw :
    let s := (paged (inFlight recording .lineWait) 1 32).modMru fun m => { m with
      nextEntry := 2, queue := [.entry (.mark 900 0 1 .console), .closePast ⟨none, 900, 7⟩, .linePlace] }
    QueueLaw s ∧ RecordsLaw s ∧ step s = .next (s.advance 1) := by
  refine ⟨⟨by decide, by decide, by decide⟩, ⟨?_, ?_, ?_, by decide⟩, rfl⟩
  · have h : ((0 : Word) ≤ 900 ∧ (900 : Word) ≤ 900 ∧ (1000 : Word) ≤ 1000) := by decide
    refine ⟨?_, ?_, ?_, ?_⟩
    · intro c hc d hd; cases hc; cases hd; exact h.1
    · intro c hc; cases hc; exact h.2.1
    · intro c hc; cases hc
    · intro c hc; cases hc; exact ⟨by decide, h.2.2⟩
  · intro q hq; cases hq
  · intro p hp _; cases hp; rfl

end Sys2Proof.Test
end

/-! PROOF. READ_VALUE (R49), and CONFIRM_PAGE (R57) with the page constraints of R53 over the bytes of an image (12.7). -/
namespace Sys2Proof.Machine

/-! ## READ_VALUE -/

theorem exec_readValue (s : State) : exec .readValue s = execReadValue s := rfl

/-- R49: what READ_VALUE answers, whatever the machine state and whatever the order's flags. -/
theorem exec_readValue_of_order {s : State} {o : Order} (h : s.orderOf .readValue = some o) :
    exec .readValue s = .next (s.finishDone (BitVec.ofInt 32 (s.setting o.settingId)) false false
      s.sps.entries[o.settingId].pending.isSome) := by
  rw [exec_readValue, execReadValue, h]

/-! ## CONFIRM_PAGE -/

theorem exec_confirmPage (s : State) : exec .confirmPage s = execConfirmPage s := rfl

section ConfirmPage
variable {s : State} {o : Order}

/-- R57: the first check. -/
theorem exec_confirmPage_of_not_pageOk (h : s.orderOf .confirmPage = some o)
    (hok : pageOk o.page (s.sps.page o.page).bytes = false) :
    exec .confirmPage s = .next (s.finishRefused .pageContent) := by
  simp only [exec_confirmPage, execConfirmPage, h, hok, Bool.not_false, if_true]

/-- R57: the second check. -/
theorem exec_confirmPage_of_crc_ne (h : s.orderOf .confirmPage = some o)
    (hok : pageOk o.page (s.sps.page o.page).bytes = true) (hcrc : o.b ≠ (s.sps.page o.page).crc.toNat) :
    exec .confirmPage s = .next (s.finishRefused .check) := by
  simp only [exec_confirmPage, execConfirmPage, h, hok, Bool.not_true, Bool.false_eq_true, if_false, if_pos hcrc]

/-- R57: a VALID page that passes both checks. -/
theorem exec_confirmPage_of_valid (h : s.orderOf .confirmPage = some o)
    (hok : pageOk o.page (s.sps.page o.page).bytes = true) (hcrc : o.b = (s.sps.page o.page).crc.toNat)
    (hvalid : (s.sps.page o.page).valid = true) :
    exec .confirmPage s = .next (s.finishDone (s.sps.page o.page).crcResult false false false) := by
  simp only [exec_confirmPage, execConfirmPage, h, hok, hcrc, hvalid, Bool.not_true, Bool.false_eq_true, ne_eq,
    not_true_eq_false, if_false, if_true]

/-- R57: a page not VALID before that passes both checks comes into force. -/
theorem exec_confirmPage_of_not_valid (h : s.orderOf .confirmPage = some o)
    (hok : pageOk o.page (s.sps.page o.page).bytes = true) (hcrc : o.b = (s.sps.page o.page).crc.toNat)
    (hvalid : (s.sps.page o.page).valid = false) :
    exec .confirmPage s = .next
      (((s.modSps fun p => p.setPage o.page ⟨(s.sps.page o.page).bytes, true⟩).hand
        (inForceHand o.page (s.sps.page o.page).bytes)).finishDone (s.sps.page o.page).crcResult false false false) := by
  simp only [exec_confirmPage, execConfirmPage, h, hok, hcrc, hvalid, Bool.not_true, Bool.false_eq_true, ne_eq,
    not_true_eq_false, if_false]

end ConfirmPage

/-! ## What the codes of an image stand for (12.4) -/

/-- 12.4: a head kind's code names its kind. -/
theorem HeadKind.getD_ofCode_eq_iff {n : Nat} (h1 : 1 ≤ n) (h4 : n ≤ 4) (k : HeadKind) :
    (HeadKind.ofCode n).getD .sonic = k ↔ n = k.code := by
  interval_cases n <;> cases k <;> decide

/-- 12.4: a junction's code is read back. -/
theorem JunctionId.code_getD_ofCode {n : Nat} (h : n ≤ 2) : ((JunctionId.ofCode n).getD .left).code = n := by
  interval_cases n <;> rfl

/-- 12.4: the side code of a head: 0 LEFT, 1 RIGHT, 2 NONE. -/
def headSideCode : Option Side → Nat
  | some side => sideCode side
  | none => 2

/-- 12.4: a head's side code names its side, or none. -/
theorem sideOfCode_eq_iff {n : Nat} (h : n ≤ 2) (side : Option Side) : sideOfCode n = side ↔ n = headSideCode side := by
  interval_cases n <;> rcases side with _ | _ | _ <;> decide

/-- A fact of every side is one of the codes 0 and 1. -/
theorem forall_side_iff (P : Nat → Prop) : (∀ side : Side, P (sideCode side)) ↔ ∀ x ≤ 1, P x := by
  constructor
  · intro h x hx
    interval_cases x
    · exact h .left
    · exact h .right
  · rintro h (_ | _)
    · exact h 0 (by decide)
    · exact h 1 (by decide)

/-- R53: a check of LEFT and RIGHT is one of every side. -/
theorem all_sides_iff (p : Option Side → Bool) :
    [some Side.left, some Side.right].all p = true ↔ ∀ side : Side, p (some side) = true := by
  rw [List.all_eq_true]
  constructor
  · rintro h (_ | _) <;> exact h _ (by decide)
  · rintro h (_ | side) hside
    · exact absurd hside (by decide)
    · exact h side

/-! ## ZONE_MAP, FILTER and GEOMETRY -/

/-- 12.7: the place of a byte of an item. -/
theorem itemAt_add (i k : Nat) : itemAt i + k = 4 + k + 8 * i := by
  unfold itemAt
  omega

/-- The values over a counted range are distinct where equal values have equal indices. -/
theorem nodup_map_range_iff {α : Type} (f : Nat → α) (n : Nat) :
    ((List.range n).map f).Nodup ↔ ∀ x y, x < n → y < n → f x = f y → x = y := by
  rw [List.nodup_map_iff_inj_on List.nodup_range]
  simp only [List.mem_range]
  exact ⟨fun h x y hx hy => h x hx y hy, fun h x hx y hy => h x y hx hy⟩

/-- R53, 12.7: the field constraints of a zone item, byte by byte. -/
def ZoneFields (bs : List Byte) (z : Nat) : Prop :=
  fieldAt bs (4 + 8 * z) 1 ≤ 5 ∧ fieldAt bs (5 + 8 * z) 1 ≤ 23 ∧ fieldAt bs (6 + 8 * z) 1 ≤ 23 ∧
    fieldAt bs (7 + 8 * z) 1 ≤ 23 ∧ 500 ≤ fieldAt bs (8 + 8 * z) 2 ∧ fieldAt bs (8 + 8 * z) 2 ≤ 6000

theorem zoneFieldsOk_iff (bs : List Byte) (z : Nat) : zoneFieldsOk bs z = true ↔ ZoneFields bs z := by
  simp only [ZoneFields, zoneFieldsOk, itemAt_add, Bool.and_eq_true, decide_eq_true_eq, and_assoc]
  rfl

/-- R53, 12.7: the constraints of ZONE_MAP. -/
theorem zoneMapOk_iff (bs : List Byte) :
    zoneMapOk bs = true ↔ 1 ≤ mapCount bs ∧ mapCount bs ≤ 24 ∧
      (∀ z < mapCount bs, ZoneFields bs z) ∧
      ∀ y z, y < mapCount bs → z < mapCount bs →
        fieldAt bs (7 + 8 * y) 1 = fieldAt bs (7 + 8 * z) 1 → y = z := by
  have outputs : (zoneItems bs).map (·.contactorOutput) =
      (List.range (mapCount bs)).map fun z => fieldAt bs (7 + 8 * z) 1 := by
    simp only [zoneItems, List.map_map, Function.comp_def, zoneItem, itemAt_add]
  simp only [zoneMapOk, outputs, nodup_map_range_iff, Bool.and_eq_true, decide_eq_true_eq, List.all_eq_true,
    List.mem_range, zoneFieldsOk_iff, and_assoc]

/-- R53, 12.7: the constraints of one filter; the length field is 0 to 8, or 255 for ANY. -/
def FilterFields (bs : List Byte) (n : Nat) : Prop :=
  fieldAt bs (24 * n) 1 ≤ 1 ∧ fieldAt bs (24 * n + 1) 1 ≤ 1 ∧
  (fieldAt bs (24 * n + 2) 1 ≤ 8 ∨ fieldAt bs (24 * n + 2) 1 = 255) ∧ fieldAt bs (24 * n + 3) 1 ≤ 2 ∧
  fieldAt bs (24 * n + 4) 1 ≤ 1 ∧ fieldAt bs (24 * n + 8) 4 < 2 ^ 29 ∧ fieldAt bs (24 * n + 12) 4 < 2 ^ 29 ∧
  (fieldAt bs (24 * n + 1) 1 = 0 →
    fieldAt bs (24 * n + 8) 4 < 2 ^ 11 ∧ fieldAt bs (24 * n + 12) 4 < 2 ^ 11)

theorem filterFieldsOk_iff (bs : List Byte) (n : Nat) : filterFieldsOk bs n = true ↔ FilterFields bs n := by
  simp only [FilterFields, filterFieldsOk, filterLengthOk, Bool.and_eq_true, Bool.or_eq_true, decide_eq_true_eq,
    beq_iff_eq, and_assoc]
  omega

/-- R53, 12.7: the constraints of FILTER. -/
theorem filterPageOk_iff (bs : List Byte) : filterPageOk bs = true ↔ ∀ n < 8, FilterFields bs n := by
  simp only [filterPageOk, List.all_eq_true, List.mem_range, filterFieldsOk_iff]

/-- R53: a bolt-on width. -/
theorem boltOk_iff (w : Nat) : boltOk w = true ↔ w ≤ 3000 ∧ w % 250 = 0 := by
  simp only [boltOk, Bool.and_eq_true, decide_eq_true_eq]

/-- R53, 12.7: the constraints of GEOMETRY. -/
theorem pageOk_geometry_iff (bs : List Byte) :
    pageOk .geometry bs = true ↔ ∀ x, x = fieldAt bs 0 2 ∨ x = fieldAt bs 2 2 → x ≤ 3000 ∧ x % 250 = 0 := by
  simp only [pageOk, boltWidths, Bool.and_eq_true, boltOk_iff, forall_eq_or_imp, forall_eq]

/-! ## HEAD_MAP -/

/-- R53, 12.7: the field constraints of a head item, byte by byte. -/
theorem headFieldsOk_iff (bs : List Byte) (h : Nat) :
    headFieldsOk bs h = true ↔
      fieldAt bs (4 + 8 * h) 1 ≤ 2 ∧ fieldAt bs (5 + 8 * h) 1 ≤ 6 ∧ 1 ≤ fieldAt bs (6 + 8 * h) 1 ∧
        fieldAt bs (6 + 8 * h) 1 ≤ 4 ∧ fieldAt bs (7 + 8 * h) 1 ≤ 2 ∧ fieldAt bs (8 + 8 * h) 1 ≤ 4 := by
  simp only [headFieldsOk, itemAt_add, Bool.and_eq_true, decide_eq_true_eq, and_assoc]
  rfl

@[simp] theorem headItem_port (bs : List Byte) (h : Nat) : (headItem bs h).port = fieldAt bs (5 + 8 * h) 1 := by
  simp only [headItem, itemAt_add]

@[simp] theorem headItem_position (bs : List Byte) (h : Nat) :
    (headItem bs h).position = fieldAt bs (8 + 8 * h) 1 := by
  simp only [headItem, itemAt_add]

section HeadItem
variable {bs : List Byte} {h : Nat}

/-- 12.7: a head's junction, by its code. -/
theorem headItem_junction_code (hf : headFieldsOk bs h = true) :
    (headItem bs h).junction.code = fieldAt bs (4 + 8 * h) 1 :=
  JunctionId.code_getD_ofCode ((headFieldsOk_iff bs h).mp hf).1

/-- 12.7: a head's kind, by its code. -/
theorem headItem_kind_iff (hf : headFieldsOk bs h = true) (k : HeadKind) :
    (headItem bs h).kind = k ↔ fieldAt bs (6 + 8 * h) 1 = k.code := by
  obtain ⟨-, -, hlow, hhigh, -, -⟩ := (headFieldsOk_iff bs h).mp hf
  simp only [headItem, itemAt_add]
  exact HeadKind.getD_ofCode_eq_iff hlow hhigh k

/-- 12.7: a head's side, by its code. -/
theorem headItem_side_iff (hf : headFieldsOk bs h = true) (side : Option Side) :
    (headItem bs h).side = side ↔ fieldAt bs (7 + 8 * h) 1 = headSideCode side := by
  obtain ⟨-, -, -, -, hside, -⟩ := (headFieldsOk_iff bs h).mp hf
  simp only [headItem, itemAt_add]
  exact sideOfCode_eq_iff hside side

end HeadItem

/-- R53: which sides a kind of head may have. -/
theorem headSideOk_iff (x : HeadItem) :
    headSideOk x = true ↔
      (x.kind = .sonic ∨ x.kind = .stroke → x.side ≠ none) ∧ (x.kind = .slope ∨ x.kind = .scanner → x.side = none) := by
  unfold headSideOk
  cases x.kind <;> simp [Option.isSome_iff_ne_none]

/-- R53, 12.7: which sides a kind of head may have, by the codes. -/
def HeadSide (bs : List Byte) (h : Nat) : Prop :=
  (fieldAt bs (6 + 8 * h) 1 = 1 ∨ fieldAt bs (6 + 8 * h) 1 = 3 → fieldAt bs (7 + 8 * h) 1 ≤ 1) ∧
  (fieldAt bs (6 + 8 * h) 1 = 2 ∨ fieldAt bs (6 + 8 * h) 1 = 4 → fieldAt bs (7 + 8 * h) 1 = 2)

theorem headSideOk_headItem_iff {bs : List Byte} {h : Nat} (hf : headFieldsOk bs h = true) :
    headSideOk (headItem bs h) = true ↔ HeadSide bs h := by
  obtain ⟨-, -, -, -, hside, -⟩ := (headFieldsOk_iff bs h).mp hf
  have hnone : fieldAt bs (7 + 8 * h) 1 ≠ 2 ↔ fieldAt bs (7 + 8 * h) 1 ≤ 1 := by omega
  simp only [HeadSide, headSideOk_iff, ne_eq, headItem_kind_iff hf, headItem_side_iff hf, HeadKind.code, headSideCode,
    hnone]

/-- The counted heads with a kind code and a side code, by their places in the map. -/
def headPlaces (bs : List Byte) (kind side : Nat) : List Nat :=
  (List.range (mapCount bs)).filter fun h => fieldAt bs (6 + 8 * h) 1 == kind && fieldAt bs (7 + 8 * h) 1 == side

theorem headPlaces_nodup (bs : List Byte) (kind side : Nat) : (headPlaces bs kind side).Nodup :=
  List.nodup_range.filter _

/-- R53: no two counted heads share a junction and a port. -/
def HeadPortsDistinct (bs : List Byte) : Prop :=
  ∀ g h, g < mapCount bs → h < mapCount bs → fieldAt bs (4 + 8 * g) 1 = fieldAt bs (4 + 8 * h) 1 →
    fieldAt bs (5 + 8 * g) 1 = fieldAt bs (5 + 8 * h) 1 → g = h

/-- R53: the heads with a kind code and a side code have distinct positions. -/
def HeadPositionsDistinct (bs : List Byte) (kind side : Nat) : Prop :=
  ∀ g ∈ headPlaces bs kind side, ∀ h ∈ headPlaces bs kind side,
    fieldAt bs (8 + 8 * g) 1 = fieldAt bs (8 + 8 * h) 1 → g = h

section Counted
variable {bs : List Byte} (hf : ∀ h < mapCount bs, headFieldsOk bs h = true)
include hf

/-- The heads of a kind and side stand at the places that hold its codes. -/
theorem headsOf_headItems (kind : HeadKind) (side : Option Side) :
    headsOf (headItems bs) kind side = (headPlaces bs kind.code (headSideCode side)).map (headItem bs) := by
  rw [headsOf, headItems, List.filter_map, headPlaces]
  refine congrArg _ (List.filter_congr fun h hh => ?_)
  have hok := hf h (List.mem_range.mp hh)
  rw [Bool.eq_iff_iff]
  simp only [Function.comp_apply, decide_eq_true_eq, Bool.and_eq_true, beq_iff_eq, headItem_kind_iff hok,
    headItem_side_iff hok]

theorem headItems_ports_nodup_iff :
    ((headItems bs).map fun x => (x.junction.code, x.port)).Nodup ↔ HeadPortsDistinct bs := by
  rw [headItems, List.map_map, nodup_map_range_iff]
  refine forall₄_congr fun g h hg hh => ?_
  simp only [Function.comp_apply, Prod.mk.injEq, headItem_port, headItem_junction_code (hf g hg),
    headItem_junction_code (hf h hh), and_imp]

theorem headsOf_positions_nodup_iff (kind : HeadKind) (side : Option Side) :
    ((headsOf (headItems bs) kind side).map (·.position)).Nodup ↔
      HeadPositionsDistinct bs kind.code (headSideCode side) := by
  unfold HeadPositionsDistinct
  rw [headsOf_headItems hf, List.map_map, List.nodup_map_iff_inj_on (headPlaces_nodup ..)]
  simp only [Function.comp_apply, headItem_position]

/-- R53: the counted heads of a kind and side are as many as the places that hold its codes. -/
theorem headsOf_length (kind : HeadKind) (side : Option Side) :
    (headsOf (headItems bs) kind side).length = (headPlaces bs kind.code (headSideCode side)).length := by
  rw [headsOf_headItems hf, List.length_map]

theorem headItems_all_headSideOk_iff :
    (headItems bs).all headSideOk = true ↔ ∀ h < mapCount bs, HeadSide bs h := by
  simp only [headItems, List.all_map, List.all_eq_true, List.mem_range, Function.comp_apply]
  exact forall₂_congr fun h hh => headSideOk_headItem_iff (hf h hh)

/-- R53: the page constraints of HEAD_MAP, by the codes. -/
theorem headsOk_headItems_iff :
    headsOk (headItems bs) = true ↔ (∀ h < mapCount bs, HeadSide bs h) ∧ HeadPortsDistinct bs ∧
      (∀ x ≤ 1, (headPlaces bs 1 x).length ≤ 5 ∧ (headPlaces bs 3 x).length ≤ 1 ∧ HeadPositionsDistinct bs 1 x) ∧
      (headPlaces bs 2 2).length ≤ 1 ∧ (headPlaces bs 4 2).length ≤ 1 := by
  rw [← forall_side_iff fun x =>
    (headPlaces bs 1 x).length ≤ 5 ∧ (headPlaces bs 3 x).length ≤ 1 ∧ HeadPositionsDistinct bs 1 x, and_left_comm]
  simp only [headsOk, Bool.and_eq_true, decide_eq_true_eq, headItems_ports_nodup_iff hf,
    headItems_all_headSideOk_iff hf, headsOf_positions_nodup_iff hf, headsOf_length hf, all_sides_iff, and_assoc,
    and_comm (a := HeadPositionsDistinct _ _ _), HeadKind.code, headSideCode]

end Counted

/-- R53, 12.7: the constraints of HEAD_MAP. -/
theorem headMapOk_iff (bs : List Byte) :
    headMapOk bs = true ↔ 1 ≤ mapCount bs ∧ mapCount bs ≤ 16 ∧
      (∀ h < mapCount bs, fieldAt bs (4 + 8 * h) 1 ≤ 2 ∧ fieldAt bs (5 + 8 * h) 1 ≤ 6 ∧
        1 ≤ fieldAt bs (6 + 8 * h) 1 ∧ fieldAt bs (6 + 8 * h) 1 ≤ 4 ∧ fieldAt bs (7 + 8 * h) 1 ≤ 2 ∧
        fieldAt bs (8 + 8 * h) 1 ≤ 4 ∧ HeadSide bs h) ∧
      HeadPortsDistinct bs ∧
      (∀ x ≤ 1, (headPlaces bs 1 x).length ≤ 5 ∧ (headPlaces bs 3 x).length ≤ 1 ∧ HeadPositionsDistinct bs 1 x) ∧
      (headPlaces bs 2 2).length ≤ 1 ∧ (headPlaces bs 4 2).length ≤ 1 := by
  have codes (h : Nat) : (fieldAt bs (4 + 8 * h) 1 ≤ 2 ∧ fieldAt bs (5 + 8 * h) 1 ≤ 6 ∧
      1 ≤ fieldAt bs (6 + 8 * h) 1 ∧ fieldAt bs (6 + 8 * h) 1 ≤ 4 ∧ fieldAt bs (7 + 8 * h) 1 ≤ 2 ∧
      fieldAt bs (8 + 8 * h) 1 ≤ 4 ∧ HeadSide bs h) ↔ headFieldsOk bs h = true ∧ HeadSide bs h := by
    simp only [headFieldsOk_iff, and_assoc]
  simp only [codes, forall₂_and, headMapOk, Bool.and_eq_true, decide_eq_true_eq, List.all_eq_true, List.mem_range,
    and_assoc, and_congr_right headsOk_headItems_iff]

/-! ## The statements -/

/-- Settles O20: `exec_readValue_of_order` is the answer, and an answer keeps the store. -/
theorem readValue : Obligations.ReadValue := by
  intro s o h e
  exact ⟨exec_readValue_of_order h, by simp only [State.finishDone_frame]⟩

/-- Settles O22: a lemma for each outcome of the two checks, and one for each page's constraints. -/
theorem confirmPage : Obligations.ConfirmPage := by
  intro s o h k page crc
  refine ⟨exec_confirmPage_of_not_pageOk h, exec_confirmPage_of_crc_ne h, fun hok hcrc =>
    ⟨exec_confirmPage_of_valid h hok hcrc, exec_confirmPage_of_not_valid h hok hcrc⟩, fun reason => ?_, fun bytes => ?_⟩
  · simp only [State.finishRefused_frame]
  · exact ⟨zoneMapOk_iff bytes, headMapOk_iff bytes, filterPageOk_iff bytes, pageOk_geometry_iff bytes⟩

end Sys2Proof.Machine

/-! PROOF. JOG (R121): its checks, the pulse it gives to the valve, and what ends or withholds a pulse (R106, R117). -/
namespace Sys2Proof.Machine

theorem exec_jog (s : State) : exec .jog s = execJog s := rfl

/-- R121: operand A names a direction. -/
theorem directionOf_eq_some_iff {a : Int} {direction : Direction} :
    directionOf a = some direction ↔ (a, direction) ∈ ([(0, .up), (1, .down)] : List (Int × Direction)) := by
  unfold directionOf
  by_cases hup : a = 0
  · cases direction <;> simp [hup]
  · by_cases hdown : a = 1
    · cases direction <;> simp [hdown]
    · simp [hup, hdown]

/-- R121: operand A names no direction. -/
theorem directionOf_eq_none {a : Int} (hup : a ≠ 0) (hdown : a ≠ 1) : directionOf a = none := by
  simp only [directionOf, if_neg hup, if_neg hdown]

section Jog
variable {s : State} {o : Order} {direction : Direction}

/-- R121: the first check. -/
theorem exec_jog_of_not_manual (h : s.orderOf .jog = some o) (hmode : (s.sideRecord o.side).modeSeen ≠ .manual) :
    exec .jog s = .next (s.finishRefused .wrongState) := by
  simp only [exec_jog, execJog, h, if_pos hmode]

/-- R121: the second check. -/
theorem exec_jog_of_no_direction (h : s.orderOf .jog = some o) (hmode : (s.sideRecord o.side).modeSeen = .manual)
    (hdirection : directionOf o.a = none) : exec .jog s = .next (s.finishRefused .range) := by
  simp only [exec_jog, execJog, h, hmode, hdirection, ne_eq, not_true_eq_false, if_false]

/-- R121: the third check. -/
theorem exec_jog_of_strict (h : s.orderOf .jog = some o) (hmode : (s.sideRecord o.side).modeSeen = .manual)
    (hdirection : directionOf o.a = some direction) (hstrict : o.strict = true) (hclamped : s.jogWidth o.b ≠ o.b) :
    exec .jog s = .next (s.finishRefused .range) := by
  simp only [exec_jog, execJog, h, hmode, hdirection, ne_eq, not_true_eq_false, if_false,
    if_pos (And.intro hstrict hclamped)]

/-- R121: a JOG that passes the three checks gives its pulse to the valve. -/
theorem exec_jog_of_allowed (h : s.orderOf .jog = some o) (hmode : (s.sideRecord o.side).modeSeen = .manual)
    (hdirection : directionOf o.a = some direction) (hallowed : ¬ (o.strict = true ∧ s.jogWidth o.b ≠ o.b)) :
    exec .jog s = .next ((s.givePulse o.side ⟨direction, s.jogWidth o.b⟩).finishDone
      (BitVec.ofNat 32 (s.jogWidth o.b)) (decide (s.jogWidth o.b ≠ o.b)) false false) := by
  simp only [exec_jog, execJog, h, hmode, hdirection, ne_eq, not_true_eq_false, if_false, if_neg hallowed]

end Jog

/-! ## What withholds and what ends a pulse -/

/-- R117: outside AUTO a due pulse is not started. -/
theorem State.duePulse_of_not_auto {s : State} {side : Side} (hmode : (s.sideRecord side).modeSeen ≠ .auto)
    (p : Option Pulse) : s.duePulse side p = s := by
  cases p with
  | none => rfl
  | some p => simp only [State.duePulse, if_neg hmode]

/-- R106: a side that takes OFF or HOLD is left with no pulse, no gap and no pulse waiting. -/
theorem SideRecord.takeMode_ends_pulse (r : SideRecord) {mode : SideMode} (hmode : mode = .off ∨ mode = .hold) :
    (r.takeMode mode).valve = .idle ∧ (r.takeMode mode).pulseEnd = none ∧ (r.takeMode mode).waiting = none := by
  rcases hmode with rfl | rfl
  · exact ⟨rfl, rfl, rfl⟩
  · exact ⟨rfl, rfl, rfl⟩

/-- Settles O39: a lemma for each check in its order and one for the JOG that passes them, then R117 and R106. -/
theorem jogGivesAPulse : Obligations.JogGivesAPulse := by
  refine ⟨?order, ?manual, fun r mode => r.takeMode_ends_pulse⟩
  case order =>
    intro s o h side w limit
    refine ⟨exec_jog_of_not_manual h, fun hmode => ⟨?noDirection, fun direction hmem => ?direction⟩, fun reason => ?kept⟩
    case noDirection =>
      exact fun hup hdown => exec_jog_of_no_direction h hmode (directionOf_eq_none hup hdown)
    case direction =>
      have hdirection : directionOf o.a = some direction := directionOf_eq_some_iff.mpr hmem
      refine ⟨fun hstrict hlimit => exec_jog_of_strict h hmode hdirection hstrict (of_decide_eq_true hlimit),
        fun hor => exec_jog_of_allowed h hmode hdirection ?_⟩
      rintro ⟨hstrict, hclamped⟩
      rcases hor with hlax | hlimit
      · exact Bool.false_ne_true (hlax.symm.trans hstrict)
      · exact of_decide_eq_false hlimit hclamped
    case kept => simp only [State.finishRefused_frame]
  case manual =>
    intro s side p hmode
    exact State.duePulse_of_not_auto (fun hauto => nomatch hmode.symm.trans hauto) p

end Sys2Proof.Machine

/-! PROOF. A law that holds before a step holds after it: the command at the front, or a millisecond of time. -/
namespace Sys2Proof.Machine

/-- A law that the queue does not touch, that time keeps and that every command keeps, every step keeps. -/
theorem step_keeps {P : State → Prop} (hqueue : ∀ s rest, P s → P { s with pending := rest })
    (htime : ∀ s : State, P s → P (s.advance 1)) (hexec : ∀ c s t, P s → exec c s = .next t → P t)
    {s t : State} (hs : P s) (h : step s = .next t) : P t := by
  unfold step at h
  split at h
  next => cases h; exact htime s hs
  next c rest _ => exact hexec c _ t (hqueue s rest hs) h

/-- A command that may not change a part leaves a law about that part alone. -/
theorem exec_keeps_of_not_writes {c : Instr} {s t : State} {b : Block} {P : State → Prop}
    (hP : ∀ s t, s.agree t b → P s → P t) (hb : b ∉ Instr.writes c) (h : exec c s = .next t) (hs : P s) : P t :=
  hP s t (exec_writes c s t h b hb) hs

end Sys2Proof.Machine

/-! PROOF. Every step keeps the shared region in canonical form (log 6): no write, landing or host write breaks it. -/
namespace Sys2Proof.Machine

/-- R29: a take writes and lands, and changes the region no further. -/
theorem State.takeOrder_mem (s : State) (o : Order) : (s.takeOrder o).mem = (s.writeTaken o).mem := by
  unfold State.takeOrder
  dsimp only
  split
  next => simp
  next => split <;> simp

/-- R29: a take keeps the canonical form. -/
theorem State.takeOrder_wf (s : State) (o : Order) (hs : s.mem.wf = true) : (s.takeOrder o).mem.wf = true := by
  rw [State.takeOrder_mem]
  exact State.landAll_wf _ (by simpa using hs)

/-- R27: what follows a slot read keeps the canonical form. -/
theorem State.judgeSlot_wf (s : State) (slot : Nat) (hs : s.mem.wf = true) : (s.judgeSlot slot).mem.wf = true := by
  unfold State.judgeSlot
  dsimp only
  split
  next => simpa using hs
  next =>
    split
    next => exact s.takeOrder_wf _ hs
    next => simpa using hs

/-- What the fourteen commands that may change the region do to it keeps the canonical form. -/
theorem exec_keeps_memoryLaw (c : Instr) (s t : State) (hs : MemoryLaw s) (h : exec c s = .next t) : MemoryLaw t := by
  by_cases hb : Block.mem ∈ Instr.writes c
  case neg => exact exec_keeps_of_not_writes (b := .mem) (fun _ _ ht => (congrArg Memory.wf ht).trans) hb h hs
  have hhost host := s.hostWrite_wf host hs
  have hdone user := s.writeDone_wf user hs
  cases c
  case slotReadDone host =>
    cases h
    unfold MemoryLaw at *
    split
    next =>
      dsimp only
      split
      next => simp [hhost]
      next =>
        split
        next => simp [hhost]
        next => exact State.judgeSlot_wf _ _ (hhost host)
    next => exact hs
  all_goals
    first
    | (simp [Instr.writes] at hb; done)
    | cases h
      unfold MemoryLaw at *
      (repeat' split) <;> first | exact hs | simp [hhost, hdone]

/-- Settles O55, by the rules that a write, a landing and the host's writes keep the canonical form. -/
theorem stepKeepsMemoryCanonical : Obligations.StepKeepsMemoryCanonical := fun _ _ hs h =>
  step_keeps (P := MemoryLaw) (fun _ _ hs => hs) (fun _ hs => hs) exec_keeps_memoryLaw hs h

end Sys2Proof.Machine

/-! PROOF. Every step keeps the bus, the travel status and its timer together (R59, R63, R64, R72), and a pause cause exactly in
PAUSE (R1, R4, R7). -/
namespace Sys2Proof.Machine

/-! ## The bus and the travel status -/

/-- R59: what the law of the bus and the travel status is about. -/
def Trm.signal (t : Trm) : Nat × BusState × TravelStatus × Option TravelTimer :=
  (t.errorCounter, t.busState, t.travel, t.travelTimer)

theorem travelLaw_iff (s : State) : TravelLaw s ↔ s.trm.errorCounter ≤ 32 ∧
    (s.trm.busState = .unreliable ↔ s.trm.errorCounter = 32) ∧ (s.trm.travel = .lost ↔ s.trm.busState = .unreliable) ∧
    (s.trm.travelTimer.isSome = true ↔ s.trm.travel = .live) :=
  ⟨fun h => ⟨h.counter, h.bus, h.lost, h.timer⟩, fun ⟨hcounter, hbus, hlost, htimer⟩ => ⟨hcounter, hbus, hlost, htimer⟩⟩

theorem TravelLaw.of_signal {s t : State} (hs : TravelLaw s) (h : t.trm.signal = s.trm.signal) : TravelLaw t := by
  simp only [Trm.signal, Prod.mk.injEq] at h
  obtain ⟨hcounter, hbus, htravel, htimer⟩ := h
  rw [travelLaw_iff] at hs ⊢
  rwa [hcounter, hbus, htravel, htimer]

@[simp] theorem State.setSpeed_signal (s : State) (speed : Half) : (s.setSpeed speed).trm.signal = s.trm.signal := by
  unfold State.setSpeed
  split
  next => rfl
  next => simp [Trm.signal]

@[simp] theorem State.applyStep_signal (s : State) (step : Nat) : (s.applyStep step).trm.signal = s.trm.signal := by
  unfold State.applyStep
  dsimp only
  split
  next => simp [Trm.signal]
  next => rfl

@[simp] theorem State.badStep_signal (s : State) (step : Nat) : (s.badStep step).trm.signal = s.trm.signal := by
  unfold State.badStep
  split
  next => rfl
  next => simp [Trm.signal]

/-- R69, R70: the step rules leave the bus and the travel status alone. -/
@[simp] theorem State.travelStep_signal (s : State) (count : Half) (forward : Bool) (speed : Half) :
    (s.travelStep count forward speed).trm.signal = s.trm.signal := by
  unfold State.travelStep
  dsimp only
  split
  next => rfl
  next =>
    split
    next => rw [State.setSpeed_signal]; rfl
    next =>
      split
      next => rw [State.badStep_signal]; rfl
      next =>
        have hspeed (s' : State) : ((s'.setSpeed speed).modTrm fun t => { t with badStepReported := false }).trm.signal =
            s'.trm.signal := s'.setSpeed_signal speed
        split
        next => rw [hspeed]; rfl
        next => rw [State.applyStep_signal, hspeed]; rfl

/-- R68: a TRAVEL frame makes travel LIVE with its timer running. -/
theorem State.travelSeen_trm (s : State) : s.travelSeen.trm =
    { s.trm with
      travel := .live, outageStart := none
      travelTimer := some ⟨s.now + BitVec.ofNat 32 (s.settingNat Setting.travelTimeout),
        s.settingNat Setting.travelTimeout⟩ } := by
  unfold State.travelSeen
  dsimp only
  simp only [State.reportTravel_frame]
  split <;> simp only [State.postNote_frame, State.modTrm_trm]

/-- R68: a frame on a bus that is not UNRELIABLE keeps the law. -/
theorem TravelLaw.travelFrame {s : State} (data : List Byte) (hs : TravelLaw s) (hbus : s.trm.busState ≠ .unreliable) :
    TravelLaw (s.travelFrame data) := by
  unfold State.travelFrame
  split
  next => exact hs
  next =>
    refine TravelLaw.of_signal ?_ (State.travelStep_signal ..)
    have hne : s.trm.errorCounter ≠ 32 := fun h => hbus (hs.bus.mpr h)
    rw [travelLaw_iff, State.travelSeen_trm]
    simp [hs.counter, hbus, hne]

@[simp] theorem State.generatorFrame_signal (s : State) (data : List Byte) :
    (s.generatorFrame data).trm.signal = s.trm.signal := by
  unfold State.generatorFrame
  split <;> simp [Trm.signal]

/-- R62, R66: a good frame taken keeps the law; on a bus LISTENING the error counter is below 32. -/
theorem exec_goodFrame_keeps_travelLaw {s t : State} {frame : Frame} (hs : TravelLaw s)
    (h : exec (.goodFrame frame) s = .next t) : TravelLaw t := by
  cases h
  split
  next htaking =>
    have hbus : s.trm.busState = .listening := by simp [Trm.taking] at htaking; exact htaking.2
    have hne : s.trm.errorCounter ≠ 32 := by simpa [hbus] using hs.bus
    have hcounted : TravelLaw (s.modTrm fun t => { t with errorCounter := t.errorCounter - 1 }) := by
      have := hs.counter
      refine ⟨?_, ?_, hs.lost, hs.timer⟩ <;> simp [hbus] <;> omega
    split
    next => exact hcounted
    next =>
      dsimp only
      split
      next => exact hcounted.travelFrame _ (by simp [hbus])
      next => exact hcounted.of_signal (State.generatorFrame_signal ..)
      next => exact hcounted.of_signal (by simp)
      next => exact hcounted
  next => exact hs

/-- R63: an error keeps the law: the thirty-second makes the bus UNRELIABLE and travel LOST. -/
theorem exec_busError_keeps_travelLaw {s t : State} (hs : TravelLaw s) (h : exec .busError s = .next t) : TravelLaw t := by
  cases h
  split
  next htaking =>
    have hbus : s.trm.busState = .listening := by simp [Trm.taking] at htaking; exact htaking.2
    split
    next =>
      refine TravelLaw.of_signal ?_ (State.setSpeed_signal ..)
      simp [travelLaw_iff]
    next hlow =>
      refine ⟨?_, ?_, hs.lost, hs.timer⟩ <;> simp [hbus] <;> omega
  next => exact hs

/-- R72: the travel timer's expiry keeps the law: travel that was LIVE is SILENT. -/
theorem exec_travelTimerExpiry_keeps_travelLaw {s t : State} (hs : TravelLaw s) (h : exec .travelTimerExpiry s = .next t) :
    TravelLaw t := by
  cases h
  split
  next timer htimer =>
    have hlive : s.trm.travel = .live := hs.timer.mp (by simp [htimer])
    have hbus : s.trm.busState ≠ .unreliable := by simp [← hs.lost, hlive]
    have hne : s.trm.errorCounter ≠ 32 := by simpa [hbus] using hs.bus
    dsimp only
    rw [if_pos (by simpa using hlive)]
    refine TravelLaw.of_signal ?_ (State.setSpeed_signal ..)
    simp [travelLaw_iff, Trm.forgetCount, hs.counter, hbus, hne]
  next => exact hs

/-- R64: REARM_BUS keeps the law: an UNRELIABLE bus, where no travel timer runs, is LISTENING with the counter 0. -/
theorem exec_rearmBus_keeps_travelLaw {s t : State} (hs : TravelLaw s) (h : exec .rearmBus s = .next t) : TravelLaw t := by
  cases h
  split
  next =>
    have htimer := hs.timer
    rw [travelLaw_iff]
    by_cases hunreliable : s.trm.busState = .unreliable
    · have htravel : s.trm.travel = .lost := hs.lost.mpr hunreliable
      simpa [hunreliable, htravel] using htimer
    · have htravel : s.trm.travel ≠ .lost := fun h => hunreliable (hs.lost.mp h)
      simpa [hunreliable, htravel] using htimer
  next => exact hs

/-- R60: STARTING and STOPPED keep the law: travel stays LOST on an UNRELIABLE bus and is NONE on any other. -/
theorem State.travelRun_keeps_travelLaw {s : State} (status : RunStatus) (hs : TravelLaw s) :
    TravelLaw (s.travelRun status) := by
  cases status
  case starting =>
    refine TravelLaw.of_signal ?_ (State.setSpeed_signal _ 0)
    by_cases hbus : s.trm.busState = .unreliable
    · simp [travelLaw_iff, Trm.forgetCount, hbus, hs.bus.mp hbus]
    · have hne : s.trm.errorCounter ≠ 32 := fun h => hbus (hs.bus.mpr h)
      simp [travelLaw_iff, Trm.forgetCount, hs.counter, hbus, hne]
  case stopped =>
    refine TravelLaw.of_signal ?_ (State.setSpeed_signal _ 0)
    by_cases hlost : s.trm.travel = .lost
    · have hbus := hs.lost.mp hlost
      simp [travelLaw_iff, Trm.forgetCount, hlost, hbus, hs.bus.mp hbus]
    · have hbus : s.trm.busState ≠ .unreliable := fun h => hlost (hs.lost.mpr h)
      have hne : s.trm.errorCounter ≠ 32 := fun h => hbus (hs.bus.mpr h)
      simp [travelLaw_iff, Trm.forgetCount, hs.counter, hlost, hbus, hne]
  case running => exact hs.of_signal rfl
  case stopping => exact hs.of_signal rfl

theorem travelLaw_resetAll (s : State) : TravelLaw s.resetAll := by
  simp [travelLaw_iff, State.resetAll, State.reset, Trm.reset]

/-- Every command keeps the law of the bus and the travel status. -/
theorem exec_keeps_travelLaw (c : Instr) (s t : State) (hs : TravelLaw s) (h : exec c s = .next t) : TravelLaw t := by
  by_cases hb : Block.trm ∈ Instr.writes c
  case neg => exact exec_keeps_of_not_writes (b := .trm) (fun _ _ ht hs => hs.of_signal (congrArg Trm.signal ht)) hb h hs
  cases c
  case goodFrame => exact exec_goodFrame_keeps_travelLaw hs h
  case busError => exact exec_busError_keeps_travelLaw hs h
  case travelTimerExpiry => exact exec_travelTimerExpiry_keeps_travelLaw hs h
  case rearmBus => exact exec_rearmBus_keeps_travelLaw hs h
  case powerOnReset => cases h; exact travelLaw_resetAll s
  case softReset =>
    cases h
    split
    · exact travelLaw_resetAll s
    · exact hs
  case runStatusAtTrm =>
    cases h
    split
    next htake => exact State.travelRun_keeps_travelLaw _ (hs.of_signal (by simp [State.take_frame htake]))
    next => exact hs
  case setChainage | machineStateAtTrm | filterHandoff =>
    cases h
    (repeat' split) <;> first
      | exact hs
      | (have htake := State.take_frame (by assumption); exact hs.of_signal (by simp [htake, Trm.signal]))
      | exact hs.of_signal (by simp [Trm.signal])
  all_goals simp [Instr.writes] at hb

/-! ## The machine state and its pause -/

theorem pauseLaw_iff (s : State) : PauseLaw s ↔
    (s.msc.pauseCause.isSome = true ↔ s.msc.state = .pause) ∧ (s.msc.autoPause.isSome = true → s.msc.state = .pave) :=
  ⟨fun h => ⟨h.cause, h.timer⟩, fun ⟨hcause, htimer⟩ => ⟨hcause, htimer⟩⟩

/-- R1: what the law of the pause is about. -/
def Msc.pausing (m : Msc) : MachineState × Option PauseCause × Timer := (m.state, m.pauseCause, m.autoPause)

theorem PauseLaw.of_pausing {s t : State} (hs : PauseLaw s) (h : t.msc.pausing = s.msc.pausing) : PauseLaw t := by
  simp only [Msc.pausing, Prod.mk.injEq] at h
  obtain ⟨hstate, hcause, htimer⟩ := h
  rw [pauseLaw_iff] at hs ⊢
  rwa [hstate, hcause, htimer]

theorem State.transition_msc (s : State) (target : MachineState) (pause : Option PauseCause) (cause : ChangeCause) :
    (s.transition target pause cause).msc = s.movedMsc target pause := by
  unfold State.transition
  simp

/-- R4: a transition that brings a pause cause exactly into PAUSE gives the law, whatever the state before. -/
theorem State.transition_pauseLaw (s : State) {target : MachineState} {pause : Option PauseCause} (cause : ChangeCause)
    (h : pause.isSome = true ↔ target = .pause) : PauseLaw (s.transition target pause cause) := by
  rw [pauseLaw_iff, State.transition_msc]
  refine ⟨h, ?_⟩
  by_cases htarget : target = .pave <;> simp [State.movedMsc, Msc.recompute, htarget]

@[simp] theorem State.recomputeAndShow_pausing (s : State) : s.recomputeAndShow.msc.pausing = s.msc.pausing := by
  unfold State.recomputeAndShow
  split <;> simp [State.recompute, State.recomputedMsc, Msc.recompute, Msc.pausing]

theorem PauseLaw.setStateEffect {s : State} (target : MachineState) (hs : PauseLaw s) :
    PauseLaw (s.setStateEffect target) := by
  unfold State.setStateEffect
  split
  next hpause =>
    have htimer := hs.timer
    rw [pauseLaw_iff]
    simpa [hpause.1] using htimer
  next => exact State.transition_pauseLaw s _ (by split <;> simp [*])

@[simp] theorem State.recompute_pausing (s : State) : s.recompute.msc.pausing = s.msc.pausing := rfl

@[simp] theorem State.requestSide_pausing (s : State) (side : Side) (mode : SideMode) :
    (s.requestSide side mode).msc.pausing = s.msc.pausing := by
  unfold State.requestSide
  dsimp only
  split
  next => rw [(State.requestRewrite_frame _).2.2.2.1]; rfl
  next => rfl

@[simp] theorem State.requestFeed_pausing (s : State) (c : Fin 4) (mode : FeedMode) :
    (s.requestFeed c mode).msc.pausing = s.msc.pausing := by
  unfold State.requestFeed
  dsimp only
  split
  next => rw [(State.requestRewrite_frame _).2.2.2.1]; rfl
  next => rfl

/-- R11: an assertion of HALT keeps the law: its transition goes to SAFE. -/
theorem PauseLaw.assertHalt {s : State} (hs : PauseLaw s) : PauseLaw s.assertHalt := by
  have hrewrite {s' : State} (c : Bool) (h : PauseLaw s') : PauseLaw (if c then s'.requestRewrite else s') := by
    split
    next => exact h.of_pausing (by simp)
    next => exact h
  unfold State.assertHalt
  refine hrewrite _ ?_
  split
  next =>
    dsimp only
    split
    next => exact hs.of_pausing (by simp [Msc.pausing])
    next => exact State.transition_pauseLaw _ _ (by simp)
  next => exact hs.of_pausing rfl

/-- R14: MSC keeps the law at a change of run status. -/
theorem PauseLaw.modeRun {s : State} (status : RunStatus) (halt : HaltLevel) (hs : PauseLaw s) :
    PauseLaw (s.modeRun status halt) := by
  have hseen : PauseLaw (s.modMsc fun m => { m with runSeen := status }) := hs.of_pausing rfl
  cases status
  case running =>
    unfold State.modeRun
    dsimp only
    split
    next => exact hseen.assertHalt
    next => exact hseen
  case stopping =>
    unfold State.modeRun
    dsimp only
    split
    next => exact hseen
    next => exact State.transition_pauseLaw _ _ (by simp)
  case stopped => simp [pauseLaw_iff, State.modeRun, State.endOfRun]
  case starting => exact hseen

theorem pauseLaw_resetAll (s : State) : PauseLaw s.resetAll := by
  simp [pauseLaw_iff, State.resetAll, State.reset, Msc.reset]

/-- Every command keeps the law of the pause. -/
theorem exec_keeps_pauseLaw (c : Instr) (s t : State) (hs : PauseLaw s) (h : exec c s = .next t) : PauseLaw t := by
  by_cases hb : Block.msc ∈ Instr.writes c
  case neg => exact exec_keeps_of_not_writes (b := .msc) (fun _ _ ht hs => hs.of_pausing (congrArg Msc.pausing ht)) hb h hs
  cases c
  case powerOnReset => cases h; exact pauseLaw_resetAll s
  case softReset =>
    cases h
    split
    · exact pauseLaw_resetAll s
    · exact hs
  case haltAsserted => cases h; exact hs.assertHalt
  case setState =>
    cases h
    split
    next =>
      split
      next target _ =>
        split
        next => exact hs.of_pausing (by simp)
        next => exact (hs.setStateEffect target).of_pausing (by simp)
      next => exact hs.of_pausing (by simp)
    next => exact hs
  case clearSafe =>
    cases h
    split
    next =>
      split
      next => exact hs.of_pausing (by simp)
      next => exact (State.transition_pauseLaw s (target := .standby) (pause := none) .order (by simp)).of_pausing (by simp)
    next => exact hs
  case autoPauseTimerExpiry =>
    cases h
    split
    next =>
      dsimp only
      split
      next => exact State.transition_pauseLaw _ _ (by simp)
      next => simpa [pauseLaw_iff] using hs.cause
    next => exact hs
  case chainageAdvanceAtMsc =>
    cases h
    split
    next s' htake =>
      have hs' : PauseLaw s' := hs.of_pausing (by simp [State.take_frame htake])
      split
      next hpave => exact (pauseLaw_iff _).mpr ⟨hs'.cause, fun _ => hpave⟩
      next =>
        split
        next => exact State.transition_pauseLaw _ _ (by simp)
        next => exact hs'
    next => exact hs
  case runStatusAtMsc =>
    cases h
    split
    next htake => exact PauseLaw.modeRun _ _ (hs.of_pausing (by simp [State.take_frame htake]))
    next => exact hs
  case travelStatusAtMsc =>
    cases h
    split
    next s' htake =>
      have hs' : PauseLaw s' := hs.of_pausing (by simp [State.take_frame htake])
      refine PauseLaw.of_pausing ?_ (State.recomputeAndShow_pausing _)
      unfold State.travelTimerMove
      split
      next hpave => exact (pauseLaw_iff _).mpr ⟨hs'.cause, fun _ => hpave⟩
      next => exact hs'.of_pausing rfl
    next => exact hs
  case haltReleased =>
    cases h
    exact hs.of_pausing (by dsimp only; (repeat' split) <;> simp [Msc.pausing])
  case referenceStatusAtMsc =>
    cases h
    split
    next htake => exact hs.of_pausing (by simp [State.take_frame htake])
    next => exact hs
  case setSide =>
    cases h
    (repeat' split) <;> first | exact hs | exact hs.of_pausing (by simp)
  case setFeed =>
    cases h
    split
    next =>
      split
      next =>
        dsimp only
        split <;> exact hs.of_pausing (by simp)
      next => exact hs.of_pausing (by simp)
    next => exact hs
  all_goals simp [Instr.writes] at hb

/-- Settles O58, by the rules of TRM's events (the first part) and of MSC's transitions (the second). -/
theorem stepKeepsTravelAndPause : Obligations.StepKeepsTravelAndPause := fun _ _ h =>
  ⟨fun hs => step_keeps (P := TravelLaw) (fun _ _ hs => hs.of_signal rfl) (fun _ hs => hs.of_signal rfl)
      exec_keeps_travelLaw hs h,
    fun hs => step_keeps (P := PauseLaw) (fun _ _ hs => hs.of_pausing rfl) (fun _ hs => hs.of_pausing rfl)
      exec_keeps_pauseLaw hs h⟩

end Sys2Proof.Machine

/-! PROOF. Every step keeps the staging list sorted, within 16 orders and without doubles, and the outcome history within 32 (R29,
R33, R37). -/
namespace Sys2Proof.Machine

/-! ## The staging list with an order put in -/

theorem stageInsert_cons (x o : Order) (l : List Order) :
    stageInsert (x :: l) o = if x.station ≤ o.station then x :: stageInsert l o else o :: x :: l := by
  by_cases h : x.station ≤ o.station <;> simp [stageInsert, h]

/-- R33: an order put after every entry whose station is at or below its own leaves the list in station order. -/
theorem stageInsert_sorted {l : List Order} {o : Order} (hl : l.Pairwise fun x y => x.station ≤ y.station) :
    (stageInsert l o).Pairwise fun x y => x.station ≤ y.station := by
  induction l with
  | nil => simp [stageInsert]
  | cons x l ih =>
    obtain ⟨hx, hrest⟩ := List.pairwise_cons.mp hl
    rw [stageInsert_cons]
    split
    next hle =>
      refine List.pairwise_cons.mpr ⟨fun y hy => ?_, ih hrest⟩
      rcases (mem_stageInsert l o y).mp hy with rfl | hy
      · exact hle
      · exact hx y hy
    next hlt =>
      have ho : o.station ≤ x.station := BitVec.le_of_lt (BitVec.not_le.mp hlt)
      refine List.pairwise_cons.mpr ⟨fun y hy => ?_, hl⟩
      rcases List.mem_cons.mp hy with rfl | hy
      · exact ho
      · exact BitVec.le_trans ho (hx y hy)

theorem stageInsert_perm (l : List Order) (o : Order) : (stageInsert l o).Perm (o :: l) := by
  obtain ⟨low, high, hl, hi, _⟩ := stageInsert_split l o
  rw [hi, hl]
  exact List.perm_middle

/-- R29: a key no entry has stays without doubles once its order is put in. -/
theorem stageInsert_nodup {α : Type} (key : Order → α) {l : List Order} {o : Order} (hl : (l.map key).Nodup)
    (ho : ∀ e ∈ l, key e ≠ key o) : ((stageInsert l o).map key).Nodup := by
  rw [((stageInsert_perm l o).map key).nodup_iff, List.map_cons, List.nodup_cons]
  exact ⟨by simpa using ho, hl⟩

/-! ## What BDR remembers -/

/-- R33, R37: what the law of the board is about. -/
def Bdr.memory (b : Bdr) : List Order × List HistoryEntry := (b.staging, b.history)

theorem BoardLaw.of_memory {s t : State} (hs : BoardLaw s) (h : t.bdr.memory = s.bdr.memory) : BoardLaw t := by
  simp only [Bdr.memory, Prod.mk.injEq] at h
  obtain ⟨hstaging, hhistory⟩ := h
  exact ⟨hstaging ▸ hs.room, hstaging ▸ hs.sorted, hstaging ▸ hs.slots, hstaging ▸ hs.stamps, hhistory ▸ hs.history⟩

/-- Entries that leave the staging list keep the law. -/
theorem BoardLaw.of_sublist {s t : State} (hs : BoardLaw s) (hstaging : t.bdr.staging.Sublist s.bdr.staging)
    (hhistory : t.bdr.history = s.bdr.history) : BoardLaw t where
  room := hstaging.length_le.trans hs.room
  sorted := hs.sorted.sublist hstaging
  slots := hs.slots.sublist (hstaging.map _)
  stamps := hs.stamps.sublist (hstaging.map _)
  history := hhistory ▸ hs.history

@[simp] theorem State.issueOutcome_memory (s : State) (state : SlotState) (result : Word) (reason : Reason)
    (ind : Indicators) : (s.issueOutcome state result reason ind).bdr.memory = s.bdr.memory := by
  unfold State.issueOutcome
  split <;> simp [Bdr.memory]

@[simp] theorem State.finishDone_memory (s : State) (result : Word) (limit soft pending : Bool) :
    (s.finishDone result limit soft pending).bdr.memory = s.bdr.memory := State.issueOutcome_memory ..

@[simp] theorem State.finishRefused_memory (s : State) (reason : Reason) :
    (s.finishRefused reason).bdr.memory = s.bdr.memory := State.issueOutcome_memory ..

@[simp] theorem State.holdInFlight_memory (s : State) : s.holdInFlight.bdr.memory = s.bdr.memory := rfl

@[simp] theorem Bdr.readSlot_memory (b : Bdr) : b.readSlot.memory = b.memory := rfl

@[simp] theorem Bdr.sweepRequest_memory (b : Bdr) : b.sweepRequest.memory = b.memory := by
  unfold Bdr.sweepRequest
  (repeat' split) <;> rfl

@[simp] theorem State.beginExecution_memory (s : State) (o : Order) (late : Bool) :
    (s.beginExecution o late).bdr.memory = s.bdr.memory := by
  unfold State.beginExecution
  dsimp only
  split
  next => rw [State.issueOutcome_memory]; rfl
  next => rfl

/-- R34: the head entry leaves the list. -/
theorem BoardLaw.startDue {s : State} (hs : BoardLaw s) : BoardLaw s.startDue := by
  unfold State.startDue
  split
  next o rest hstaging =>
    refine BoardLaw.of_memory (s := s.modBdr fun b => { b with staging := rest }) ?_ (by simp)
    exact hs.of_sublist (by simp [hstaging]) rfl
  next => exact hs

/-- R42: the head entry leaves the list, or nothing does. -/
theorem BoardLaw.stopStep {s : State} (hs : BoardLaw s) : BoardLaw s.stopStep := by
  unfold State.stopStep
  split
  next o rest hstaging => exact hs.of_sublist (by simp [hstaging]) (by simp)
  next => exact hs.of_memory (by simp [Bdr.memory])

/-- R31: at most the head entry leaves the list. -/
theorem BoardLaw.chooseNext {s : State} (hs : BoardLaw s) : BoardLaw s.chooseNext := by
  have hfree : BoardLaw (s.modBdr fun b => { b with execution := none, op := .none }) := hs.of_memory rfl
  unfold State.chooseNext
  dsimp only
  split
  next => exact hfree.stopStep
  next =>
    split
    next => exact hfree.startDue
    next => (repeat' split) <;> exact hs.of_memory rfl

/-- R37: an outcome remembered keeps the history within 32. -/
theorem BoardLaw.addHistory {s : State} (o : Order) (state : SlotState) (hs : BoardLaw s) : BoardLaw (s.addHistory o state) :=
  ⟨hs.room, hs.sorted, hs.slots, hs.stamps, pushHistory_length _ _ hs.history⟩

theorem BoardLaw.countOutcome {s : State} (hs : BoardLaw s) : BoardLaw s.countOutcome := hs.of_memory (by simp)

/-- R33: an order whose slot and stamp no entry has is staged within the room for 16. -/
theorem BoardLaw.stageOrder {s : State} {o : Order} (hs : BoardLaw s) (hslot : ∀ e ∈ s.bdr.staging, e.slot ≠ o.slot)
    (hstamp : ∀ e ∈ s.bdr.staging, e.stamp ≠ o.stamp) : BoardLaw (s.stageOrder o) := by
  unfold State.stageOrder
  split
  next => exact hs.of_memory (by simp)
  next hroom =>
    refine ⟨?_, ?_, ?_, ?_, hs.history⟩
    · simpa [stageInsert_length] using Nat.lt_of_not_le hroom
    · exact stageInsert_sorted hs.sorted
    · exact stageInsert_nodup (·.slot) hs.slots hslot
    · exact stageInsert_nodup (·.stamp) hs.stamps hstamp

/-- R29: the checks an order has passed that is taken further. -/
theorem Bdr.takeCheck_eq_none {b : Bdr} {o : Order} (h : b.takeCheck o = none) :
    (∀ e ∈ b.staging, e.slot ≠ o.slot) ∧ (o.stationPresent = true → ∀ e ∈ b.staging, e.stamp ≠ o.stamp) := by
  unfold Bdr.takeCheck at h
  split at h
  next => cases h
  next =>
    split at h
    next => cases h
    next =>
      split at h
      next => cases h
      next hslot =>
        split at h
        next => cases h
        next hstamp => exact ⟨by simpa using hslot, fun hp => by simpa [hp] using hstamp⟩

/-- R29: a take keeps the law: what it stages has passed the checks. -/
theorem BoardLaw.takeOrder {s : State} (o : Order) (hs : BoardLaw s) : BoardLaw (s.takeOrder o) := by
  unfold State.takeOrder
  have hw : BoardLaw (s.writeTaken o) := hs.of_memory (by simp)
  generalize s.writeTaken o = w at hw
  dsimp only
  split
  next =>
    refine BoardLaw.of_memory ?_ (State.issueOutcome_memory ..)
    exact hw.of_memory rfl
  next hcheck =>
    obtain ⟨hslot, hstamp⟩ := Bdr.takeCheck_eq_none hcheck
    split
    next hahead =>
      refine BoardLaw.stageOrder (hw.of_memory rfl) hslot (hstamp ?_)
      exact (Bool.and_eq_true_iff.mp hahead).1
    next =>
      refine BoardLaw.of_memory ?_ (State.beginExecution_memory ..)
      exact hw.of_memory rfl

theorem BoardLaw.judgeSlot {s : State} (slot : Nat) (hs : BoardLaw s) : BoardLaw (s.judgeSlot slot) := by
  unfold State.judgeSlot
  dsimp only
  split
  next => split <;> exact hs.of_memory rfl
  next =>
    split
    next => exact hs.takeOrder _
    next => exact hs.of_memory (by simp [State.refuseCheck, Bdr.memory])

theorem boardLaw_of_empty {s : State} (hstaging : s.bdr.staging = []) (hhistory : s.bdr.history = []) : BoardLaw s := by
  constructor <;> simp [hstaging, hhistory]

theorem BoardLaw.boardRun {s : State} (status : RunStatus) (hs : BoardLaw s) : BoardLaw (s.boardRun status) := by
  cases status
  case running => exact boardLaw_of_empty rfl rfl
  case stopping =>
    unfold State.boardRun
    dsimp only
    split
    next => exact BoardLaw.stopStep (hs.of_memory rfl)
    next => exact hs.of_memory rfl
  case starting => exact hs.of_memory rfl
  case stopped => exact hs.of_memory rfl

/-! ## The commands -/

@[simp] theorem Bdr.ite_memory (c : Prop) [Decidable c] (a b : Bdr) :
    (if c then a else b).memory = if c then a.memory else b.memory := apply_ite Bdr.memory c a b

@[simp] theorem State.startupNext_memory (s : State) (slot : Nat) : (s.startupNext slot).bdr.memory = s.bdr.memory := by
  unfold State.startupNext
  split <;> simp [State.enterRunning, Bdr.memory]

@[simp] theorem State.passLayout_memory (s : State) (l : Layout) : (s.passLayout l).bdr.memory = s.bdr.memory := by
  unfold State.passLayout
  dsimp only
  split <;> simp [Bdr.memory]

@[simp] theorem State.valueOrder_memory (s : State) (o : Order) (x : Int) (result : Int → Int → Int) :
    (s.valueOrder o x result).bdr.memory = s.bdr.memory := by simp [State.valueOrder, State.storeSetting]

@[simp] theorem State.judgeImage_memory (s : State) (k : PageKind) (image : List Byte) :
    (s.judgeImage k image).bdr.memory = s.bdr.memory := by simp [State.judgeImage]

@[simp] theorem State.finishFlush_memory (s : State) (p : OpenPage) : (s.finishFlush p).bdr.memory = s.bdr.memory := by
  simp [State.finishFlush]

@[simp] theorem State.clearHead_memory (s : State) (i : Nat) (x : Head) :
    (s.clearHead i x).bdr.memory = s.bdr.memory := by simp [State.clearHead]

/-- Every command keeps the law of the board. -/
theorem exec_keeps_boardLaw (c : Instr) (s t : State) (hs : BoardLaw s) (h : exec c s = .next t) : BoardLaw t := by
  by_cases hb : Block.bdr ∈ Instr.writes c
  case neg => exact exec_keeps_of_not_writes (b := .bdr) (fun _ _ ht hs => hs.of_memory (congrArg Bdr.memory ht)) hb h hs
  have hdone : BoardLaw (s.writeDone .board) := hs.of_memory (by simp)
  cases c
  case powerOnReset => cases h; exact boardLaw_of_empty rfl rfl
  case softReset =>
    cases h
    split
    · exact boardLaw_of_empty rfl rfl
    · exact hs
  case slotReadDone host =>
    cases h
    split
    next =>
      have hread : BoardLaw ((s.hostWrite host).modBdr fun b => { b with op := .none }) := hs.of_memory rfl
      dsimp only
      split
      next => exact hread.stopStep
      next =>
        split
        next => exact BoardLaw.startDue (hs.of_memory rfl)
        next => exact hread.judgeSlot _
    next => exact hs
  case stagedWriteDone =>
    cases h
    split
    next => exact hdone.chooseNext
    next => exact hs
  case outcomeWriteDone =>
    cases h
    split
    next =>
      split
      next => exact (hdone.addHistory _ _).countOutcome.chooseNext
      next => exact hs
    next => exact hdone.countOutcome.chooseNext
    next => exact (hdone.addHistory _ _).countOutcome.stopStep
    next => exact hs
  case withdraw =>
    cases h
    split
    next =>
      split
      next => exact hs.of_memory (by simp)
      next =>
        split
        next => exact hs.of_memory (by simp)
        next => exact hs.of_sublist List.filter_sublist rfl
    next => exact hs
  case withdrawnWriteDone =>
    cases h
    split
    next order o _ => exact (hdone.addHistory order o.state).countOutcome.of_memory (by simp)
    next => exact hs
  case chainageReportAtBdr =>
    cases h
    split
    next htake =>
      have hframe := State.take_frame htake
      dsimp only
      split
      next => exact BoardLaw.startDue (hs.of_memory (by simp [hframe, Bdr.memory]))
      next => exact hs.of_memory (by simp [hframe, Bdr.memory])
    next => exact hs
  case runStatusAtBdr =>
    cases h
    split
    next htake => exact BoardLaw.boardRun _ (hs.of_memory (by simp [State.take_frame htake]))
    next => exact hs
  case sweepTimerExpiry =>
    cases h
    split
    next => exact hs.of_memory ((Bdr.sweepRequest_memory _).trans rfl)
    next => exact hs
  case resume =>
    cases h
    split
    next => exact hs.of_memory ((Bdr.sweepRequest_memory _).trans rfl)
    next => exact hs
  case layoutReadDone =>
    cases h
    split
    next => exact hs.of_memory (by simp)
    next => exact hs
  case startupSlotReadDone =>
    cases h
    split
    next =>
      dsimp only
      split
      next => exact hs.of_memory (by simp [Bdr.memory])
      next => exact hs.of_memory (by simp)
    next => exact hs
  all_goals
    first
    | (simp [Instr.writes] at hb; done)
    | (cases h; (repeat' split) <;> first | exact hs | exact hs.of_memory (by simp))

/-- Settles O56. -/
theorem stepKeepsTheBoard : Obligations.StepKeepsTheBoard := fun _ _ hs h =>
  step_keeps (P := BoardLaw) (fun _ _ hs => hs.of_memory rfl) (fun _ hs => hs.of_memory rfl) exec_keeps_boardLaw hs h

end Sys2Proof.Machine

/-! PROOF. Every step keeps settings within their limits, pending values at AT_PAVE settings alone (R44, R45, R50), and VALID pages
within their constraints (R52, R53, R55 to R57). -/
namespace Sys2Proof.Machine

/-! ## Settings -/

/-- R44, R45: an entry keeps to the fixed part of its setting. -/
def SettingEntry.Within (e : SettingEntry) (spec : SettingSpec) : Prop :=
  (spec.low ≤ e.value ∧ e.value ≤ spec.high) ∧
    ∀ v, e.pending = some v → spec.applyClass = .atPave ∧ spec.low ≤ v ∧ v ≤ spec.high

theorem settingsLaw_iff (s : State) :
    SettingsLaw s ↔ ∀ i : SettingId, s.sps.entries[i].Within (settingSpec i) := Iff.rfl

theorem SettingsLaw.of_entries {s t : State} (hs : SettingsLaw s) (h : t.sps.entries = s.sps.entries) : SettingsLaw t := by
  unfold SettingsLaw at *
  rwa [h]

/-- R44: the limits of every setting leave a value between them. -/
theorem settingSpec_low_le_high (i : SettingId) : (settingSpec i).low ≤ (settingSpec i).high := by
  revert i
  decide

/-- R44: the reset value of every setting lies within its limits. -/
theorem settingSpec_resetValue (i : SettingId) :
    (settingSpec i).low ≤ (settingSpec i).resetValue ∧ (settingSpec i).resetValue ≤ (settingSpec i).high := by
  revert i
  decide

/-- R46: a number clamped to limits lies between them. -/
theorem clamp_within {low high : Int} (h : low ≤ high) (x : Int) : low ≤ clamp low high x ∧ clamp low high x ≤ high := by
  unfold clamp
  split
  next => omega
  next => split <;> omega

/-- R45: a value within the limits is stored, as pending at an AT_PAVE setting alone. -/
theorem SettingEntry.Within.written {e : SettingEntry} {spec : SettingSpec} {v : Int} {pends : Bool} (he : e.Within spec)
    (hv : spec.low ≤ v ∧ v ≤ spec.high) (hpends : pends = true → spec.applyClass = .atPave) :
    (e.written v pends).Within spec := by
  cases pends with
  | true =>
    refine ⟨he.1, fun w hw => ?_⟩
    cases hw
    exact ⟨hpends rfl, hv⟩
  | false => exact ⟨hv, fun w hw => nomatch hw⟩

/-- R50: at the PAVE entry a pending value becomes the value in effect. -/
theorem SettingEntry.Within.applied {e : SettingEntry} {spec : SettingSpec} (he : e.Within spec) :
    (e.applied spec.applyClass).Within spec := by
  unfold SettingEntry.applied
  split
  next v _ hv => exact ⟨(he.2 v hv).2, fun w hw => nomatch hw⟩
  next => exact he

theorem SettingsLaw.storeSetting {s : State} {i : SettingId} {v : Int} {pends : Bool} (hs : SettingsLaw s)
    (hv : (settingSpec i).low ≤ v ∧ v ≤ (settingSpec i).high)
    (hpends : pends = true → (settingSpec i).applyClass = .atPave) : SettingsLaw (s.storeSetting i v pends) := by
  rw [settingsLaw_iff] at hs ⊢
  intro j
  simp only [State.storeSetting, State.handAll_frame, State.modSps_sps, Fin.getElem_fin, Vector.getElem_set]
  split
  next hij =>
    obtain rfl : i = j := Fin.ext hij
    exact (hs i).written hv hpends
  next => exact hs j

/-- R46: a value order stores a value clamped to the limits, pending only where the class is AT_PAVE. -/
theorem SettingsLaw.valueOrder {s : State} (o : Order) (x : Int) (result : Int → Int → Int) (hs : SettingsLaw s) :
    SettingsLaw (s.valueOrder o x result) := by
  unfold State.valueOrder
  dsimp only
  split
  next => exact hs.of_entries (by simp)
  next =>
    split
    next => exact hs.of_entries (by simp)
    next =>
      have hpends : becomesPending (settingSpec o.settingId).applyClass s.msc.state = true →
          (settingSpec o.settingId).applyClass = .atPave := by
        intro h
        simp only [becomesPending, Bool.and_eq_true, beq_iff_eq] at h
        exact h.1
      refine SettingsLaw.of_entries (hs.storeSetting (clamp_within (settingSpec_low_le_high o.settingId) x) hpends) ?_
      simp only [State.finishDone_frame]

theorem settingsLaw_resetAll (s : State) : SettingsLaw s.resetAll := by
  rw [settingsLaw_iff]
  intro i
  have hentry : s.resetAll.sps.entries[i] = ⟨(settingSpec i).resetValue, none⟩ := by
    simp [State.resetAll, State.reset, Sps.reset]
  rw [hentry]
  exact ⟨settingSpec_resetValue i, fun v hv => nomatch hv⟩

/-- R50: the PAVE entry keeps every entry within its setting's fixed part. -/
theorem SettingsLaw.appliedEntries {s t : State} (hs : SettingsLaw s) (h : t.sps.entries = appliedEntries s.sps.entries) :
    SettingsLaw t := by
  rw [settingsLaw_iff] at hs ⊢
  intro i
  have hentry : t.sps.entries[i] = s.sps.entries[i].applied (settingSpec i).applyClass := by
    simp [h, Machine.appliedEntries]
  rw [hentry]
  exact (hs i).applied

@[simp] theorem Sps.setPage_entries (p : Sps) (k : PageKind) (page : Page) : (p.setPage k page).entries = p.entries := by
  cases k <;> rfl

@[simp] theorem Sps.ite_entries (c : Prop) [Decidable c] (p q : Sps) :
    (if c then p else q).entries = if c then p.entries else q.entries := apply_ite Sps.entries c p q

@[simp] theorem State.judgeImage_entries (s : State) (k : PageKind) (image : List Byte) :
    (s.judgeImage k image).sps.entries = s.sps.entries := by simp [State.judgeImage]

/-- Every command keeps the law of the settings. -/
theorem exec_keeps_settingsLaw (c : Instr) (s t : State) (hs : SettingsLaw s) (h : exec c s = .next t) : SettingsLaw t := by
  by_cases hb : Block.sps ∈ Instr.writes c
  case neg => exact exec_keeps_of_not_writes (b := .sps) (fun _ _ ht hs => hs.of_entries (congrArg Sps.entries ht)) hb h hs
  cases c
  case powerOnReset => cases h; exact settingsLaw_resetAll s
  case softReset =>
    cases h
    split
    · exact settingsLaw_resetAll s
    · exact hs
  case setValue | adjustValue | swapValue =>
    cases h
    split
    next => exact SettingsLaw.valueOrder _ _ _ hs
    next => exact hs
  case paveEntryAtSps =>
    cases h
    split
    next htake => exact hs.appliedEntries (by simp [State.take_frame htake])
    next => exact hs
  case patchPage | confirmPage | imageReadDone | loadPage =>
    cases h
    (repeat' split) <;> first | exact hs | exact hs.of_entries (by simp)
  all_goals simp [Instr.writes] at hb

/-! ## Pages -/

/-- R52, R53: a page has its length, and meets its constraints where it is VALID. -/
def Page.Meets (p : Page) (k : PageKind) : Prop :=
  p.bytes.length = k.bodyLength ∧ (p.valid = true → pageOk k p.bytes = true)

theorem PagesLaw.of_page {s t : State} (hs : PagesLaw s) (h : t.sps.page = s.sps.page) : PagesLaw t := by
  unfold PagesLaw at *
  rwa [h]

theorem Sps.page_setPage (p : Sps) (k j : PageKind) (page : Page) :
    (p.setPage k page).page j = if j = k then page else p.page j := by
  cases k <;> cases j <;> rfl

/-- A page that meets its constraints is put in its place. -/
theorem PagesLaw.setPage {s t : State} {k : PageKind} {page : Page} (hs : PagesLaw s) (hpage : page.Meets k)
    (h : t.sps = s.sps.setPage k page) : PagesLaw t := by
  intro j
  rw [h, Sps.page_setPage]
  split
  next hj => exact hj ▸ hpage
  next => exact hs j

theorem putAt_length {bs new : List Byte} {offset : Nat} (h : offset + new.length ≤ bs.length) :
    (putAt bs offset new).length = bs.length := by
  simp [putAt]
  omega

/-- R56: an item's fields lie within the eight bytes of the item. -/
theorem zonePatch_within {z f : Nat} {field : PatchField} (h : zonePatch z f = some field) :
    field.offset + field.length ≤ 196 := by
  unfold zonePatch at h
  split at h
  next => split at h <;> cases h <;> simp only [itemAt] <;> omega
  next => cases h

theorem headPatch_within {x f : Nat} {field : PatchField} (h : headPatch x f = some field) :
    field.offset + field.length ≤ 132 := by
  unfold headPatch at h
  split at h
  next => split at h <;> cases h <;> simp only [itemAt] <;> omega
  next => cases h

theorem filterPatch_within {n f : Nat} {field : PatchField} (h : filterPatch n f = some field) :
    field.offset + field.length ≤ 192 := by
  unfold filterPatch at h
  split at h
  next => split at h <;> cases h <;> dsimp only <;> omega
  next => cases h

/-- R56: a field a patch names lies within its page. -/
theorem patchField_within {k : PageKind} {index : Nat} {field : PatchField} (h : patchField k index = some field) :
    field.offset + field.length ≤ k.bodyLength := by
  cases k
  case zoneMap =>
    simp only [patchField] at h
    split at h
    next => cases h; decide
    next =>
      obtain ⟨_, _, h⟩ := Option.bind_eq_some_iff.mp h
      exact zonePatch_within h
  case headMap =>
    simp only [patchField] at h
    split at h
    next => cases h; decide
    next =>
      obtain ⟨_, _, h⟩ := Option.bind_eq_some_iff.mp h
      exact headPatch_within h
  case filter =>
    obtain ⟨_, _, h⟩ := Option.bind_eq_some_iff.mp h
    exact filterPatch_within h
  case geometry =>
    simp only [patchField] at h
    split at h <;> cases h <;> decide

/-- R56: a page keeps its length when a field is patched, and is not VALID. -/
theorem Page.Meets.patched {p : Page} {k : PageKind} {index : Nat} {field : PatchField} (hp : p.Meets k)
    (h : patchField k index = some field) (v : Nat) : (p.patched field v).Meets k := by
  refine ⟨?_, fun hvalid => nomatch hvalid⟩
  have := patchField_within h
  exact (putAt_length (by rw [leBytes_length, hp.1]; exact this)).trans hp.1

@[simp] theorem Memory.readBytes_length (m : Memory) (a n : Nat) : (m.readBytes a n).length = n := by
  induction n generalizing a with
  | zero => rfl
  | succ n ih => simp [Memory.readBytes, ih]

@[simp] theorem State.regionRead_length (s : State) (offset n : Nat) : (s.regionRead offset n).length = n :=
  Memory.readBytes_length ..

/-- R55: an image of a page's length is stored only where it meets the constraints. -/
theorem PagesLaw.judgeImage {s : State} {k : PageKind} {image : List Byte} (hs : PagesLaw s)
    (himage : image.length = k.imageLength) : PagesLaw (s.judgeImage k image) := by
  unfold State.judgeImage
  dsimp only
  split
  next => exact hs.of_page (by simp)
  next =>
    split
    next => exact hs.of_page (by simp)
    next hok =>
      refine hs.setPage (k := k) (page := ⟨image.take k.bodyLength, true⟩) ⟨?_, fun _ => by simpa using hok⟩ (by simp)
      simp [himage, PageKind.imageLength]

theorem Sps.page_withEntries (p : Sps) (entries : Vector SettingEntry 47) :
    Sps.page { p with entries := entries } = p.page := rfl

theorem State.valueOrder_page (s : State) (o : Order) (x : Int) (result : Int → Int → Int) :
    (s.valueOrder o x result).sps.page = s.sps.page := by
  unfold State.valueOrder
  dsimp only
  split
  next => simp
  next => split <;> simp [State.storeSetting, Sps.page_withEntries]

theorem pagesLaw_resetAll (s : State) : PagesLaw s.resetAll := by
  intro k
  cases k <;> exact ⟨List.length_replicate, fun h => nomatch h⟩

/-- Every command keeps the law of the pages. -/
theorem exec_keeps_pagesLaw (c : Instr) (s t : State) (hs : PagesLaw s) (h : exec c s = .next t) : PagesLaw t := by
  by_cases hb : Block.sps ∈ Instr.writes c
  case neg => exact exec_keeps_of_not_writes (b := .sps) (fun _ _ ht hs => hs.of_page (congrArg Sps.page ht)) hb h hs
  cases c
  case powerOnReset => cases h; exact pagesLaw_resetAll s
  case softReset =>
    cases h
    split
    · exact pagesLaw_resetAll s
    · exact hs
  case imageReadDone =>
    cases h
    split
    next => exact PagesLaw.judgeImage (hs.of_page (by simp; rfl)) (by simp)
    next => exact hs
  case loadPage =>
    cases h
    (repeat' split) <;> first | exact hs | exact hs.of_page (by simp)
  case patchPage =>
    cases h
    split
    next o _ =>
      split
      next => exact hs.of_page (by simp)
      next =>
        split
        next => exact hs.of_page (by simp)
        next field hfield =>
          split
          next => exact hs.of_page (by simp)
          next =>
            have hfield : patchField o.page o.a.toNat = some field := by
              split at hfield
              · cases hfield
              · exact hfield
            exact hs.setPage (Page.Meets.patched (hs o.page) hfield o.b) (by simp)
    next => exact hs
  case confirmPage =>
    cases h
    split
    next o _ =>
      dsimp only
      split
      next => exact hs.of_page (by simp)
      next hok =>
        split
        next => exact hs.of_page (by simp)
        next =>
          split
          next => exact hs.of_page (by simp)
          next =>
            refine hs.setPage (k := o.page) (page := ⟨(s.sps.page o.page).bytes, true⟩) ⟨(hs o.page).1, fun _ => ?_⟩ (by simp)
            simpa using hok
    next => exact hs
  case setValue | adjustValue | swapValue =>
    cases h
    split
    next => exact hs.of_page (State.valueOrder_page ..)
    next => exact hs
  case paveEntryAtSps =>
    cases h
    split
    next htake => exact hs.of_page (by simp [State.take_frame htake, Sps.page_withEntries])
    next => exact hs
  all_goals simp [Instr.writes] at hb

/-- Settles O57, by the rules of the store's orders. -/
theorem stepKeepsSettingsAndPages : Obligations.StepKeepsSettingsAndPages := fun _ _ h =>
  ⟨fun hs => step_keeps (P := SettingsLaw) (fun _ _ hs => hs.of_entries rfl) (fun _ hs => hs.of_entries rfl)
      exec_keeps_settingsLaw hs h,
    fun hs => step_keeps (P := PagesLaw) (fun _ _ hs => hs.of_page rfl) (fun _ hs => hs.of_page rfl)
      exec_keeps_pagesLaw hs h⟩

end Sys2Proof.Machine

/-! PROOF. Every step keeps the draw within the available power and the waiting list true (R130, R134, R136 to R139). -/
namespace Sys2Proof.Machine

/-! ## What the laws say of the Heating Controller alone -/

/-- R130: a confirm timer runs only in CLOSING. -/
def Zone.Confirms (z : Zone) : Prop := z.confirmTimer.isSome = true → z.state = .closing

/-- R134: what a zone adds to the draw. -/
def Zone.drawn (z : Zone) : Nat := if z.closed then z.rating else 0

/-- R134: what a zone takes from the available power. -/
def Zone.lost (z : Zone) : Nat := if z.welded then z.rating else 0

/-- R130: every zone's confirm timer runs only in CLOSING. -/
def Htc.Confirms (h : Htc) : Prop := ∀ z ∈ h.zones, z.Confirms

/-- R134: the draw lies within the available power. -/
def Htc.Powered (h : Htc) : Prop := h.draw ≤ h.available

/-- R136: the list holds those of a class first. -/
def Runs (main : Nat → Bool) (l : List Nat) : Prop := l = l.filter main ++ l.filter fun i => !main i

/-- R136: the waiting list holds the zones in WAITING, each once, MAIN before EXTENSION. -/
structure Htc.Waits (h : Htc) : Prop where
  once    : h.waiting.Nodup
  waiting : ∀ i, i ∈ h.waiting ↔ (h.zones[i]?).map (·.state) = some .waiting
  runs    : Runs h.isMain h.waiting

theorem heatingLaw_iff (s : State) : HeatingLaw s ↔ s.htc.Confirms ∧ s.htc.Powered :=
  ⟨fun h => ⟨h.confirm, h.draw⟩, fun ⟨hconfirm, hdraw⟩ => ⟨hdraw, hconfirm⟩⟩

theorem waitingLaw_iff (s : State) : WaitingLaw s ↔ s.htc.Confirms ∧ s.htc.Waits :=
  ⟨fun h => ⟨h.confirm, h.once, h.waiting, h.runs⟩, fun ⟨hconfirm, h⟩ => ⟨h.once, h.waiting, h.runs, hconfirm⟩⟩

/-- From one record to the next the laws of the heating are kept. -/
def Htc.Keeps (a b : Htc) : Prop := a.Confirms → b.Confirms ∧ (a.Powered → b.Powered) ∧ (a.Waits → b.Waits)

theorem Htc.Keeps.refl (a : Htc) : a.Keeps a := fun h => ⟨h, id, id⟩

theorem Htc.Keeps.trans {a b c : Htc} (hab : a.Keeps b) (hbc : b.Keeps c) : a.Keeps c := fun ha =>
  let ⟨hb, hpower, hwait⟩ := hab ha
  let ⟨hc, hpower', hwait'⟩ := hbc hb
  ⟨hc, hpower' ∘ hpower, hwait' ∘ hwait⟩

/-! ## Zones that ease -/

/-- A zone that changes adds no more to the draw, takes no more of the power, keeps its section, stays in WAITING or out of it,
and has its confirm timer run in CLOSING alone. -/
structure Zone.Eases (z w : Zone) : Prop where
  drawn   : w.drawn ≤ z.drawn
  lost    : w.lost ≤ z.lost
  sect    : w.sect = z.sect
  waiting : w.state = .waiting ↔ z.state = .waiting
  confirm : w.Confirms

theorem Zone.Eases.refl {z : Zone} (h : z.Confirms) : z.Eases z := ⟨Nat.le_refl _, Nat.le_refl _, rfl, Iff.rfl, h⟩

/-- What the laws do not speak of may change. -/
theorem Zone.Eases.of_same {z w : Zone} (h : z.Confirms) (hrating : w.rating = z.rating) (hstate : w.state = z.state)
    (hfault : w.faultKind = z.faultKind) (hsect : w.sect = z.sect) (htimer : w.confirmTimer = z.confirmTimer) :
    z.Eases w := by
  refine ⟨?_, ?_, hsect, by rw [hstate], ?_⟩
  · simp [Zone.drawn, Zone.closed, hrating, hstate]
  · simp [Zone.lost, Zone.welded, hrating, hstate, hfault]
  · simpa [Zone.Confirms, hstate, htimer] using h

theorem sum_mapIdx_le (g : Zone → Nat) (f : Nat → Zone → Zone) (l : List Zone)
    (h : ∀ k z, l[k]? = some z → g (f k z) ≤ g z) : ((l.mapIdx f).map g).sum ≤ (l.map g).sum := by
  induction l generalizing f with
  | nil => simp
  | cons z l ih =>
    have hhead := h 0 z rfl
    have htail := ih (fun k => f (k + 1)) fun k w hw => h (k + 1) w hw
    simp only [List.mapIdx_cons, List.map_cons, List.sum_cons]
    exact Nat.add_le_add hhead htail

theorem List.modify_eq_mapIdx {α : Type} (l : List α) (i : Nat) (f : α → α) :
    l.modify i f = l.mapIdx fun k x => if i = k then f x else x := by
  ext1 k
  rw [List.getElem?_modify, List.getElem?_mapIdx]
  rfl

section Eased
variable {a b : Htc} {f : Nat → Zone → Zone} (hzones : b.zones = a.zones.mapIdx f)
include hzones

theorem Htc.isMain_of_mapIdx (hsect : ∀ k z, a.zones[k]? = some z → (f k z).sect = z.sect) : b.isMain = a.isMain := by
  funext i
  rw [Htc.isMain, Htc.isMain, hzones, List.getElem?_mapIdx]
  cases hz : a.zones[i]? with
  | none => rfl
  | some z => simp [hsect i z hz]

theorem Htc.Confirms.of_mapIdx (hconfirm : ∀ k z, a.zones[k]? = some z → (f k z).Confirms) : b.Confirms := by
  intro w hw
  obtain ⟨k, hk⟩ := List.mem_iff_getElem?.mp hw
  rw [hzones, List.getElem?_mapIdx] at hk
  obtain ⟨z, hz, rfl⟩ := Option.map_eq_some_iff.mp hk
  exact hconfirm k z hz

theorem Htc.Powered.of_mapIdx (ha : a.Powered) (hbudget : a.budget ≤ b.budget)
    (hdrawn : ∀ k z, a.zones[k]? = some z → (f k z).drawn ≤ z.drawn)
    (hlost : ∀ k z, a.zones[k]? = some z → (f k z).lost ≤ z.lost) : b.Powered := by
  have hdraw : b.draw ≤ a.draw := by
    rw [Htc.draw, Htc.draw, hzones]
    exact sum_mapIdx_le Zone.drawn f a.zones hdrawn
  have hwelded : b.weldedRating ≤ a.weldedRating := by
    rw [Htc.weldedRating, Htc.weldedRating, hzones]
    exact sum_mapIdx_le Zone.lost f a.zones hlost
  simp only [Htc.Powered, Htc.available] at ha ⊢
  omega

/-- R136: the waiting list after zones changed, from what stands in it. -/
theorem Htc.Waits.of_mapIdx (honce : b.waiting.Nodup)
    (hwaiting : ∀ k, k ∈ b.waiting ↔ ∃ z, a.zones[k]? = some z ∧ (f k z).state = .waiting)
    (hsect : ∀ k z, a.zones[k]? = some z → (f k z).sect = z.sect) (hruns : Runs a.isMain b.waiting) : b.Waits := by
  refine ⟨honce, fun k => ?_, ?_⟩
  · rw [hwaiting, hzones, List.getElem?_mapIdx, Option.map_map, Option.map_eq_some_iff]
    rfl
  · rw [Htc.isMain_of_mapIdx hzones hsect]
    exact hruns

/-- R136: zones that ease keep the laws while the list stands and the budget does not fall. -/
theorem Htc.keeps_mapIdx (hwaiting : b.waiting = a.waiting) (hbudget : a.budget ≤ b.budget)
    (hf : ∀ (k : Nat) (z : Zone), a.zones[k]? = some z → z.Confirms → z.Eases (f k z)) : a.Keeps b := by
  intro ha
  have heases (k : Nat) (z : Zone) (hz : a.zones[k]? = some z) : z.Eases (f k z) :=
    hf k z hz (ha z (List.mem_of_getElem? hz))
  refine ⟨.of_mapIdx hzones fun k z hz => (heases k z hz).confirm,
    fun hpower => hpower.of_mapIdx hzones hbudget (fun k z hz => (heases k z hz).drawn) fun k z hz => (heases k z hz).lost,
    fun hw => .of_mapIdx hzones (hwaiting ▸ hw.once) (fun k => ?_) (fun k z hz => (heases k z hz).sect)
      (hwaiting ▸ hw.runs)⟩
  rw [hwaiting, hw.waiting, Option.map_eq_some_iff]
  exact exists_congr fun z => and_congr_right fun hz => (heases k z hz).waiting.symm

end Eased

theorem mapIdx_same (l : List Zone) : (l.mapIdx fun _ z => z) = l := by
  ext1 k
  simp

theorem Htc.keeps_of_zones {a b : Htc} (hzones : b.zones = a.zones) (hwaiting : b.waiting = a.waiting)
    (hbudget : a.budget ≤ b.budget) : a.Keeps b :=
  Htc.keeps_mapIdx (f := fun _ z => z) (hzones.trans (mapIdx_same _).symm) hwaiting hbudget fun _ _ _ h => .refl h

/-! ## The runs of the waiting list -/

theorem Runs.filter {main : Nat → Bool} {l : List Nat} (h : Runs main l) (p : Nat → Bool) : Runs main (l.filter p) := by
  unfold Runs at *
  conv_lhs => rw [h, List.filter_append]
  simp only [List.filter_filter, Bool.and_comm]

theorem runs_nil (main : Nat → Bool) : Runs main [] := rfl

/-- R136: a zone of EXTENSION joins at the tail. -/
theorem Runs.append_rest {main : Nat → Bool} {l : List Nat} {i : Nat} (h : Runs main l) (hi : main i = false) :
    Runs main (l ++ [i]) := by
  unfold Runs at *
  simp only [List.filter_append, List.filter_singleton, hi, Bool.not_false, cond_true, cond_false, List.append_nil,
    ← List.append_assoc, ← h]

/-- R136: a zone of MAIN joins behind the zones of its class. -/
theorem runs_insert_main {main : Nat → Bool} {i : Nat} (l : List Nat) (hi : main i = true) :
    Runs main (l.filter main ++ i :: l.filter fun k => !main k) := by
  unfold Runs
  simp [List.filter_append, List.filter_filter, hi]

/-! ## Zones that leave their state -/

theorem Zone.release_confirms (z : Zone) (now : Word) (state : ZoneState) : (z.release now state).Confirms :=
  fun h => nomatch h

theorem Zone.release_drawn (z : Zone) (now : Word) {state : ZoneState} (hclosing : state ≠ .closing) (hon : state ≠ .on) :
    (z.release now state).drawn = 0 := by simp [Zone.drawn, Zone.closed, Zone.release, hclosing, hon]

theorem Zone.release_lost (z : Zone) (now : Word) {state : ZoneState} (hfault : state ≠ .fault) :
    (z.release now state).lost = 0 := by simp [Zone.lost, Zone.welded, Zone.release, hfault]

theorem State.leaveZone_zones (s : State) (i : Nat) (state : ZoneState) : (s.leaveZone i state).htc.zones =
    s.htc.zones.mapIdx fun k z => if i = k then z.release s.now state else z := List.modify_eq_mapIdx ..

theorem State.leaveZone_waiting (s : State) (i : Nat) (state : ZoneState) :
    (s.leaveZone i state).htc.waiting = s.htc.waiting.filter (· != i) := rfl

section Leave
variable {s : State} (i : Nat) {state : ZoneState}

theorem State.leaveZone_confirms (hs : s.htc.Confirms) : (s.leaveZone i state).htc.Confirms := by
  refine .of_mapIdx (s.leaveZone_zones i state) fun k z hz => ?_
  split
  next => exact z.release_confirms _ _
  next => exact hs z (List.mem_of_getElem? hz)

theorem State.leaveZone_powered (hs : s.htc.Powered) (hclosing : state ≠ .closing) (hon : state ≠ .on)
    (hfault : state ≠ .fault) : (s.leaveZone i state).htc.Powered := by
  refine .of_mapIdx (s.leaveZone_zones i state) hs (Nat.le_refl _) (fun k z _ => ?_) fun k z _ => ?_
  · split
    next => rw [z.release_drawn _ hclosing hon]; exact Nat.zero_le _
    next => exact Nat.le_refl _
  · split
    next => rw [z.release_lost _ hfault]; exact Nat.zero_le _
    next => exact Nat.le_refl _

/-- R136: a zone that leaves WAITING leaves the list. -/
theorem State.leaveZone_waits (hs : s.htc.Waits) (hstate : state ≠ .waiting) : (s.leaveZone i state).htc.Waits := by
  refine .of_mapIdx (s.leaveZone_zones i state) (hs.once.filter _) (fun k => ?_) (fun k z _ => ?_) (hs.runs.filter _)
  · rw [State.leaveZone_waiting, List.mem_filter, hs.waiting, Option.map_eq_some_iff]
    by_cases hk : k = i
    · simp [hk, Zone.release, hstate]
    · simp [hk, Ne.symm hk]
  · split <;> rfl

/-- R127: a zone leaves its state for DISABLED, LOCKED or IDLE. -/
theorem State.leaveZone_keeps (hclosing : state ≠ .closing) (hon : state ≠ .on) (hfault : state ≠ .fault)
    (hwaiting : state ≠ .waiting) : s.htc.Keeps (s.leaveZone i state).htc := fun hconfirm =>
  ⟨State.leaveZone_confirms i hconfirm, fun h => State.leaveZone_powered i h hclosing hon hfault,
    fun h => State.leaveZone_waits i h hwaiting⟩

/-- R136: a zone that joins the list stands in it beside those before. -/
theorem Htc.join_perm (h : Htc) (i : Nat) : ((h.join i).waiting).Perm (i :: h.waiting) := by
  simp only [Htc.join]
  split
  next => exact List.perm_middle.trans (.cons i (List.filter_append_perm ..))
  next => exact List.perm_append_comm

theorem Htc.join_runs (h : Htc) (i : Nat) (hruns : Runs h.isMain h.waiting) : Runs h.isMain (h.join i).waiting := by
  simp only [Htc.join]
  split
  next hmain => exact runs_insert_main _ hmain
  next hmain => exact hruns.append_rest (Bool.not_eq_true _ ▸ hmain)

theorem State.leaveZone_isMain : (s.leaveZone i state).htc.isMain = s.htc.isMain :=
  Htc.isMain_of_mapIdx (s.leaveZone_zones i state) fun k z _ => by split <;> rfl

/-- R136: a zone of the table becomes WAITING and joins the list in its class. -/
theorem State.waitZone_waits (hs : s.htc.Waits) {z : Zone} (hz : s.htc.zones[i]? = some z) : (s.waitZone i).htc.Waits := by
  have hperm : (s.waitZone i).htc.waiting.Perm (i :: (s.leaveZone i .waiting).htc.waiting) := Htc.join_perm _ i
  refine .of_mapIdx (b := (s.waitZone i).htc) (s.leaveZone_zones i .waiting) ?_ (fun k => ?_) (fun k z _ => ?_) ?_
  · refine hperm.nodup_iff.mpr (List.nodup_cons.mpr ⟨?_, hs.once.filter _⟩)
    simp [State.leaveZone_waiting]
  · rw [hperm.mem_iff, List.mem_cons, State.leaveZone_waiting, List.mem_filter, hs.waiting, Option.map_eq_some_iff]
    by_cases hk : k = i
    · simp [hk, hz, Zone.release]
    · simp [hk, Ne.symm hk]
  · split <;> rfl
  · have hruns : Runs (s.leaveZone i .waiting).htc.isMain (s.leaveZone i .waiting).htc.waiting := by
      rw [State.leaveZone_isMain]
      exact hs.runs.filter _
    have := Htc.join_runs _ i hruns
    rwa [State.leaveZone_isMain] at this

/-- R129, R131, R134: a zone of the table becomes WAITING. -/
theorem State.waitZone_keeps {z : Zone} (hz : s.htc.zones[i]? = some z) : s.htc.Keeps (s.waitZone i).htc := fun hconfirm =>
  ⟨State.leaveZone_confirms i (state := .waiting) hconfirm,
    fun h => State.leaveZone_powered i (state := .waiting) h (by decide) (by decide) (by decide),
    fun h => State.waitZone_waits i h hz⟩

end Leave

/-! ## A grant attempt -/

/-- R138: a zone as a grant leaves it. -/
def State.granted (s : State) (z : Zone) : Zone :=
  { z with
    state := .closing, grantTime := some s.now, onCount := z.onCount + 1
    confirmTimer := s.startTimer (s.settingNat Setting.confirmTime)
    maxOnTimer := s.startTimer (s.settingNat Setting.maxOn) }

theorem State.grant_zones (s : State) (i : Nat) :
    (s.grant i).htc.zones = s.htc.zones.mapIdx fun k z => if i = k then s.granted z else z := List.modify_eq_mapIdx ..

/-- R137: a zone that may be granted fits the available power less the draw. -/
theorem Htc.fits_of_grantable {h : Htc} {i : Nat} (hg : h.grantable i = true) :
    ∃ z, h.zones[i]? = some z ∧ h.draw + z.rating ≤ h.available := by
  unfold Htc.grantable at hg
  split at hg
  next z hz =>
    simp only [Htc.fits, Bool.and_eq_true, decide_eq_true_eq] at hg
    exact ⟨z, hz, hg.1⟩
  next => cases hg

/-- R137: the draw with a zone granted lies within the available power. -/
theorem State.grant_powered {s : State} {i : Nat} (hg : s.htc.grantable i = true) : (s.grant i).htc.Powered := by
  obtain ⟨z, hz, hfits⟩ := Htc.fits_of_grantable hg
  have hdraw : (s.grant i).htc.draw ≤ s.htc.draw + z.rating :=
    sum_modify_le _ i s.granted Zone.drawn z _ hz (by simp [State.granted, Zone.drawn, Zone.closed])
  have hwelded : (s.grant i).htc.weldedRating ≤ s.htc.weldedRating :=
    sum_modify_le _ i s.granted Zone.lost z 0 hz (by simp [State.granted, Zone.lost, Zone.welded])
  have hbudget : (s.grant i).htc.budget = s.htc.budget := rfl
  simp only [Htc.Powered, Htc.available, hbudget] at hfits ⊢
  omega

theorem State.grant_waits {s : State} {i : Nat} (hs : s.htc.Waits) : (s.grant i).htc.Waits := by
  refine .of_mapIdx (s.grant_zones i) (hs.once.filter (· != i)) (fun k => ?_) (fun k z _ => ?_) (hs.runs.filter (· != i))
  · show k ∈ s.htc.waiting.filter (· != i) ↔ _
    rw [List.mem_filter, hs.waiting, Option.map_eq_some_iff]
    by_cases hk : k = i
    · simp [hk, State.granted]
    · simp [hk, Ne.symm hk]
  · split <;> rfl

theorem State.grant_keeps (s : State) {i : Nat} (hg : s.htc.grantable i = true) : s.htc.Keeps (s.grant i).htc := by
  refine fun hconfirm => ⟨.of_mapIdx (s.grant_zones i) fun k z hz => ?_, fun _ => State.grant_powered hg, State.grant_waits⟩
  split
  next => exact fun _ => rfl
  next => exact hconfirm z (List.mem_of_getElem? hz)

theorem Htc.keeps_setArbiter (h : Htc) : h.Keeps h.setArbiter := fun hconfirm => ⟨hconfirm, id, fun hw => ⟨hw.1, hw.2, hw.3⟩⟩

/-- R137, R138: a grant attempt keeps the laws: the zone granted fits the available power and leaves the list. -/
theorem State.attempt_keeps (s : State) : s.htc.Keeps s.attempt.htc := by
  unfold State.attempt
  split
  next i hfind =>
    exact (s.grant_keeps (List.find?_some hfind)).trans (Htc.keeps_setArbiter _)
  next => exact Htc.keeps_setArbiter _

/-! ## Shedding -/

theorem countP_modify_lt {l : List Zone} {i : Nat} {z : Zone} {f : Zone → Zone} {p : Zone → Bool} (hz : l[i]? = some z)
    (hp : p z = true) (hf : p (f z) = false) : (l.modify i f).countP p + 1 = l.countP p := by
  induction l generalizing i with
  | nil => simp at hz
  | cons x l ih =>
    cases i with
    | zero =>
      obtain rfl : x = z := by simpa using hz
      simp [hp, hf]
    | succ i =>
      have := ih (i := i) (by simpa using hz)
      simp only [List.modify_succ_cons, List.countP_cons]
      omega

theorem Htc.draw_eq_zero {h : Htc} (hopen : ∀ z ∈ h.zones, z.closed = false) : h.draw = 0 := by
  refine List.sum_eq_zero fun n hn => ?_
  obtain ⟨z, hz, rfl⟩ := List.mem_map.mp hn
  simp [hopen z hz]

/-- R134: a zone to shed stands in CLOSING or ON. -/
theorem Htc.victim_closed {h : Htc} {now : Word} {i : Nat} (hi : h.victim now = some i) :
    ∃ z, h.zones[i]? = some z ∧ z.closed = true := by
  have hmem : ∃ main, i ∈ h.closedOf main := by
    unfold Htc.victim at hi
    cases hfalse : leastBy (h.grantAge now) (h.closedOf false) with
    | some k =>
      obtain rfl : k = i := by simpa [hfalse] using hi
      exact ⟨false, ((leastBy_spec _ _).2 k hfalse).1⟩
    | none => exact ⟨true, ((leastBy_spec _ _).2 i (by simpa [hfalse] using hi)).1⟩
  obtain ⟨main, hmem⟩ := hmem
  simp only [Htc.closedOf, List.mem_filter, Bool.and_eq_true, Option.any_eq_true] at hmem
  exact hmem.2.1

/-- R134: with no zone to shed every contactor stands open. -/
theorem Htc.open_of_no_victim {h : Htc} {now : Word} (hnone : h.victim now = none) : ∀ z ∈ h.zones, z.closed = false := by
  intro z hz
  obtain ⟨i, hi⟩ := List.mem_iff_getElem?.mp hz
  by_contra hclosed
  have hmem : i ∈ h.closedOf (h.isMain i) := by
    obtain ⟨hlt, _⟩ := List.getElem?_eq_some_iff.mp hi
    have hmatch : (h.zones[i]?).any Zone.closed = true := by simpa [hi] using hclosed
    simp only [Htc.closedOf, List.mem_filter, List.mem_range, hlt, hmatch, beq_self_eq_true, Bool.and_self, and_self]
  obtain ⟨hext, hmain⟩ : h.closedOf false = [] ∧ h.closedOf true = [] := by
    simpa [Htc.victim, (leastBy_spec _ _).1] using hnone
  cases hclass : h.isMain i <;> simp [hclass, hext, hmain] at hmem

theorem State.shedZone_htc (s : State) (i : Nat) : (s.shedZone i).htc = (s.waitZone i).htc := by simp [State.shedZone]

/-- R134: shedding keeps the confirm law and the waiting list. -/
theorem State.shed_keeps (fuel : Nat) (s : State) : s.htc.Keeps (State.shed fuel s).htc := by
  induction fuel generalizing s with
  | zero => exact .refl _
  | succ fuel ih =>
    unfold State.shed
    split
    next => exact .refl _
    next =>
      split
      next i hi =>
        obtain ⟨z, hz, _⟩ := Htc.victim_closed hi
        refine Htc.Keeps.trans ?_ (ih _)
        rw [State.shedZone_htc]
        exact s.waitZone_keeps i hz
      next => exact .refl _

/-- R134: with as many sheddings as contactors closed the draw comes within the available power. -/
theorem State.shed_powered {fuel : Nat} {s : State} (hfuel : s.htc.zones.countP Zone.closed ≤ fuel) :
    (State.shed fuel s).htc.Powered := by
  induction fuel generalizing s with
  | zero =>
    have hopen : ∀ z ∈ s.htc.zones, z.closed = false := by
      simpa [List.countP_eq_zero] using hfuel
    simp [State.shed, Htc.Powered, Htc.draw_eq_zero hopen]
  | succ fuel ih =>
    unfold State.shed
    split
    next hle => exact hle
    next =>
      split
      next i hi =>
        obtain ⟨z, hz, hclosed⟩ := Htc.victim_closed hi
        refine ih ?_
        have hless := countP_modify_lt (f := fun z => z.release s.now .waiting) hz hclosed rfl
        rw [State.shedZone_htc]
        show (s.htc.zones.modify i fun z => z.release s.now .waiting).countP Zone.closed ≤ fuel
        omega
      next hnone => simp [Htc.Powered, Htc.draw_eq_zero (Htc.open_of_no_victim hnone)]

/-- R134: after shedding the draw lies within the available power, whatever it was before. -/
theorem State.shedAll_powered (s : State) : s.shedAll.htc.Powered := State.shed_powered List.countP_le_length

/-! ## The budget and the faults -/

theorem State.reportLow_keeps (s : State) : s.htc.Keeps s.reportLow.htc := by
  unfold State.reportLow
  split
  next => split <;> exact Htc.keeps_of_zones (by simp) (by simp) (by simp)
  next => exact .refl _

/-- R134: shedding mends the draw, so that before it only the confirm law and the waiting list need be kept. -/
theorem State.keeps_shedAll {a : Htc} {s : State} (h : a.Confirms → s.htc.Confirms ∧ (a.Waits → s.htc.Waits)) :
    a.Keeps s.shedAll.htc := by
  intro ha
  obtain ⟨hconfirm, hwaits⟩ := h ha
  obtain ⟨hconfirm', _, hwaits'⟩ := State.shed_keeps _ s hconfirm
  exact ⟨hconfirm', fun _ => s.shedAll_powered, hwaits' ∘ hwaits⟩

/-- R133 to R135: a recompute of the budget keeps the laws: a fall sheds, a rise grants. -/
theorem State.recomputeBudget_keeps (s : State) : s.htc.Keeps s.recomputeBudget.htc := by
  unfold State.recomputeBudget
  dsimp only
  split
  next hrise =>
    refine Htc.Keeps.trans ?_ (State.attempt_keeps _)
    exact Htc.keeps_of_zones rfl rfl (Nat.le_of_lt hrise)
  next hrise =>
    split
    next =>
      split
      next hle =>
        refine Htc.Keeps.trans ?_ (State.reportLow_keeps _)
        exact fun ha => ⟨ha, fun _ => hle, fun hw => ⟨hw.once, hw.waiting, hw.runs⟩⟩
      next =>
        refine Htc.Keeps.trans (Htc.Keeps.trans ?_ (State.reportLow_keeps _)) (State.attempt_keeps _)
        exact State.keeps_shedAll fun ha => ⟨ha, fun hw => ⟨hw.once, hw.waiting, hw.runs⟩⟩
    next hfall => exact Htc.keeps_of_zones rfl rfl (Nat.not_lt.mp hfall)

theorem State.modZone_zones (s : State) (i : Nat) (f : Zone → Zone) :
    (s.modZone i f).htc.zones = s.htc.zones.mapIdx fun k z => if i = k then f z else z := List.modify_eq_mapIdx ..

/-- A zone that eases keeps the laws. -/
theorem State.modZone_keeps {s : State} {i : Nat} {f : Zone → Zone}
    (hf : ∀ z, s.htc.zones[i]? = some z → z.Confirms → z.Eases (f z)) : s.htc.Keeps (s.modZone i f).htc := by
  refine Htc.keeps_mapIdx (s.modZone_zones i f) rfl (Nat.le_refl _) fun k z hz hconfirm => ?_
  split
  next hk => exact hf z (hk ▸ hz) hconfirm
  next => exact .refl hconfirm

/-- R132: an entry into FAULT keeps the laws: what a WELDED zone takes from the power is shed. -/
theorem State.enterFault_keeps (s : State) (i : Nat) (kind : ZoneFault) : s.htc.Keeps (s.enterFault i kind).htc := by
  unfold State.enterFault
  refine Htc.Keeps.trans ?_ (State.attempt_keeps _)
  refine State.keeps_shedAll fun ha => ?_
  simp only [State.postNote_frame]
  have hzones := (s.leaveZone i .fault).modZone_zones i fun z => { z with faultKind := some kind }
  refine ⟨.of_mapIdx hzones fun k z hz => ?_, fun hw => ?_⟩
  · have hz := State.leaveZone_confirms i (state := .fault) ha z (List.mem_of_getElem? hz)
    split
    next => exact hz
    next => exact hz
  · have hleft := State.leaveZone_waits i hw (state := .fault) (by decide)
    refine .of_mapIdx hzones hleft.once (fun k => ?_) (fun k z _ => by split <;> rfl) hleft.runs
    refine (hleft.waiting k).trans (Option.map_eq_some_iff.trans (exists_congr fun z => and_congr_right fun _ => ?_))
    split <;> rfl

/-- R127: a settled zone is out of the list with its contactor open. -/
theorem Htc.settled_cases (h : Htc) (i : Nat) (sect : Section) :
    h.settled i sect = .disabled ∨ h.settled i sect = .idle ∨ h.settled i sect = .locked := by
  unfold Htc.settled
  split
  next => exact .inl rfl
  next => split <;> simp

/-- R127: a zone with its contactor open is settled. -/
theorem Zone.eases_settled {z : Zone} {h : Htc} {i : Nat} {sect : Section} (hz : z.state = .disabled ∨ z.state = .fault)
    (hconfirm : z.Confirms) (kind : Option ZoneFault) :
    z.Eases { z with state := h.settled i sect, faultKind := kind } := by
  have hnone : ¬ z.confirmTimer.isSome = true := fun h => by
    have := hconfirm h
    simp [this] at hz
  have hwait : z.state ≠ .waiting := by rcases hz with h | h <;> simp [h]
  rcases h.settled_cases i sect with hs | hs | hs <;>
    exact ⟨by simp [Zone.drawn, Zone.closed, hs], by simp [Zone.lost, Zone.welded, hs], rfl, by simp [hs, hwait],
      fun h => absurd h hnone⟩

/-! ## The commands -/

theorem State.runTo_htc (s : State) (expiry : Word) :
    (s.runTo expiry).htc = { s.htc with clock := s.htc.clock + msUntil s.now expiry } := rfl

theorem State.temperatureMoves_keeps {s : State} {i : Nat} {z w : Zone} (temperature : Int) (hw : s.htc.zones[i]? = some w) :
    s.htc.Keeps (s.temperatureMoves i z temperature).htc := by
  unfold State.temperatureMoves
  dsimp only
  split
  next =>
    split
    next => exact (s.waitZone_keeps i hw).trans (State.attempt_keeps _)
    next => exact .refl _
  next =>
    split
    next =>
      exact (s.leaveZone_keeps i (state := .idle) (by decide) (by decide) (by decide) (by decide)).trans
        (State.attempt_keeps _)
    next => exact .refl _
  next =>
    split
    next =>
      exact (s.leaveZone_keeps i (state := .idle) (by decide) (by decide) (by decide) (by decide)).trans
        (State.attempt_keeps _)
    next => exact .refl _
  next => exact .refl _

theorem exec_zoneSample_keeps {s t : State} {zone : Fin 24} {temperature : Int} {current : Nat}
    (h : exec (.zoneSample zone temperature current) s = .next t) : s.htc.Keeps t.htc := by
  cases h
  split
  next z hz =>
    split
    next =>
      refine Htc.Keeps.trans (State.modZone_keeps (i := zone.val)
        (f := fun z => { z with temperature := some temperature, current := some current })
        fun z _ h => .of_same h rfl rfl rfl rfl rfl) ?_
      unfold State.judgeSample
      split
      next => exact State.enterFault_keeps _ _ _
      next =>
        split
        next => exact State.enterFault_keeps _ _ _
        next =>
          refine State.temperatureMoves_keeps (w := { z with temperature := some temperature, current := some current }) _ ?_
          simp [State.modZone, Htc.modZone, hz]
    next => exact .refl _
  next => exact .refl _

/-- R130: a zone whose confirm timer runs is CLOSING, so that its entry into ON leaves the waiting list as it is. -/
theorem exec_confirmTimerExpiry_keeps {s t : State} {zone : Fin 24} {current : Nat}
    (h : exec (.confirmTimerExpiry zone current) s = .next t) : s.htc.Keeps t.htc := by
  cases h
  split
  next expiry hexpiry =>
    obtain ⟨z, hz, htimer⟩ := Option.bind_eq_some_iff.mp hexpiry
    unfold State.confirmEnds
    dsimp only
    split
    next =>
      refine (Htc.keeps_of_zones (a := s.htc) (b := (s.runTo expiry).htc) rfl rfl (Nat.le_refl _)).trans ?_
      have hzones : (((s.runTo expiry).modZone zone.val fun z => { z with current := some current, confirmTimer := none }).modZone
          zone.val fun z => { z with state := .on }).htc.zones = (s.runTo expiry).htc.zones.mapIdx fun k z =>
            if zone.val = k then { z with current := some current, confirmTimer := none, state := .on } else z := by
        rw [State.modZone_zones, State.modZone_zones, List.mapIdx_mapIdx]
        congr 1
        funext k z
        dsimp only [Function.comp_apply]
        split <;> rfl
      refine Htc.keeps_mapIdx hzones rfl (Nat.le_refl _) fun k w hw hconfirm => ?_
      split
      next hk =>
        obtain rfl : z = w := by
          subst hk
          exact Option.some.inj (hz.symm.trans hw)
        have hclosing := hconfirm (by simp [htimer])
        exact ⟨by simp [Zone.drawn, Zone.closed, hclosing], by simp [Zone.lost, Zone.welded], rfl, by simp [hclosing],
          fun h => nomatch h⟩
      next => exact .refl hconfirm
    next =>
      refine Htc.Keeps.trans ?_ (State.enterFault_keeps _ _ _)
      refine (Htc.keeps_of_zones (a := s.htc) (b := (s.runTo expiry).htc) rfl rfl (Nat.le_refl _)).trans ?_
      exact State.modZone_keeps fun z _ h =>
        ⟨Nat.le_refl _, Nat.le_refl _, rfl, Iff.rfl, fun h => nomatch h⟩
  next => exact .refl _

theorem exec_maxOnExpiry_keeps {s t : State} {zone : Fin 24} (h : exec (.maxOnExpiry zone) s = .next t) :
    s.htc.Keeps t.htc := by
  cases h
  split
  next z hz =>
    split
    next expiry _ _ =>
      refine (Htc.keeps_of_zones (a := s.htc) (b := (s.runTo expiry).htc) rfl rfl (Nat.le_refl _)).trans ?_
      unfold State.rotate
      split
      next => exact (State.waitZone_keeps (s := s.runTo expiry) _ hz).trans (State.attempt_keeps _)
      next =>
        exact (State.leaveZone_keeps _ (by decide) (by decide) (by decide) (by decide)).trans (State.attempt_keeps _)
    next => exact .refl _
  next => exact .refl _

/-- R128: at level OFF every zone but a WELDED one is DISABLED; no contactor is closed and no zone waits. -/
theorem Zone.off_cases (z : Zone) (now : Word) :
    (z.off now).sect = z.sect ∧ (z.off now).drawn = 0 ∧ (z.off now).lost ≤ z.lost ∧ (z.off now).state ≠ .waiting ∧
      (z.Confirms → (z.off now).Confirms) := by
  unfold Zone.off
  split
  next hwelded =>
    have hfault : z.state = .fault := by simpa [Zone.welded] using (Bool.and_eq_true_iff.mp hwelded).1
    exact ⟨rfl, by simp [Zone.drawn, Zone.closed, hfault], Nat.le_refl _, by simp [hfault], id⟩
  next =>
    exact ⟨rfl, by simp [Zone.drawn, Zone.closed, Zone.release], by simp [Zone.lost, Zone.welded, Zone.release],
      by simp [Zone.release], fun _ => fun h => nomatch h⟩

theorem State.takeLevel_keeps (s : State) (level : HeatLevel) : s.htc.Keeps (s.takeLevel level).htc := by
  unfold State.takeLevel
  dsimp only
  split
  next =>
    intro ha
    refine ⟨.of_mapIdx rfl fun k z hz => (z.off_cases s.now).2.2.2.2 (ha z (List.mem_of_getElem? hz)),
      fun hp => .of_mapIdx (a := s.htc) rfl hp (Nat.le_refl _) (fun k z _ => ?_) fun k z _ => (z.off_cases s.now).2.2.1,
      fun hw => .of_mapIdx (a := s.htc) rfl (List.nodup_nil) (fun k => ?_) (fun k z _ => (z.off_cases s.now).1) (runs_nil _)⟩
    · rw [(z.off_cases s.now).2.1]
      exact Nat.zero_le _
    · simpa using fun z _ => (z.off_cases s.now).2.2.2.1
  next =>
    split
    next =>
      refine Htc.keeps_mapIdx (a := s.htc) rfl rfl (Nat.le_refl _) fun k z _ hconfirm => ?_
      split
      next hdisabled => exact Zone.eases_settled (.inl hdisabled) hconfirm z.faultKind
      next => exact .refl hconfirm
    next => exact Htc.keeps_of_zones rfl rfl (Nat.le_refl _)

/-- R139: at a new live zone set a zone's contactor is opened or stands, and a zone is WAITING that was and is still live. -/
theorem Zone.relive_cases (z : Zone) (live : LiveSet) (now : Word) :
    (z.relive live now).sect = z.sect ∧ (z.relive live now).drawn ≤ z.drawn ∧ (z.relive live now).lost ≤ z.lost ∧
      ((z.relive live now).state = .waiting → z.state = .waiting) ∧ (z.Confirms → (z.relive live now).Confirms) := by
  have hreleased : (z.release now .locked).sect = z.sect ∧ (z.release now .locked).drawn ≤ z.drawn ∧
      (z.release now .locked).lost ≤ z.lost ∧ ((z.release now .locked).state = .waiting → z.state = .waiting) ∧
      (z.Confirms → (z.release now .locked).Confirms) :=
    ⟨rfl, by simp [Zone.drawn, Zone.closed, Zone.release], by simp [Zone.lost, Zone.welded, Zone.release],
      fun h => (by simp [Zone.release] at h), fun _ => z.release_confirms _ _⟩
  have hsame : z.sect = z.sect ∧ z.drawn ≤ z.drawn ∧ z.lost ≤ z.lost ∧ (z.state = .waiting → z.state = .waiting) ∧
      (z.Confirms → z.Confirms) := ⟨rfl, Nat.le_refl _, Nat.le_refl _, id, id⟩
  unfold Zone.relive
  split
  case h_5 hlocked =>
    split
    next =>
      refine ⟨rfl, by simp [Zone.drawn, Zone.closed], by simp [Zone.lost, Zone.welded], fun h => (nomatch h), fun h ht => ?_⟩
      have := h ht
      simp [hlocked] at this
    next => exact hsame
  case h_6 | h_7 => exact hsame
  all_goals split <;> assumption

/-- R139: a new live zone set keeps the laws: the list keeps the zones still WAITING. -/
theorem State.takeLive_keeps (s : State) (live : LiveSet) : s.htc.Keeps (s.takeLive live).htc := by
  unfold State.takeLive
  refine Htc.Keeps.trans ?_ (State.attempt_keeps _)
  intro ha
  have hzones : (s.modHtc fun h =>
      (Htc.mapZones { h with liveSeen := live } fun _ z => z.relive live s.now).pruneWaiting).htc.zones =
      s.htc.zones.mapIdx fun _ z => z.relive live s.now := rfl
  refine ⟨.of_mapIdx hzones fun k z hz => (z.relive_cases live s.now).2.2.2.2 (ha z (List.mem_of_getElem? hz)),
    fun hp => .of_mapIdx hzones hp (Nat.le_refl _) (fun k z _ => (z.relive_cases live s.now).2.1)
      fun k z _ => (z.relive_cases live s.now).2.2.1,
    fun hw => .of_mapIdx hzones (hw.once.filter _) (fun k => ?_) (fun k z _ => (z.relive_cases live s.now).1)
      (hw.runs.filter _)⟩
  simp only [State.modHtc_htc, Htc.pruneWaiting, Htc.mapZones, List.mem_filter, hw.waiting, Option.map_eq_some_iff,
    List.getElem?_mapIdx, Option.any_map, Option.any_eq_true]
  constructor
  · rintro ⟨_, z, hz, hwaiting⟩
    exact ⟨z, hz, by simpa using hwaiting⟩
  · rintro ⟨z, hz, hwaiting⟩
    exact ⟨⟨z, hz, (z.relive_cases live s.now).2.2.2.1 hwaiting⟩, z, hz, by simpa using hwaiting⟩

/-- R124: a table whose zones are all settled, with no zone waiting, meets the laws. -/
theorem Htc.keeps_of_settled {a b : Htc} (hwaiting : b.waiting = [])
    (hzones : ∀ z ∈ b.zones, z.closed = false ∧ z.state ≠ .waiting ∧ z.confirmTimer = none) : a.Keeps b := by
  refine fun _ => ⟨fun z hz h => ?_, fun _ => ?_, fun _ => ⟨hwaiting ▸ List.nodup_nil, fun i => ?_, hwaiting ▸ runs_nil _⟩⟩
  · simp [(hzones z hz).2.2] at h
  · simp [Htc.Powered, Htc.draw_eq_zero fun z hz => (hzones z hz).1]
  · rw [hwaiting, Option.map_eq_some_iff]
    exact ⟨fun h => (nomatch h), fun ⟨z, hz, h⟩ => absurd h (hzones z (List.mem_of_getElem? hz)).2.1⟩

theorem State.rebuildZones_keeps (s : State) (items : List ZoneItem) : s.htc.Keeps (s.rebuildZones items).htc := by
  unfold State.rebuildZones
  refine Htc.Keeps.trans (Htc.keeps_of_settled rfl fun z hz => ?_) (State.attempt_keeps _)
  obtain ⟨i, hi, rfl⟩ := List.mem_mapIdx.mp hz
  rcases s.htc.settled_cases i items[i].sect with h | h | h <;> simp [ZoneItem.zone, Zone.closed, h]

theorem Htc.runStart_keeps (h : Htc) : h.Keeps h.runStart :=
  Htc.keeps_mapIdx (a := h) rfl rfl (Nat.le_refl _) fun _ _ _ hz => .of_same hz rfl rfl rfl rfl rfl

theorem State.applyEnable_keeps (s : State) (i : Nat) (on : Bool) : s.htc.Keeps (s.applyEnable i on).htc := by
  unfold State.applyEnable
  split
  next => exact .refl _
  next z hz =>
    split
    case h_1 hdisabled =>
      refine State.modZone_keeps fun w hw hconfirm => ?_
      obtain rfl : z = w := Option.some.inj (hz.symm.trans hw)
      exact Zone.eases_settled (.inl hdisabled) hconfirm z.faultKind
    case h_7 => exact .refl _
    all_goals
      exact (State.leaveZone_keeps _ (by decide) (by decide) (by decide) (by decide)).trans (State.attempt_keeps _)

theorem State.clearZone_keeps {s : State} {i : Nat} {z : Zone} (hz : s.htc.zones[i]? = some z) (hfault : z.state = .fault) :
    s.htc.Keeps (s.clearZone i).htc := by
  unfold State.clearZone
  refine Htc.Keeps.trans (State.modZone_keeps fun w hw hconfirm => ?_) (State.attempt_keeps _)
  obtain rfl : z = w := Option.some.inj (hz.symm.trans hw)
  exact Zone.eases_settled (.inr hfault) hconfirm none

/-- Every command keeps the laws of the heating. -/
theorem exec_keeps_heating (c : Instr) (s t : State) (h : exec c s = .next t) : s.htc.Keeps t.htc := by
  by_cases hb : Block.htc ∈ Instr.writes c
  case neg =>
    have heq : t.htc = s.htc := exec_writes c s t h .htc hb
    exact heq ▸ .refl _
  have hsame {a b : Htc} (hz : b.zones = a.zones) (hw : b.waiting = a.waiting) (hbudget : b.budget = a.budget) : a.Keeps b :=
    Htc.keeps_of_zones hz hw (Nat.le_of_eq hbudget.symm)
  cases c
  case zoneSample => exact exec_zoneSample_keeps h
  case confirmTimerExpiry => exact exec_confirmTimerExpiry_keeps h
  case maxOnExpiry => exact exec_maxOnExpiry_keeps h
  case powerOnReset => cases h; exact Htc.keeps_of_settled rfl fun z hz => nomatch hz
  case softReset =>
    cases h
    split
    · exact Htc.keeps_of_settled rfl fun z hz => nomatch hz
    · exact .refl _
  case arbiterTimerExpiry =>
    cases h
    split
    next =>
      refine Htc.Keeps.trans ?_ (State.attempt_keeps _)
      exact hsame rfl rfl rfl
    next => exact .refl _
  case reportAgeExpiry =>
    cases h
    split
    next =>
      refine Htc.Keeps.trans ?_ (State.recomputeBudget_keeps _)
      exact hsame rfl rfl rfl
    next => exact .refl _
  case generatorReport | generatorAbsence | budgetSettingHandoff =>
    cases h
    split
    next htake =>
      refine Htc.Keeps.trans ?_ (State.recomputeBudget_keeps _)
      have hframe := State.take_frame htake
      exact hsame (by simp [hframe]) (by simp [hframe]) (by simp [hframe])
    next => exact .refl _
  case heatingLevelHandoff =>
    cases h
    split
    next level s' htake =>
      have hframe : s'.htc = s.htc := by simp [State.take_frame htake]
      exact hframe ▸ s'.takeLevel_keeps level
    next => exact .refl _
  case geometryAtHtc =>
    cases h
    split
    next record s' htake =>
      have hframe : s'.htc = s.htc := by simp [State.take_frame htake]
      exact hframe ▸ s'.takeLive_keeps record.live
    next => exact .refl _
  case zoneMapNewlyInForce =>
    cases h
    split
    next items s' htake =>
      have hframe : s'.htc = s.htc := by simp [State.take_frame htake]
      exact hframe ▸ s'.rebuildZones_keeps items
    next => exact .refl _
  case zoneMapWithdrawn =>
    cases h
    split
    next => exact Htc.keeps_of_settled rfl fun z hz => nomatch hz
    next => exact .refl _
  case runStatusAtHtc =>
    cases h
    split
    next status s' htake =>
      have hframe := State.take_frame htake
      have hseen : s.htc.Keeps (s'.modHtc fun h => { h with runSeen := status }).htc :=
        hsame (by simp [hframe]) (by simp [hframe]) (by simp [hframe])
      dsimp only
      split
      next => exact hseen.trans (Htc.runStart_keeps _)
      next => exact hseen
    next => exact .refl _
  case setZone =>
    cases h
    split
    next =>
      split
      next => simpa using Htc.Keeps.refl s.htc
      next =>
        simp only [State.finishDone_frame]
        refine Htc.Keeps.trans ?_ (State.applyEnable_keeps _ _ _)
        exact hsame rfl rfl rfl
    next => exact .refl _
  case clearFaultZone =>
    cases h
    split
    next =>
      split
      next => simpa using Htc.Keeps.refl s.htc
      next z hz =>
        split
        next => simpa using Htc.Keeps.refl s.htc
        next hfault =>
          split
          next => simpa using Htc.Keeps.refl s.htc
          next =>
            simp only [State.finishDone_frame]
            exact State.clearZone_keeps hz (Decidable.not_not.mp hfault)
    next => exact .refl _
  case exposureTimerExpiry =>
    cases h
    split
    next =>
      dsimp only
      (repeat' split) <;> exact hsame rfl rfl rfl
    next => exact .refl _
  all_goals
    first
    | (simp [Instr.writes] at hb; done)
    | (cases h
       split
       next => refine hsame ?_ ?_ ?_ <;> simp [State.runTo_htc]
       next => exact .refl _)

/-- Settles O59: the confirm law carries both parts, so both follow from `exec_keeps_heating`. -/
theorem stepKeepsHeating : Obligations.StepKeepsHeating := fun _ _ h =>
  ⟨fun hs => step_keeps (P := HeatingLaw) (fun _ _ hs => ⟨hs.draw, hs.confirm⟩) (fun _ hs => ⟨hs.draw, hs.confirm⟩)
      (fun c s t hs hc => by
        obtain ⟨hconfirm, hpower⟩ := (heatingLaw_iff s).mp hs
        obtain ⟨hconfirm', hpower', _⟩ := exec_keeps_heating c s t hc hconfirm
        exact (heatingLaw_iff t).mpr ⟨hconfirm', hpower' hpower⟩) hs h,
    fun hs => step_keeps (P := WaitingLaw) (fun _ _ hs => ⟨hs.once, hs.waiting, hs.runs, hs.confirm⟩)
      (fun _ hs => ⟨hs.once, hs.waiting, hs.runs, hs.confirm⟩)
      (fun c s t hs hc => by
        obtain ⟨hconfirm, hwaits⟩ := (waitingLaw_iff s).mp hs
        obtain ⟨hconfirm', _, hwaits'⟩ := exec_keeps_heating c s t hc hconfirm
        exact (waitingLaw_iff t).mpr ⟨hconfirm', hwaits' hwaits⟩) hs h⟩

end Sys2Proof.Machine

/-! PROOF. Every step keeps the entry queue: at most 16 entries, one place for the line in flight and one for the pending stop
(R154, R158, R161), and the records in order (R155). -/
namespace Sys2Proof.Machine

/-! ## The places of the queue -/

/-- R154: what an item of the queue takes: an entry's place, the line's or the pending stop's; a close mark takes none. -/
inductive QueuePlace where
  | entry | line | stop
  deriving DecidableEq

def QueueItem.place : QueueItem → Option QueuePlace
  | .entry _ => some .entry
  | .linePlace => some .line
  | .stopPlace => some .stop
  | .closeMark | .closePast _ | .closeDue => none

/-- The places a queue takes, in their order. -/
def placesOf (q : List QueueItem) : List QueuePlace := q.filterMap QueueItem.place

/-- R154, R158, R161: the law of the entry queue, on MRU alone. -/
def Mru.Placed (m : Mru) : Prop :=
  (placesOf m.queue).count .entry ≤ 16 ∧
  (placesOf m.queue).count .line = (if m.line.isSome then 1 else 0) ∧
  (placesOf m.queue).count .stop = if m.pendingStop.isSome then 1 else 0

@[simp] theorem placesOf_nil : placesOf [] = [] := rfl

@[simp] theorem placesOf_append (q r : List QueueItem) : placesOf (q ++ r) = placesOf q ++ placesOf r :=
  List.filterMap_append

@[simp] theorem placesOf_entry (e : Entry) (q : List QueueItem) : placesOf (.entry e :: q) = .entry :: placesOf q := rfl

@[simp] theorem placesOf_linePlace (q : List QueueItem) : placesOf (.linePlace :: q) = .line :: placesOf q := rfl

@[simp] theorem placesOf_stopPlace (q : List QueueItem) : placesOf (.stopPlace :: q) = .stop :: placesOf q := rfl

theorem placesOf_mark {i : QueueItem} (h : i.isMark = true) (q : List QueueItem) : placesOf (i :: q) = placesOf q := by
  cases i <;> first | rfl | cases h

@[simp] theorem placesOf_closeMark (q : List QueueItem) : placesOf (.closeMark :: q) = placesOf q := rfl

@[simp] theorem placesOf_closePast (left : PeriodEnd) (q : List QueueItem) : placesOf (.closePast left :: q) = placesOf q :=
  rfl

@[simp] theorem placesOf_closeDue (q : List QueueItem) : placesOf (.closeDue :: q) = placesOf q := rfl

theorem count_placesOf (q : List QueueItem) :
    (placesOf q).count .entry = (q.countP fun i => match i with | .entry _ => true | _ => false) ∧
    (placesOf q).count .line = q.count .linePlace ∧ (placesOf q).count .stop = q.count .stopPlace := by
  induction q with
  | nil => exact ⟨rfl, rfl, rfl⟩
  | cons i q ih =>
    obtain ⟨hentry, hline, hstop⟩ := ih
    cases i <;> simp [hentry, hline, hstop]

theorem Mru.entriesQueued_eq (m : Mru) : m.entriesQueued = (placesOf m.queue).count .entry :=
  (count_placesOf m.queue).1.symm ▸ rfl

theorem queueLaw_iff (s : State) : QueueLaw s ↔ s.mru.Placed := by
  obtain ⟨hentry, hline, hstop⟩ := count_placesOf s.mru.queue
  unfold Mru.Placed
  rw [← Mru.entriesQueued_eq, hline, hstop]
  exact ⟨fun h => ⟨h.room, h.line, h.stop⟩, fun ⟨hroom, hl, hs⟩ => ⟨hroom, hl, hs⟩⟩

theorem Mru.Placed.room {m : Mru} (h : m.Placed) : m.entriesQueued ≤ 16 := m.entriesQueued_eq ▸ h.1

theorem Mru.Placed.of_places {m n : Mru} (h : m.Placed) (hq : placesOf n.queue = placesOf m.queue)
    (hl : n.line.isSome = m.line.isSome) (hs : n.pendingStop.isSome = m.pendingStop.isSome) : n.Placed := by
  unfold Mru.Placed at *
  rwa [hq, hl, hs]

/-- R158: with no line in flight no place is held for one. -/
theorem Mru.Placed.no_linePlace {m : Mru} (h : m.Placed) (hl : m.line = none) : .linePlace ∉ m.queue := by
  obtain ⟨_, hline, _⟩ := h
  rw [(count_placesOf m.queue).2.1, hl] at hline
  exact List.count_eq_zero.mp hline

/-- R161: with no stop pending no place is held for one. -/
theorem Mru.Placed.no_stopPlace {m : Mru} (h : m.Placed) (hs : m.pendingStop = none) : .stopPlace ∉ m.queue := by
  obtain ⟨_, _, hstop⟩ := h
  rw [(count_placesOf m.queue).2.2, hs] at hstop
  exact List.count_eq_zero.mp hstop

/-- An entry takes a place at either end of a queue that is not full. -/
theorem Mru.Placed.of_entry {m n : Mru} (h : m.Placed) (hroom : m.entriesQueued < 16)
    (hq : (placesOf n.queue).Perm (.entry :: placesOf m.queue)) (hl : n.line.isSome = m.line.isSome)
    (hs : n.pendingStop.isSome = m.pendingStop.isSome) : n.Placed := by
  rw [Mru.entriesQueued_eq] at hroom
  unfold Mru.Placed at *
  simpa [hq.count_eq, hl, hs, h.2] using hroom

/-! ## The pending GAPs take no place -/

@[simp] theorem placesOf_setPeriodGap (gap : Option PendingGap) (q : List QueueItem) :
    placesOf (setPeriodGap gap q) = placesOf q := by
  induction q with
  | nil => rfl
  | cons i q ih => cases i <;> simp [setPeriodGap, ih]

@[simp] theorem placesOf_endPeriod (gap : Option PendingGap) (chainage runTime : Word) (q : List QueueItem) :
    placesOf (endPeriod gap chainage runTime q) = placesOf q := by
  induction q generalizing gap with
  | nil => rfl
  | cons i q ih => cases i <;> simp [endPeriod, ih]

/-- What setting the GAP of the line in flight leaves. -/
theorem Mru.setLineGap_places (m : Mru) (gap : Option PendingGap) : placesOf (m.setLineGap gap).queue = placesOf m.queue ∧
    (m.setLineGap gap).line = m.line ∧ (m.setLineGap gap).pendingStop = m.pendingStop := by
  unfold Mru.setLineGap
  split
  next =>
    refine ⟨?_, rfl, rfl⟩
    simp only [placesOf_append, placesOf_setPeriodGap]
    rw [← placesOf_append, fromLine, List.takeWhile_append_dropWhile]
  next => exact ⟨rfl, rfl, rfl⟩

/-- What a close mark that leaves the queue leaves. -/
theorem Mru.leaveMark_places (m : Mru) (mark : QueueItem) (rest : List QueueItem) :
    placesOf (m.leaveMark mark rest).queue = placesOf rest ∧ (m.leaveMark mark rest).line = m.line ∧
    (m.leaveMark mark rest).pendingStop = m.pendingStop := by
  unfold Mru.leaveMark
  split
  next =>
    unfold Mru.carryGap
    dsimp only
    split <;> exact ⟨by simp, rfl, rfl⟩
  next => exact ⟨rfl, rfl, rfl⟩

/-! ## The writer (R162, R164) -/

theorem Mru.Placed.writeHead {m : Mru} (h : m.Placed) (e : Entry) (search : Bool) : (m.writeHead e search).Placed := by
  unfold Mru.writeHead
  (repeat' split) <;> exact h

theorem Mru.Placed.leaveMark {m : Mru} (h : m.Placed) {mark : QueueItem} {rest : List QueueItem}
    (hq : m.queue = mark :: rest) (hm : mark.isMark = true) : (m.leaveMark mark rest).Placed := by
  obtain ⟨hplaces, hline, hstop⟩ := m.leaveMark_places mark rest
  refine h.of_places ?_ (by rw [hline]) (by rw [hstop])
  rw [hplaces, hq, placesOf_mark hm]

/-- R164: the GAP that joins at a close mark takes a free place. -/
theorem Mru.Placed.joinAtMark {m : Mru} (h : m.Placed) (hroom : m.entriesQueued < 16) {mark : QueueItem}
    {rest : List QueueItem} (hq : m.queue = mark :: rest) (hm : mark.isMark = true) (gap : Entry) :
    (m.joinAtMark mark gap rest).Placed :=
  h.of_entry hroom (by rw [hq, placesOf_mark hm]; rfl) rfl rfl

theorem Mru.Placed.runWriter {now : Word} {fuel : Nat} {search : Bool} {m : Mru} (h : m.Placed) :
    (Mru.runWriter now fuel search m).Placed := by
  induction fuel generalizing search m with
  | zero => exact h
  | succ fuel ih =>
    unfold Mru.runWriter
    split
    next =>
      split
      next => exact h
      next => exact h.writeHead _ _
    next => exact h
    next => exact h
    next => exact h
    next mark rest hentry hline hstop hq =>
      have hm : mark.isMark = true := by
        cases mark with
        | entry e => exact absurd rfl (hentry e)
        | linePlace => exact absurd rfl hline
        | stopPlace => exact absurd rfl hstop
        | closeMark | closePast _ | closeDue => rfl
      split
      next gap _ hroom => exact ih (h.joinAtMark (by simpa using hroom) hq hm gap)
      next =>
        have hleft := h.leaveMark hq hm
        split
        next => exact hleft
        next => exact ih hleft

theorem Mru.Placed.drive {s : State} (h : s.mru.Placed) (search : Bool) : (s.drive search).mru.Placed := by
  unfold State.drive
  split
  next => exact h
  next =>
    rw [State.issuePage_mru]
    unfold State.nextOp
    split
    next => exact h
    next =>
      have hwriter : (Mru.runWriter s.now (2 * s.mru.queue.length + 2) search s.mru).Placed := h.runWriter
      unfold State.settleDrain
      (repeat' split) <;> exact hwriter

/-! ## What joins and leaves (R154 to R164) -/

theorem Mru.Placed.joinQueue {s : State} (h : s.mru.Placed) (hroom : s.mru.entriesQueued < 16) (e : Entry) :
    (s.joinQueue e).mru.Placed :=
  Mru.Placed.drive (s := s.modMru fun m => { m with queue := m.queue ++ [.entry e] })
    (h.of_entry hroom (by simp) rfl rfl) true

theorem count_placesOf_fill (q : List QueueItem) (entries : List Entry) :
    let r := placesOf (q.flatMap fun i => if i = .linePlace then entries.map .entry else [i])
    r.count .entry = (placesOf q).count .entry + entries.length * (placesOf q).count .line ∧
    r.count .line = 0 ∧ r.count .stop = (placesOf q).count .stop := by
  have hentries (k : QueuePlace) :
      (placesOf (entries.map .entry)).count k = if k = .entry then entries.length else 0 := by
    induction entries with
    | nil => simp
    | cons e es ih => cases k <;> simp_all
  dsimp only
  induction q with
  | nil => simp
  | cons i q ih =>
    obtain ⟨hentry, hline, hstop⟩ := ih
    cases i <;> simp [hentry, hline, hstop, hentries] <;> ring

/-- R160: the line in flight gives its place to entries there is room for, or to none. -/
theorem Mru.Placed.fillLinePlace {m n : Mru} (h : m.Placed) {l : LineInFlight} (hl : m.line = some l)
    (hq : placesOf n.queue = placesOf m.queue) (hline : n.line = none) (hs : n.pendingStop.isSome = m.pendingStop.isSome)
    (entries : List Entry) (hroom : m.entriesQueued + entries.length ≤ 16) : (n.fillLinePlace entries).Placed := by
  obtain ⟨_, hplaces, hstop⟩ := h
  obtain ⟨hentry', hline', hstop'⟩ := count_placesOf_fill n.queue entries
  rw [Mru.entriesQueued_eq] at hroom
  unfold Mru.Placed Mru.fillLinePlace
  dsimp only
  rw [hentry', hline', hstop', hq, hplaces, hstop, hl, hline, hs]
  simpa using hroom

theorem Mru.Placed.countLine {m n : Mru} (h : m.Placed) {l : LineInFlight} (hl : m.line = some l)
    (hq : n.queue = m.queue) (hline : n.line = none) (hs : n.pendingStop = m.pendingStop)
    (lost missed : Word) (reason : GapReason) : (n.countLine lost missed reason).Placed := by
  obtain ⟨hplaces, hline', hstop⟩ := n.setLineGap_places (some (gapWith n.lineGap lost missed reason))
  exact h.fillLinePlace (n := { n.setLineGap (some (gapWith n.lineGap lost missed reason)) with
    linesLost := n.linesLost + lost, triggersMissed := n.triggersMissed + missed }) hl (hplaces.trans (by rw [hq]))
    (hline'.trans hline) (by dsimp only; rw [hstop, hs]) [] h.room

/-- A change of MRU that neither law is about. -/
def Mru.ledger (m : Mru) : (List QueueItem × Option LineInFlight × Option StopEntry) ×
    (PageOp × Option OpenPage × Word × RecordsMode × Word × Timer) :=
  ((m.queue, m.line, m.pendingStop), (m.op, m.openPage, m.nextEntry, m.recordsSeen, m.chainageSeen, m.fallbackTimer))

theorem Mru.Recorded.of_ledger {m n : Mru} (h : m.Recorded) (hn : n.ledger = m.ledger) : n.Recorded := by
  simp only [Mru.ledger, Prod.mk.injEq] at hn
  obtain ⟨⟨hq, hl, hs⟩, ho, hp, he, hm, hc, hf⟩ := hn
  refine h.update hq (fun i _ => ?_) ho hp he hm hc hf
  cases i <;> simp [Mru.itemChainage, hl, hs]

theorem Mru.Placed.of_ledger {m n : Mru} (h : m.Placed) (hn : n.ledger = m.ledger) : n.Placed := by
  simp only [Mru.ledger, Prod.mk.injEq] at hn
  obtain ⟨⟨hq, hl, hs⟩, _⟩ := hn
  exact h.of_places (by rw [hq]) (by rw [hl]) (by rw [hs])

/-! ## What a change of MRU keeps -/

/-- A change keeps the law of the entry queue, and with it the order of the records. -/
def Mru.Keeps (m n : Mru) : Prop := m.Placed → n.Placed ∧ (m.Recorded → n.Recorded)

theorem Mru.Keeps.refl (m : Mru) : m.Keeps m := fun h => ⟨h, id⟩

theorem Mru.Keeps.trans {m n k : Mru} (h : m.Keeps n) (h' : n.Keeps k) : m.Keeps k := fun hm =>
  have ⟨hn, hnr⟩ := h hm
  have ⟨hk, hkr⟩ := h' hn
  ⟨hk, hkr ∘ hnr⟩

theorem Mru.keeps_of_ledger {m n : Mru} (h : n.ledger = m.ledger) : m.Keeps n := fun hm =>
  ⟨hm.of_ledger h, fun hr => hr.of_ledger h⟩

/-- A change that takes and frees no place: the order is all there is to show. -/
theorem Mru.keeps_of_places {m n : Mru} (hq : placesOf n.queue = placesOf m.queue)
    (hl : n.line.isSome = m.line.isSome) (hs : n.pendingStop.isSome = m.pendingStop.isSome)
    (h : m.Recorded → n.Recorded) : m.Keeps n := fun hm => ⟨hm.of_places hq hl hs, h⟩

theorem State.drive_keeps (s : State) (search : Bool) : s.mru.Keeps (s.drive search).mru := fun hm =>
  ⟨hm.drive search, fun hr => hr.drive search⟩

theorem State.reportLoss_ledger (s : State) (subject : Nat) : (s.reportLoss subject).mru.ledger = s.mru.ledger := by
  unfold State.reportLoss
  split
  next => rfl
  next => simp [Mru.ledger]

theorem State.releaseCycle_ledger (s : State) : s.releaseCycle.mru.ledger = s.mru.ledger := by
  unfold State.releaseCycle
  split <;> rfl

theorem State.runCycle_ledger (s : State) : s.runCycle.mru.ledger = s.mru.ledger := by
  unfold State.runCycle
  dsimp only
  split <;> rfl

theorem Mru.miss_ledger (m : Mru) (count : Nat) (reason : GapReason) : (m.miss count reason).ledger = m.ledger := by
  unfold Mru.miss
  split <;> rfl

/-- R157: the fallback timer settled, where the records mode has changed or not. -/
theorem State.settleFallback_keeps {m : Mru} {s : State} (hq : placesOf s.mru.queue = placesOf m.queue)
    (hl : s.mru.line = m.line) (hs : s.mru.pendingStop = m.pendingStop)
    (h : m.Recorded → ({ s.mru with fallbackTimer := none } : Mru).Recorded) : m.Keeps s.settleFallback.mru :=
  Mru.keeps_of_places hq (congrArg _ hl) (congrArg _ hs) fun hr => Mru.Recorded.settleFallback (h hr)

/-- R157: the fallback timer may run in RUN alone. -/
theorem Mru.Recorded.withFallback {m : Mru} (h : m.Recorded) {timer : Timer}
    (ht : timer.isSome = true → m.recordsSeen = .run) : ({ m with fallbackTimer := timer } : Mru).Recorded :=
  h.refine (Mru.Refined.of_self (fun _ => by rfl) (by exact BitVec.le_refl _) _) rfl rfl rfl (Mru.end_self m) ht

theorem Mru.Recorded.withoutFallback {m : Mru} (h : m.Recorded) : ({ m with fallbackTimer := none } : Mru).Recorded :=
  h.withFallback (by simp)

end Sys2Proof.Machine

/-! PROOF. What each command of the Mat Record Unit does to the entry queue and the order of the records (R154 to R165). -/
namespace Sys2Proof.Machine

/-! ## Lines and triggers (R156 to R160) -/

/-- R160: a line produced joins where there is room for it and its GAP, or is lost; either way its place is given up. -/
theorem Mru.Placed.offerLine {m : Mru} {s : State} {l : LineInFlight} (h : m.Placed) (hl : m.line = some l)
    (hq : s.mru.queue = m.queue) (hline : s.mru.line = none) (hs : s.mru.pendingStop = m.pendingStop) (e : LineEntry) :
    (s.offerLine e).mru.Placed := by
  have hroom : s.mru.entriesQueued = m.entriesQueued := by rw [Mru.entriesQueued_eq, Mru.entriesQueued_eq, hq]
  have hlost : s.loseLine.mru.Placed :=
    Mru.Placed.drive (((h.countLine hl hq hline hs 1 0 .queue).of_ledger
      (State.reportLoss_ledger (s.modMru fun m => m.countLine 1 0 .queue) 0))) false
  unfold State.offerLine
  split
  next =>
    split
    next hfree =>
      refine Mru.Placed.drive (s := s.modMru fun m => m.fillLinePlace [.line e]) ?_ true
      exact h.fillLinePlace hl (congrArg _ hq) hline (by rw [hs]) [.line e] (by simp; omega)
    next => exact hlost
  next g _ =>
    split
    next hfree =>
      obtain ⟨hplaces, hline', hstop'⟩ := s.mru.setLineGap_places none
      refine Mru.Placed.drive (s := s.modMru fun m =>
        (m.setLineGap none).fillLinePlace [g.entry e.line.chainage e.line.runTime, .line e]) ?_ true
      exact h.fillLinePlace hl (hplaces.trans (congrArg _ hq)) (hline'.trans hline) (by rw [hstop', hs]) _
        (by simp; omega)
    next => exact hlost

theorem State.produceLine_keeps {s : State} {l : LineInFlight} (hl : s.mru.line = some l) (points : List Half) :
    s.mru.Keeps (s.produceLine l points).mru := fun h => by
  refine ⟨?_, fun hr => hr.produceLine hl points⟩
  refine Mru.Placed.of_ledger (m := State.mru (State.offerLine _ (s.checkLine l points))) ?_ (State.releaseCycle_ledger _)
  obtain ⟨count, reported, hthermal⟩ := State.followThermal_mru
    (s.modMru fun m => { m with line := none, linesProduced := m.linesProduced + 1 }) (s.checkLine l points)
  exact h.offerLine hl (by rw [hthermal]; rfl) (by rw [hthermal]; rfl) (by rw [hthermal]; rfl) _

theorem State.giveUpLine_keeps {s : State} {l : LineInFlight} (hl : s.mru.line = some l) :
    s.mru.Keeps s.giveUpLine.mru := fun h =>
  have hcounted : (Mru.countLine { s.mru with line := none } 0 1 .scanner).Placed :=
    h.countLine (n := { s.mru with line := none }) hl rfl rfl rfl 0 1 .scanner
  ⟨(Mru.Placed.drive (s := s.modMru fun m => Mru.countLine { m with line := none } 0 1 .scanner) hcounted false).of_ledger
      (State.releaseCycle_ledger _),
    fun hr => hr.giveUpLine hl⟩

theorem Mru.line_of_no_missReason {m : Mru} (h : m.missReason = none) : m.line = none := by
  unfold Mru.missReason at h
  split at h
  next => cases h
  next =>
    split at h
    next => cases h
    next hline => simpa using hline

/-- R158: a trigger is missed, or its line in flight takes its place. -/
theorem Mru.Placed.trigger {s : State} (h : s.mru.Placed) (unplaced : Bool) : (s.trigger unplaced).mru.Placed := by
  unfold State.trigger
  split
  next => exact h.of_ledger (Mru.miss_ledger _ _ _)
  next hreason =>
    obtain ⟨hentry, hline, hstop⟩ := h
    rw [Mru.line_of_no_missReason hreason] at hline
    refine ⟨?_, ?_, ?_⟩
    · simpa using hentry
    · simp [hline]
    · simpa using hstop

theorem Mru.advanceTo_keeps (m : Mru) (c : Word) : m.Keeps (m.advanceTo c) := fun h => by
  refine ⟨?_, fun hr => hr.advanceTo c⟩
  unfold Mru.advanceTo
  split <;> exact h

theorem State.advanceRecords_keeps (s : State) : s.mru.Keeps s.advanceRecords.mru := by
  unfold State.advanceRecords
  split
  next hrun _ =>
    split
    next =>
      unfold State.runAdvance
      dsimp only
      split
      next => exact .refl _
      next =>
        have htrigger : s.mru.Keeps (s.trigger false).mru := fun h =>
          ⟨h.trigger false, fun hr => hr.trigger (by simp [hrun]) h.no_linePlace false⟩
        exact htrigger.trans (Mru.keeps_of_ledger (Mru.miss_ledger _ _ _))
    next => exact .refl _
  next => exact Mru.keeps_of_ledger rfl
  next => exact .refl _

/-- R157: the fallback timer runs only in RUN, so its trigger is one that makes an entry. -/
theorem exec_fallbackTimerExpiry_keeps {s t : State} (h : exec .fallbackTimerExpiry s = .next t) : s.mru.Keeps t.mru := by
  cases h
  split
  next expiry hexpiry =>
    have hrun (hr : s.mru.Recorded) : s.mru.recordsSeen = .run := hr.fallback (by simp [hexpiry])
    intro h
    refine ⟨Mru.Placed.trigger ?_ true, fun hr => Mru.Recorded.trigger ?_ ?_ ?_ true⟩
    · exact h
    · exact hr.withFallback fun _ => hrun hr
    · simp [hrun hr]
    · exact h.no_linePlace
  next => exact .refl _

theorem State.scannerFails_keeps (s : State) : s.mru.Keeps s.scannerFails.mru := by
  unfold State.scannerFails
  split
  next hl =>
    split
    next => exact .refl _
    next => exact State.giveUpLine_keeps hl
  next =>
    split
    next => exact Mru.keeps_of_ledger rfl
    next => exact .refl _

/-- R158: a line whose phase changes keeps its place and its chainage. -/
theorem Mru.keeps_of_phase {m n : Mru} {l : LineInFlight} {phase : LinePhase} (hl : m.line = some l)
    (hn : n.ledger = ({ m with line := some { l with phase := phase } } : Mru).ledger) : m.Keeps n := by
  refine Mru.Keeps.trans (n := { m with line := some { l with phase := phase } }) ?_ (Mru.keeps_of_ledger hn)
  refine Mru.keeps_of_places rfl (by simp [hl]) rfl fun hr => ?_
  refine hr.update rfl (fun i _ => ?_) rfl rfl rfl rfl rfl rfl
  cases i <;> simp [Mru.itemChainage, hl]

theorem State.scannerCompletes_keeps (s : State) (ask : ScannerAsk) (points : List Half) :
    s.mru.Keeps (s.scannerCompletes ask points).mru := by
  unfold State.scannerCompletes
  split
  next hl =>
    split
    next => exact Mru.keeps_of_phase hl rfl
    next => exact .refl _
  next hl =>
    split
    next => exact State.produceLine_keeps hl points
    next => exact .refl _
  next =>
    split
    next => exact Mru.keeps_of_ledger rfl
    next => exact .refl _
  next => exact .refl _

theorem State.takeAnswer_keeps (s : State) (answer : ScannerAnswer) : s.mru.Keeps (s.takeAnswer answer).mru := by
  cases answer with
  | completed ask points => exact s.scannerCompletes_keeps ask points
  | failed | notIssued => exact s.scannerFails_keeps
  | statusFailed => exact .refl _

/-! ## Stops, modes and runs (R154, R156, R161, R164) -/

theorem Mru.Placed.startStop {s : State} (h : s.mru.Placed) : s.startStop.mru.Placed := by
  unfold State.startStop
  dsimp only
  split
  next => exact Mru.Placed.drive (by simpa using h) false
  next hpending =>
    split
    next hroom => exact h.joinQueue hroom _
    next =>
      obtain ⟨hentry, hline, hstop⟩ := h
      rw [if_neg hpending] at hstop
      simp only [Mru.Placed, State.modMru_mru, placesOf_append, placesOf_stopPlace, List.count_append]
      exact ⟨hentry, hline, by simp [hstop]⟩

theorem State.startStop_keeps {s : State} (hm : s.mru.recordsSeen ≠ .off) : s.mru.Keeps s.startStop.mru := fun h =>
  ⟨h.startStop, fun hr => hr.startStop hm h.no_stopPlace⟩

theorem State.pauseStarts_keeps (s : State) : s.mru.Keeps s.pauseStarts.mru := by
  have hmode : s.mru.Keeps (s.modMru fun m => { m with recordsSeen := .stopmark }).settleFallback.mru :=
    State.settleFallback_keeps rfl rfl rfl fun hr => Mru.Recorded.mode (mode := .stopmark) hr (by decide)
  have hstop := hmode.trans (State.startStop_keeps (nomatch ·))
  unfold State.pauseStarts
  dsimp only
  split
  next => exact hstop.trans (Mru.keeps_of_ledger (State.runCycle_ledger _))
  next => exact hstop

theorem State.takeRecords_keeps (s : State) (mode : RecordsMode) : s.mru.Keeps (s.takeRecords mode).mru := fun h => by
  refine ⟨?_, fun hr => hr.takeRecords mode⟩
  cases mode with
  | run =>
    unfold State.takeRecords State.recordsRun
    dsimp only
    split
    next => exact h.of_places (by simp [State.settleFallback, Mru.beginPeriod]) rfl rfl
    next => exact h
  | off =>
    refine Mru.Placed.drive (s := State.settleFallback (s.modMru fun m =>
      { m with recordsSeen := .off, afterStop := false, queue := m.queue ++ [.closeMark] })) ?_ false
    exact h.of_places (by simp [State.settleFallback]) rfl rfl
  | stopmark => exact h

@[simp] theorem placesOf_completeStop (m : Mru) (now : Word) (cause : PauseCause) :
    placesOf (m.completeStop now cause).queue = placesOf m.queue := by
  simp only [Mru.completeStop, placesOf, List.filterMap_map]
  congr 1
  funext i
  cases i with
  | entry e => cases e <;> rfl
  | _ => rfl

theorem State.pauseEnds_keeps (s : State) (cause : PauseCause) (mode : RecordsMode) :
    s.mru.Keeps (s.pauseEnds cause mode).mru := by
  refine Mru.Keeps.trans ?_ ((State.takeRecords_keeps _ mode).trans (State.drive_keeps _ false))
  refine Mru.Keeps.trans (n := s.mru.completeStop s.now cause) ?_ (Mru.keeps_of_ledger rfl)
  exact Mru.keeps_of_places (by simp) rfl (by simp [Mru.completeStop]) fun hr => hr.completeStop _ _

theorem Mru.runStart_keeps (m : Mru) (reference : Timer) : m.Keeps (m.runStart reference) := fun h => by
  refine ⟨?_, fun hr => hr.runStart reference⟩
  have hplaces (q : List QueueItem) : placesOf (q.filterMap QueueItem.atStart) = (placesOf q).filter (· = .entry) := by
    induction q with
    | nil => rfl
    | cons i q ih => cases i <;> simp [QueueItem.atStart, List.filterMap_cons, ih]
  unfold Mru.Placed Mru.runStart
  dsimp only
  rw [hplaces]
  simpa [Mru.reset, List.count_filter, List.count_eq_zero] using h.1

theorem State.recordsRunStatus_keeps (s : State) (status : RunStatus) : s.mru.Keeps (s.recordsRunStatus status).mru := by
  cases status with
  | running => exact s.mru.runStart_keeps _
  | stopping =>
    refine Mru.Keeps.trans (n := { s.mru with runSeen := .stopping }) ?_
      (State.drive_keeps (s.modMru fun m => { m with runSeen := .stopping }) false)
    exact Mru.keeps_of_ledger rfl
  | stopped =>
    refine Mru.Keeps.trans (n := { s.mru with fallbackTimer := none }) ?_ (Mru.keeps_of_ledger rfl)
    exact Mru.keeps_of_places rfl rfl rfl Mru.Recorded.withoutFallback
  | starting => exact Mru.keeps_of_ledger rfl

/-! ## Marks and page operations (R162, R163) -/

theorem Mru.room_of_not_barred {m : Mru} (h : ¬ m.marksBarred = true) : m.entriesQueued < 16 := by
  simp [Mru.marksBarred] at h
  exact h.1

theorem State.consoleMarked_keeps (s : State) (code : Half) (runTime chainage : Word) :
    s.mru.Keeps (s.consoleMarked code runTime chainage).mru := fun h => by
  refine ⟨?_, fun hr => hr.consoleMarked code runTime chainage⟩
  unfold State.consoleMarked
  split
  next => exact h
  next =>
    split
    next => exact h.of_ledger (s.reportLoss_ledger 1)
    next hbarred =>
      have hqueue : (s.mru.advanceTo chainage).queue = s.mru.queue := by unfold Mru.advanceTo; split <;> rfl
      refine Mru.Placed.joinQueue (s := s.modMru fun m => m.advanceTo chainage) (Mru.advanceTo_keeps _ _ h).1 ?_ _
      have hroom := Mru.room_of_not_barred hbarred
      rwa [Mru.entriesQueued_eq, State.modMru_mru, hqueue, ← Mru.entriesQueued_eq]

theorem Mru.admitStop_keeps (m : Mru) : m.Keeps m.admitStop := fun h => by
  refine ⟨?_, fun hr => hr.admitStop⟩
  unfold Mru.admitStop
  split
  next p hp =>
    split
    next hroom =>
      have hcount (q : List QueueItem) :
          let r := placesOf (q.map fun i => if i = .stopPlace then .entry (.stop p) else i)
          r.count .entry = (placesOf q).count .entry + (placesOf q).count .stop ∧
          r.count .line = (placesOf q).count .line ∧ r.count .stop = 0 := by
        dsimp only
        induction q with
        | nil => simp
        | cons i q ih =>
          obtain ⟨hentry, hline, hstop⟩ := ih
          cases i <;> simp [hentry, hline, hstop] <;> omega
      obtain ⟨hentry, hline, hstop⟩ := h
      obtain ⟨hentry', hline', hstop'⟩ := hcount m.queue
      rw [Mru.entriesQueued_eq] at hroom
      unfold Mru.Placed
      dsimp only
      rw [hentry', hline', hstop', hstop, hline, hp]
      simpa using hroom
    next => exact h
  next => exact h

theorem Mru.entryWritten_keeps {m : Mru} {e : Entry} {rest : List QueueItem} {p : OpenPage} {sequence : Word}
    (hq : m.queue = .entry e :: rest) (hp : m.openPage = some p) (ho : m.op = .entryWrite sequence) :
    m.Keeps (m.entryWritten e p sequence) := fun h => by
  refine ⟨?_, fun hr => hr.entryWritten hq hp ho⟩
  obtain ⟨hentry, hline, hstop⟩ := h
  rw [hq] at hentry hline hstop
  unfold Mru.Placed Mru.entryWritten
  dsimp only
  rw [hq]
  simp at hentry hline hstop
  exact ⟨by simp; omega, hline, hstop⟩

theorem Mru.endDrain_keeps (m : Mru) : m.Keeps m.endDrain := fun h => by
  refine ⟨?_, fun hr => hr.endDrain⟩
  have hplaces (q : List QueueItem) : placesOf (q.filterMap QueueItem.unwritten) = (placesOf q).filter (· = .line) := by
    induction q with
    | nil => rfl
    | cons i q ih => cases i <;> simp [QueueItem.unwritten, List.filterMap_cons, ih]
  unfold Mru.Placed Mru.endDrain
  dsimp only
  rw [hplaces]
  obtain ⟨_, hline, _⟩ := h
  have hentry : ((placesOf m.queue).filter (· = .line)).count .entry = 0 := by simp [List.count_eq_zero]
  rw [hentry]
  simpa [List.count_filter, List.count_eq_zero] using hline

/-! ## The commands -/

theorem exec_pageSearchReadDone_keeps {s t : State} {host : HostWrites} (h : exec (.pageSearchReadDone host) s = .next t) :
    s.mru.Keeps t.mru := by
  cases h
  split
  next i hop =>
    have hidle : s.mru.Keeps { s.mru with op := .none } := Mru.keeps_of_places rfl rfl rfl fun hr =>
      { order := by
          have hfilled : ({ s.mru with op := .none } : Mru).filledTo = s.mru.filledTo := by simp [Mru.filledTo, hop]
          rw [hfilled]
          exact Mru.inOrder_congr hr.order (lowTo_refl _) (fun _ => rfl) rfl rfl
        writing := fun _ hq => nomatch hq
        sequence := by simpa [hop] using hr.sequence
        fallback := hr.fallback }
    have hopen : s.mru.Keeps (({ s.mru with op := .none } : Mru).openFound i s.rif.layoutCopy.pageCount) :=
      Mru.keeps_of_places rfl rfl rfl fun hr => hr.emptyPage (fun p hp => by cases hp; rfl)
        (fun _ hq => nomatch hq) rfl (fun _ => rfl) rfl rfl rfl
    have hdrain : s.mru.Keeps (({ s.mru with op := .none } : Mru).endDrain) := hidle.trans (Mru.endDrain_keeps _)
    dsimp only
    split
    next => exact Mru.Keeps.trans (by simpa using hopen) (State.drive_keeps _ false)
    next =>
      split
      next => exact Mru.Keeps.trans (by simpa using hdrain) (State.drive_keeps _ false)
      next => simpa using hidle
  next => exact .refl _

theorem exec_entryWriteDone_keeps {s t : State} (h : exec .entryWriteDone s = .next t) : s.mru.Keeps t.mru := by
  cases h
  split
  next sequence e rest p hop hqueue hpage =>
    have hwritten : s.mru.Keeps ((s.mru.entryWritten e p sequence).admitStop) :=
      (Mru.entryWritten_keeps hqueue hpage hop).trans (Mru.admitStop_keeps _)
    exact Mru.Keeps.trans (by simpa using hwritten) (State.drive_keeps _ false)
  next => exact .refl _

theorem exec_pageCloseDone_keeps {s t : State} (h : exec .pageCloseDone s = .next t) : s.mru.Keeps t.mru := by
  cases h
  split
  next closedBy p hop hpage =>
    have hclosed (flushing : Bool) : s.mru.Keeps
        (Mru.issueSearch { s.mru with op := .none, openPage := none, flushing := flushing }) :=
      Mru.keeps_of_places rfl rfl rfl fun hr => hr.emptyPage (fun _ hp => nomatch hp) (fun _ hq => nomatch hq) rfl
        (fun _ => rfl) rfl rfl rfl
    dsimp only [State.modMru_mru]
    unfold State.finishFlush
    split
    next => simpa [State.countPage] using hclosed false
    next => simpa [State.countPage] using hclosed s.mru.flushing
  next => exact .refl _

/-- R163: an order's MARK joins behind the last entry, where the queue has room. -/
theorem exec_mark_keeps {s t : State} (h : exec .mark s = .next t) : s.mru.Keeps t.mru := by
  cases h
  split
  next o _ =>
    split
    next => simpa using Mru.Keeps.refl s.mru
    next =>
      split
      next => simpa using Mru.Keeps.refl s.mru
      next hmode =>
        split
        next => simpa using Mru.Keeps.refl s.mru
        next hbarred =>
          simp only [State.finishDone_frame]
          exact fun h => ⟨h.joinQueue (Mru.room_of_not_barred hbarred) _, fun hr => hr.joinQueue rfl hmode⟩
  next => exact .refl _

theorem exec_flushRecords_keeps {s t : State} (h : exec .flushRecords s = .next t) : s.mru.Keeps t.mru := by
  cases h
  split
  next =>
    split
    next => exact Mru.Keeps.trans (Mru.keeps_of_ledger (by simp [Mru.ledger])) (State.drive_keeps _ false)
    next =>
      simp only [State.finishDone_frame]
      split
      next hop =>
        obtain ⟨_, hop⟩ := hop
        exact Mru.keeps_of_places rfl rfl rfl fun hr => hr.issueSearch hop
      next => exact .refl _
  next => exact .refl _

theorem exec_referenceTimerExpiry_keeps {s t : State} (h : exec .referenceTimerExpiry s = .next t) :
    s.mru.Keeps t.mru := by
  cases h
  refine Mru.keeps_of_ledger ?_
  split
  next =>
    unfold State.referenceDue
    split
    next =>
      split
      next => rfl
      next => rw [State.runCycle_ledger]; simp [Mru.ledger]
    next => rw [State.runCycle_ledger]; rfl
  next => rfl

theorem exec_exposureTimerExpiry_keeps {s t : State} (h : exec .exposureTimerExpiry s = .next t) : s.mru.Keeps t.mru := by
  cases h
  split
  next =>
    dsimp only
    split
    next hl =>
      split
      next => exact Mru.keeps_of_phase hl rfl
      next => exact Mru.keeps_of_ledger rfl
    next => exact Mru.keeps_of_ledger rfl
  next => exact .refl _

theorem Mru.reset_laws : Mru.reset.Placed ∧ Mru.reset.Recorded :=
  ⟨⟨by decide, by decide, by decide⟩,
    { order := nofun, writing := nofun, sequence := nofun, fallback := nofun }⟩

theorem Mru.keeps_reset (m : Mru) : m.Keeps Mru.reset := fun _ => ⟨Mru.reset_laws.1, fun _ => Mru.reset_laws.2⟩

/-- Every command keeps the law of the entry queue and the order of the records. -/
theorem exec_keeps_records (c : Instr) (s t : State) (h : exec c s = .next t) : s.mru.Keeps t.mru := by
  by_cases hb : Block.mru ∈ Instr.writes c
  case neg =>
    have heq : t.mru = s.mru := exec_writes c s t h .mru hb
    exact heq ▸ .refl _
  have htaken {channel : Handoff → Bool} {x : Handoff} {s' : State} (htake : s.take channel = some (x, s')) {m : Mru}
      (hkeeps : s'.mru.Keeps m) : s.mru.Keeps m := by
    have hframe : s'.mru = s.mru := by simp [State.take_frame htake]
    exact hframe ▸ hkeeps
  cases c
  case pageSearchReadDone => exact exec_pageSearchReadDone_keeps h
  case entryWriteDone => exact exec_entryWriteDone_keeps h
  case pageCloseDone => exact exec_pageCloseDone_keeps h
  case mark => exact exec_mark_keeps h
  case flushRecords => exact exec_flushRecords_keeps h
  case fallbackTimerExpiry => exact exec_fallbackTimerExpiry_keeps h
  case referenceTimerExpiry => exact exec_referenceTimerExpiry_keeps h
  case exposureTimerExpiry => exact exec_exposureTimerExpiry_keeps h
  case powerOnReset => cases h; exact s.mru.keeps_reset
  case softReset =>
    cases h
    split
    · exact s.mru.keeps_reset
    · exact .refl _
  case cycleTimerExpiry =>
    cases h
    split
    next => exact Mru.keeps_of_ledger rfl
    next => exact .refl _
  case pauseStartAtMru =>
    cases h
    split
    next htake => exact htaken htake (State.pauseStarts_keeps _)
    next => exact .refl _
  case pauseEndAtMru =>
    cases h
    split
    next htake => exact htaken htake (State.pauseEnds_keeps _ _ _)
    next => exact .refl _
  case recordsModeHandoff =>
    cases h
    split
    next htake => exact htaken htake (State.takeRecords_keeps _ _)
    next => exact .refl _
  case consoleMarkAtMru =>
    cases h
    split
    next htake => exact htaken htake (State.consoleMarked_keeps _ _ _ _)
    next => exact .refl _
  case scannerResult =>
    cases h
    split
    next answer state s' htake =>
      refine htaken htake (Mru.Keeps.trans ?_ (State.takeAnswer_keeps _ answer))
      exact Mru.keeps_of_ledger rfl
    next => exact .refl _
  case sweepExpiryAtMru =>
    cases h
    split
    next htake => exact htaken htake (State.drive_keeps _ true)
    next => exact .refl _
  case runStatusAtMru =>
    cases h
    split
    next htake => exact htaken htake (State.recordsRunStatus_keeps _ _)
    next => exact .refl _
  case chainageAdvanceAtMru =>
    cases h
    split
    next c s' htake =>
      exact htaken htake (Mru.Keeps.trans (Mru.advanceTo_keeps _ c)
        (State.advanceRecords_keeps (s'.modMru fun m => m.advanceTo c)))
    next => exact .refl _
  case travelStatusAtMru =>
    cases h
    split
    next htake =>
      refine htaken htake (State.settleFallback_keeps rfl rfl rfl fun hr => ?_)
      exact hr.withoutFallback.of_ledger rfl
    next => exact .refl _
  case geometryAtMru | scannerStateAtMru =>
    cases h
    split
    next htake => exact htaken htake (Mru.keeps_of_ledger rfl)
    next => exact .refl _
  all_goals simp [Instr.writes] at hb

/-- Settles O60: the queue's law carries the order of the records with it, command by command (`exec_keeps_records`). -/
theorem stepKeepsTheEntryQueue : Obligations.StepKeepsTheEntryQueue := fun s t hs h => by
  have hkeeps : s.mru.Keeps t.mru := step_keeps (P := fun t => s.mru.Keeps t.mru) (fun _ _ hk => hk) (fun _ hk => hk)
    (fun c s' t' hk hc => hk.trans (exec_keeps_records c s' t' hc)) (.refl _) h
  obtain ⟨hplaced, hrecorded⟩ := hkeeps ((queueLaw_iff s).mp hs)
  exact ⟨(queueLaw_iff t).mpr hplaced, hrecorded⟩

end Sys2Proof.Machine

/-! PROOF. Steps, time and resets: the front command, a millisecond, every command's answer, and the values at reset. -/
namespace Sys2Proof.Machine

theorem Rif.counting_iff (r : Rif) : r.counting = true ↔ r.runStatus = .running ∨ r.runStatus = .stopping := by
  unfold Rif.counting
  cases r.runStatus <;> simp

/-- Time passes on the closing clock always, on the run time in RUNNING and STOPPING. -/
theorem State.advance_eq (s : State) (ms : Nat) : s.advance ms = { s with
    rif := { s.rif with
      runTime := if s.rif.runStatus = .running ∨ s.rif.runStatus = .stopping then s.rif.runTime + BitVec.ofNat 32 ms
                 else s.rif.runTime }
    htc := { s.htc with clock := s.htc.clock + ms } } := by
  rw [State.advance_spec]
  simp only [Rif.counting_iff]

theorem State.advance_zero (s : State) : s.advance 0 = s := by
  rw [State.advance_spec]
  simp

/-- Settles O1. -/
theorem stepRunsTheFrontCommand : Obligations.StepRunsTheFrontCommand := by
  refine ⟨fun c rest s h => ?_, fun s h => ?_, fun s => ⟨s.advance_eq, fun expiry => ⟨fun hahead => ⟨?_, fun hcounting => ?_⟩,
    fun hpast => ?_⟩⟩⟩
  · simp [step, h]
  · have hstep : step s = .next (s.advance 1) := by simp [step, h]
    rw [hstep, State.advance_eq]
    rfl
  · exact congrArg s.advance (if_pos hahead)
  · exact s.runTo_now expiry ((Rif.counting_iff _).mpr hcounting) hahead
  · have hnone : msUntil s.now expiry = 0 := if_neg (Nat.not_lt.mpr hpast)
    rw [State.runTo, hnone, State.advance_zero]

/-- Settles O53, by the frame of the commands (`exec_writes`): none may change the queue, and only those named the region. -/
theorem everyCommandCompletes : Obligations.EveryCommandCompletes := by
  intro c s
  obtain ⟨t, h⟩ := exec_next c s
  have hpending : t.pending = s.pending := exec_writes c s t h .pending (by cases c <;> simp [Instr.writes])
  have hmem : Block.mem ∉ Instr.writes c → t.mem = s.mem := exec_writes c s t h .mem
  refine ⟨t, h, hpending, ?_⟩
  cases c <;> first | trivial | exact hmem (by simp [Instr.writes])

/-! ## Resets -/

theorem exec_softReset_of_set (s : State) {value : Word} (h : value.getLsbD 1 = true) :
    exec (.softReset value) s = .next s.resetAll := congrArg Host.Outcome.next (if_pos h)

/-- R123, R105, R142, R171: the outputs at reset. -/
theorem outputs_of_reset {t : State} (hrif : t.rif = State.reset.rif) (hhtc : t.htc = State.reset.htc)
    (hlvc : t.lvc = State.reset.lvc) (hfdc : t.fdc = State.reset.fdc) :
    t.interruptOutput = false ∧ (∀ output, t.contactorClosed output = false) ∧
    (∀ side, t.upOutput side = false ∧ t.downOutput side = false) ∧
    ∀ channel, t.driveOutput channel = 0 ∧ t.supplyOutput channel = false := by
  refine ⟨?_, fun output => ?_, fun side => ?_, fun channel => ?_⟩
  · rw [State.interruptOutput, hrif]; decide
  · rw [State.contactorClosed, hhtc]; rfl
  · rw [State.upOutput, State.downOutput, hlvc]; cases side <;> decide
  · rw [State.driveOutput, State.supplyOutput, hfdc]; revert channel; decide

/-- Settles O2: every value stands in the reset state itself. -/
theorem resetGivesTheValuesOfEveryBlock : Obligations.ResetGivesTheValuesOfEveryBlock := by
  refine ⟨fun s => ⟨rfl, fun value h => exec_softReset_of_set s h, outputs_of_reset rfl rfl rfl rfl⟩, ?_⟩
  have hpages (k : PageKind) :
      (State.reset.sps.page k).valid = false ∧ (State.reset.sps.page k).bytes = List.replicate k.bodyLength 0 := by
    cases k <;> exact ⟨rfl, rfl⟩
  refine ⟨by decide, by decide, by decide, hpages, by decide, by decide, by decide, ⟨rfl, fun j => ?_, by decide⟩, by decide,
    fun side => ?_, by decide, by decide, by decide, by decide, by decide,
    by decide, by decide, by decide, by decide, by decide, by decide, by decide, by decide, fun side => ?_, by decide⟩
  · cases j <;> rfl
  · cases side <;> decide
  · cases side <;> rfl

/-- R44 to R164: the laws hold in a reset state, the region in any canonical form. -/
theorem laws_resetAll {s : State} (hs : MemoryLaw s) : MemoryLaw s.resetAll ∧ BoardLaw s.resetAll ∧
    SettingsLaw s.resetAll ∧ PagesLaw s.resetAll ∧ TravelLaw s.resetAll ∧ PauseLaw s.resetAll ∧ HeatingLaw s.resetAll ∧
    WaitingLaw s.resetAll ∧ QueueLaw s.resetAll ∧ RecordsLaw s.resetAll := by
  have hnone : State.reset.htc.Confirms := fun z hz => nomatch hz
  have hpowered : State.reset.htc.Powered := Nat.zero_le _
  have hwaits : State.reset.htc.Waits := ⟨List.nodup_nil, fun _ => ⟨nofun, nofun⟩, rfl⟩
  exact ⟨hs, ⟨Nat.zero_le _, .nil, .nil, .nil, Nat.zero_le _⟩, settingsLaw_resetAll s, pagesLaw_resetAll s,
    travelLaw_resetAll s, pauseLaw_resetAll s, (heatingLaw_iff _).mpr ⟨hnone, hpowered⟩,
    (waitingLaw_iff _).mpr ⟨hnone, hwaits⟩, (queueLaw_iff _).mpr Mru.reset_laws.1, Mru.reset_laws.2⟩

/-- Settles O54. -/
theorem lawsHoldAtReset : Obligations.LawsHoldAtReset := fun s hs => by
  obtain ⟨hmem, hboard, hsettings, hpages, htravel, hpause, hheating, hwaiting, hqueue, hrecords⟩ := laws_resetAll hs
  exact ⟨hmem, hboard, hsettings, hpages, htravel, hpause, hheating, hwaiting, hqueue, hrecords, Memory.wf_nil⟩

/-- Settles O15, row by row. -/
theorem effectiveModeTables : Obligations.EffectiveModeTables := by
  refine ⟨fun reference => ?_, by decide, by decide, by decide, fun travel => ?_, by decide⟩
  · cases reference <;> decide
  · cases travel <;> decide

end Sys2Proof.Machine

/-! PROOF. The registers, and the run status as RUN and STOP_COMPLETE move it (R167 to R171). -/
namespace Sys2Proof.Machine

/-! ## The run status -/

/-- R168: every block that follows the run status is told of a change. -/
theorem State.setRun_eq (s : State) (status : RunStatus) : s.setRun status = { s with
    rif := { s.rif with runStatus := status }
    inbox := s.inbox ++ [Follower.msc, .bdr, .trm, .hlc, .htc, .mru].map fun f => ⟨false, .runStatus f status⟩ } := rfl

theorem State.runWritten_of_ne {s : State} (h : s.rif.runStatus ≠ .stopped) : s.runWritten = s := if_neg h

theorem State.stopWritten_of_ne {s : State} (h : s.rif.runStatus ≠ .running) : s.stopWritten = s := if_neg h

/-- R122, R124: the hand-offs through which an orderly stop is on its way. -/
theorem Handoff.stopsJobs_iff (h : Handoff) : h.stopsJobs = true ↔
    (∃ status, h = .runStatus .msc status) ∨ (∃ side mode, h = .sideMode side mode) ∨ ∃ level, h = .heatingLevel level := by
  cases h with
  | runStatus f status => cases f <;> simp [Handoff.stopsJobs]
  | _ => simp [Handoff.stopsJobs]

theorem SideRecord.atRest_iff (r : SideRecord) : r.atRest = true ↔ r.modeSeen = .off ∧ r.valve = .idle := by
  simp [SideRecord.atRest]

theorem Htc.atRest_iff (h : Htc) :
    h.atRest = true ↔ h.levelSeen = .off ∧ ∀ z ∈ h.zones, z.state ≠ .closing ∧ z.state ≠ .on := by
  simp [Htc.atRest, Zone.closed]

/-- R122, R124: when an orderly stop has reached the sides and the heating. -/
theorem State.jobsAtRest_iff (s : State) : s.jobsAtRest = true ↔
    s.msc.runSeen = .stopping ∧ (∀ w ∈ s.inbox, ¬ ((∃ status, w.handoff = .runStatus .msc status) ∨
      (∃ side mode, w.handoff = .sideMode side mode) ∨ ∃ level, w.handoff = .heatingLevel level)) ∧
    (∀ side, (s.lvc.sides.get side).modeSeen = .off ∧ (s.lvc.sides.get side).valve = .idle) ∧
    s.htc.levelSeen = .off ∧ ∀ z ∈ s.htc.zones, z.state ≠ .closing ∧ z.state ≠ .on := by
  have hsides : (∀ side, (s.lvc.sides.get side).modeSeen = .off ∧ (s.lvc.sides.get side).valve = .idle) ↔
      s.lvc.sides.left.atRest = true ∧ s.lvc.sides.right.atRest = true := by
    simp only [SideRecord.atRest_iff]
    exact ⟨fun h => ⟨h .left, h .right⟩, fun ⟨hl, hr⟩ side => by cases side; exacts [hl, hr]⟩
  have hway : (∀ w ∈ s.inbox, ¬ ((∃ status, w.handoff = .runStatus .msc status) ∨
      (∃ side mode, w.handoff = .sideMode side mode) ∨ ∃ level, w.handoff = .heatingLevel level)) ↔
      (s.inbox.all fun w => !w.handoff.stopsJobs) = true := by
    simp only [← Handoff.stopsJobs_iff]
    simp
  rw [hsides, hway, ← Htc.atRest_iff]
  simp [State.jobsAtRest, and_assoc]

/-- R169: when a stop is complete. -/
theorem State.stopReady_iff (s : State) : s.stopReady = true ↔
    s.rif.runStatus = .stopping ∧ s.rif.boardQuiet = true ∧ s.rif.recordsQuiet = true ∧ s.rif.noteQueue = [] ∧
    s.rif.noteOp = .none ∧ s.rif.summaryWrite = none ∧ s.jobsAtRest = true := by
  simp [State.stopReady, Rif.stopReady, and_assoc]

/-- Settles O3. -/
theorem runStartsAndStops : Obligations.RunStartsAndStops := by
  intro s
  refine ⟨fun h => congrArg Host.Outcome.next (if_pos h), fun h => ?_, fun h => congrArg Host.Outcome.next (if_pos h),
    fun h => ?_, fun _ => rfl, fun hrun hboard hrecords hqueue hnote hsummary hreached => ?_, fun h => ?_⟩
  · exact ⟨congrArg Host.Outcome.next (s.runWritten_of_ne h), congrArg Host.Outcome.next (s.runWritten_of_ne h)⟩
  · exact ⟨congrArg Host.Outcome.next (s.stopWritten_of_ne h), congrArg Host.Outcome.next (s.stopWritten_of_ne h)⟩
  · refine congrArg Host.Outcome.next (if_pos ((State.stopReady_iff s).mpr ?_))
    exact ⟨hrun, hboard, hrecords, hqueue, hnote, hsummary, (State.jobsAtRest_iff s).mpr hreached⟩
  · refine congrArg Host.Outcome.next (if_neg fun hready => ?_)
    obtain ⟨hrun, hboard, hrecords, hqueue, hnote, hsummary, hjobs⟩ := (State.stopReady_iff s).mp hready
    have hreached := (State.jobsAtRest_iff s).mp hjobs
    rcases h with h | h | h | h | h | h | h
    · exact h hrun
    · simp [hboard] at h
    · simp [hrecords] at h
    · exact h hqueue
    · exact h hnote
    · exact h hsummary
    · exact h hreached

/-! ## The registers -/

/-- R171: the interrupt output is asserted exactly while a cause is set whose enable is set. -/
theorem Rif.interrupt_iff (r : Rif) :
    r.interrupt = true ↔ ∃ c : Cause, r.causeSet c = true ∧ r.causeEnabled c = true := by
  have hbit (c : Cause) : (r.attention &&& r.attentionEnable).getLsbD c.bit = true ↔
      r.causeSet c = true ∧ r.causeEnabled c = true := by
    rw [BitVec.getLsbD_and, Bool.and_eq_true]
    rfl
  simp only [← hbit, Rif.interrupt, bne_iff_ne]
  constructor
  · intro hne
    by_contra hnone
    simp only [not_exists, Bool.not_eq_true] at hnone
    refine hne (BitVec.eq_of_getLsbD_eq fun i hi => ?_)
    refine Eq.trans ?_ BitVec.getLsbD_zero.symm
    interval_cases i
    exacts [hnone .outcome, hnone .page, hnone .note, hnone .held, hnone .safe, hnone .layout]
  · rintro ⟨c, hc⟩ hzero
    rw [hzero] at hc
    exact absurd (BitVec.getLsbD_zero.symm.trans hc) (by decide)

/-- 12.1: the bits of CONTROL: RUN in bit 0, the code of the run status in bits 5 to 4. -/
theorem State.readControl_bits (s : State) :
    let control := s.readRegister .control
    (control.getLsbD 0 = true ↔ s.rif.runStatus = .starting ∨ s.rif.runStatus = .running) ∧
    (control.getLsbD 4 = true ↔ s.rif.runStatus = .starting ∨ s.rif.runStatus = .stopping) ∧
    (control.getLsbD 5 = true ↔ s.rif.runStatus = .running ∨ s.rif.runStatus = .stopping) ∧
    ∀ i, i ≠ 0 → i ≠ 4 → i ≠ 5 → control.getLsbD i = false := by
  have hhigh (n i : Nat) (hn : n < 2 ^ 6) (hi : 6 ≤ i) : (BitVec.ofNat 32 n).getLsbD i = false := by
    rw [BitVec.getLsbD_ofNat, Nat.testBit_lt_two_pow (hn.trans_le (Nat.pow_le_pow_right (by decide) hi)), Bool.and_false]
  have hlow (status : RunStatus) : ∀ i < 6, i ≠ 0 → i ≠ 4 → i ≠ 5 →
      (BitVec.ofNat 32 ((status == .starting || status == .running).toNat + 16 * status.code)).getLsbD i = false := by
    cases status <;> decide
  have hsmall (status : RunStatus) : (status == .starting || status == .running).toNat + 16 * status.code < 2 ^ 6 := by
    cases status <;> decide
  refine ⟨?_, ?_, ?_, fun i h0 h4 h5 => ?_⟩
  · simp only [State.readRegister, Rif.runReads]; cases s.rif.runStatus <;> decide
  · simp only [State.readRegister, Rif.runReads]; cases s.rif.runStatus <;> decide
  · simp only [State.readRegister, Rif.runReads]; cases s.rif.runStatus <;> decide
  · rcases Nat.lt_or_ge i 6 with hi | hi
    · exact hlow _ i hi h0 h4 h5
    · exact hhigh _ i (hsmall _) hi

/-- Settles O4. -/
theorem registerWritesAndInterrupt : Obligations.RegisterWritesAndInterrupt := by
  have hmask : ∀ i < 32, (0xFFFFF000#32).getLsbD i = decide (12 ≤ i) := by decide
  refine ⟨fun s value => ⟨fun h => ⟨value &&& 0xFFFFF000#32, congrArg Host.Outcome.next (if_pos h), fun i hi => ?_⟩,
    fun h => congrArg Host.Outcome.next (if_neg h), ⟨_, rfl, fun i hi => ?_⟩, ⟨_, rfl, fun i hi => ?_⟩, s.rif.interrupt_iff⟩,
    fun s => ⟨rfl, rfl, rfl, ?_, ?_, s.readControl_bits⟩⟩
  · rw [BitVec.getLsbD_and, hmask i hi, Bool.and_comm]
  · simp [hi]
  · simp [hi]
  · simp only [State.readRegister]; exact BitVec.toNat_setWidth_of_le (by decide)
  · simp only [State.readRegister]; exact BitVec.toNat_setWidth_of_le (by decide)

end Sys2Proof.Machine

/-! PROOF. A run's start: the layout read and checked, and the board's slots read in turn (R168, R41). -/
namespace Sys2Proof.Machine

/-! ## The layout (R168) -/

/-- R168, step 2: what each check of a layout asks. -/
theorem layoutOk_iff (l : Layout) (readIndex : Word) : layoutOk l readIndex = true ↔
    (∀ a ∈ l.areas, a.1 + a.2 ≤ 2 ^ 20) ∧ (l.areas.Pairwise fun a b => a.1 + a.2 ≤ b.1 ∨ b.1 + b.2 ≤ a.1) ∧
    l.boardOffset % 8 = 0 ∧ l.ringOffset % 4096 = 0 ∧ l.stripOffset % 16 = 0 ∧ 8 ≤ l.slotCount ∧ l.slotCount ≤ 128 ∧
    2 ≤ l.pageCount ∧ l.pageCount ≤ 256 ∧ readIndex = 0 := by
  have hroom : (l.areas.all fun a => decide (a.1 + a.2 ≤ regionSize)) = true ↔ ∀ a ∈ l.areas, a.1 + a.2 ≤ 2 ^ 20 := by
    simp only [List.all_eq_true, decide_eq_true_eq]
    rfl
  have hapart (a b : Nat × Nat) : areasApart a b = true ↔ a.1 + a.2 ≤ b.1 ∨ b.1 + b.2 ≤ a.1 := by simp [areasApart]
  simp only [layoutOk, Bool.and_eq_true, decide_eq_true_eq, hroom, hapart, and_assoc]

section LayoutRead
variable {s : State} (host : HostWrites) (hread : s.rif.layoutRead = true)
include hread

/-- R168, step 3: a layout that fails a check. -/
theorem exec_layoutReadDone_of_bad
    (hbad : layoutOk (layoutOf ((s.hostWrite host).regionRead 0 64)) (readIndexOf ((s.hostWrite host).regionRead 0 64)) =
      false) :
    exec (.layoutReadDone host) s = .next (State.failStart { s.hostWrite host with
      rif := { s.rif with layoutRead := false } }) := by
  change execLayoutReadDone host s = _
  rw [execLayoutReadDone, if_pos hread]
  exact congrArg Host.Outcome.next (if_neg (Bool.eq_false_iff.mp hbad))

/-- R168, step 4: a layout that passes them. -/
theorem exec_layoutReadDone_of_ok
    (hok : layoutOk (layoutOf ((s.hostWrite host).regionRead 0 64)) (readIndexOf ((s.hostWrite host).regionRead 0 64)) =
      true) :
    exec (.layoutReadDone host) s = .next (State.passLayout { s.hostWrite host with
      rif := { s.rif with layoutRead := false } } (layoutOf ((s.hostWrite host).regionRead 0 64))) := by
  change execLayoutReadDone host s = _
  rw [execLayoutReadDone, if_pos hread]
  exact congrArg Host.Outcome.next (if_pos hok)

end LayoutRead

theorem State.issuePending_of_pending {s : State} (h : s.rif.rewritePending = true) :
    s.issuePending = State.issueSummary { s with rif := { s.rif with rewritePending := false } } := if_pos h

theorem State.issuePending_of_not_pending {s : State} (h : s.rif.rewritePending = false) : s.issuePending = s :=
  if_neg (Bool.eq_false_iff.mp h)

/-- R168, step 4: BDR's pass begins, with no rewrite to issue. -/
theorem State.passLayout_quiet {s : State} (l : Layout) (h : s.rif.summaryWrite ≠ none ∨ s.rif.rewritePending = false) :
    s.passLayout l = { s with
      rif := { s.rif with layout := some l }
      bdr := { s.bdr with op := .startupRead 0, startupWrote := false } } := by
  unfold State.passLayout
  dsimp only
  split
  next => rfl
  next hidle =>
    rcases h with h | h
    · exact absurd (Option.isSome_iff_ne_none.mpr h) hidle
    · exact State.issuePending_of_not_pending h

/-- R168, step 4: BDR's pass begins, and the rewrite asked for before is issued. -/
theorem State.passLayout_pending {s : State} (l : Layout) (hidle : s.rif.summaryWrite = none)
    (hpending : s.rif.rewritePending = true) :
    s.passLayout l = State.issueSummary { s with
      rif := { s.rif with layout := some l, rewritePending := false }
      bdr := { s.bdr with op := .startupRead 0, startupWrote := false } } := by
  unfold State.passLayout
  dsimp only
  rw [if_neg (by simp [hidle])]
  exact State.issuePending_of_pending hpending

/-! ## The start-up pass (R41) -/

theorem slotHeld_iff (block : List Byte) :
    slotHeld block = true ↔ leNat ((block.drop 22).take 1) = 2 ∨ leNat ((block.drop 22).take 1) = 3 := by
  simp [slotHeld, fieldAt, SlotState.code]

theorem State.startupNext_of_lt {s : State} {k : Nat} (h : k + 1 < s.rif.layoutCopy.slotCount) :
    s.startupNext k = { s with bdr := { s.bdr with op := .startupRead (k + 1) } } := if_pos h

theorem State.startupNext_of_ge {s : State} {k : Nat} (h : s.rif.layoutCopy.slotCount ≤ k + 1) :
    s.startupNext k = State.enterRunning { s with bdr := { s.bdr with op := .none } } s.bdr.startupWrote :=
  if_neg (Nat.not_lt.mpr h)

/-- R168, step 5: the values with which a run begins. -/
theorem State.enterRunning_eq (s : State) (wrote : Bool) : s.enterRunning wrote = State.requestRewrite { s with
    rif := { s.rif with
      runStatus := .running, runTime := 0, outcomesWritten := 0, pagesHanded := 0, notesLost := 0, noteWriteIndex := 0
      readIndexSeen := 0, noteQueue := [], boardQuiet := false, recordsQuiet := false
      attention := if wrote then s.rif.attention ||| Cause.outcome.mask else s.rif.attention }
    inbox := s.inbox ++ [Follower.msc, .bdr, .trm, .hlc, .htc, .mru].map fun f => ⟨false, .runStatus f .running⟩ } := by
  cases wrote <;> rfl

section StartupRead
variable {s : State} {k : Nat} (host : HostWrites) (hop : s.bdr.op = .startupRead k)
include hop

theorem exec_startupSlotReadDone_of_held
    (hheld : slotHeld ((s.hostWrite host).regionRead ((s.hostWrite host).slotOffset k) 48) = true) :
    exec (.startupSlotReadDone host) s = .next
      (State.issueSlot { s.hostWrite host with bdr := { s.bdr with
        op := .startupWrite k ⟨.refused, 0, .clear, .abandoned, s.bdr.chainageSeen, 0⟩, startupWrote := true } } k
        ⟨.refused, 0, .clear, .abandoned, s.bdr.chainageSeen, 0⟩) := by
  change execStartupSlotReadDone host s = _
  rw [execStartupSlotReadDone, hop]
  exact congrArg Host.Outcome.next (if_pos hheld)

theorem exec_startupSlotReadDone_of_not_held
    (hheld : slotHeld ((s.hostWrite host).regionRead ((s.hostWrite host).slotOffset k) 48) = false) :
    exec (.startupSlotReadDone host) s = .next ((s.hostWrite host).startupNext k) := by
  change execStartupSlotReadDone host s = _
  rw [execStartupSlotReadDone, hop]
  exact congrArg Host.Outcome.next (if_neg (Bool.eq_false_iff.mp hheld))

end StartupRead

theorem exec_startupWriteDone_of_op {s : State} {k : Nat} {o : SlotOutcome} (hop : s.bdr.op = .startupWrite k o) :
    exec .startupWriteDone s = .next ((s.writeDone .board).startupNext k) := by
  change execStartupWriteDone s = _
  rw [execStartupWriteDone, hop]

/-- Settles O5. -/
theorem runStartReadsLayoutAndBoard : Obligations.RunStartReadsLayoutAndBoard := by
  refine ⟨layoutOk_iff, fun s host hread => ⟨fun hok => ⟨fun hquiet => ?_, fun hidle hpending => ?_⟩, fun hbad => ?_⟩,
    slotHeld_iff, fun s host k hop => ⟨fun hheld => exec_startupSlotReadDone_of_held host hop hheld, fun hheld hmore => ?_,
      fun hheld hlast => ?_⟩, fun s k o hop => ⟨fun hmore => ?_, fun hlast => ?_⟩, State.enterRunning_eq⟩
  · exact (exec_layoutReadDone_of_ok host hread hok).trans (congrArg Host.Outcome.next (State.passLayout_quiet _ hquiet))
  · exact (exec_layoutReadDone_of_ok host hread hok).trans
      (congrArg Host.Outcome.next (State.passLayout_pending _ hidle hpending))
  · exact exec_layoutReadDone_of_bad host hread hbad
  · exact (exec_startupSlotReadDone_of_not_held host hop hheld).trans
      (congrArg Host.Outcome.next (State.startupNext_of_lt hmore))
  · exact (exec_startupSlotReadDone_of_not_held host hop hheld).trans
      (congrArg Host.Outcome.next (State.startupNext_of_ge hlast))
  · exact (exec_startupWriteDone_of_op hop).trans (congrArg Host.Outcome.next (State.startupNext_of_lt hmore))
  · exact (exec_startupWriteDone_of_op hop).trans (congrArg Host.Outcome.next (State.startupNext_of_ge hlast))

end Sys2Proof.Machine

/-! PROOF. Notes, the summary block and the memory port, and the bytes and codes of 12 (R24, R170, R172). -/
namespace Sys2Proof.Machine

/-! ## Notes and rewrites -/

theorem State.postNote_queued_eq {s : State} (kind : NoteKind) (subject : Nat) (value : Word)
    (hrun : s.rif.runStatus = .running ∨ s.rif.runStatus = .stopping) (hroom : s.rif.noteQueue.length < 16) :
    s.postNote kind subject value = { s with rif := Rif.startNote { s.rif with
      noteQueue := s.rif.noteQueue ++ [⟨kind, BitVec.ofNat 8 subject, value, s.rif.runTime, s.trm.chainage⟩] } } :=
  s.postNote_queued kind subject value ((Rif.counting_iff _).mpr hrun) hroom

theorem State.postNote_lost_eq {s : State} (kind : NoteKind) (subject : Nat) (value : Word)
    (hrun : s.rif.runStatus = .running ∨ s.rif.runStatus = .stopping) (hfull : 16 ≤ s.rif.noteQueue.length) :
    s.postNote kind subject value = State.requestRewrite { s with rif := { s.rif with notesLost := s.rif.notesLost + 1 } } :=
  s.postNote_lost kind subject value ((Rif.counting_iff _).mpr hrun) hfull

theorem State.postNote_outside {s : State} (kind : NoteKind) (subject : Nat) (value : Word)
    (hrun : s.rif.runStatus = .stopped ∨ s.rif.runStatus = .starting) : s.postNote kind subject value = s :=
  s.postNote_idle kind subject value (by rcases hrun with h | h <;> simp [Rif.counting, h])

theorem State.requestRewrite_stopped {s : State} (h : s.rif.runStatus = .stopped) : s.requestRewrite = s := if_pos h

theorem State.requestRewrite_pending {s : State} (h : s.rif.runStatus ≠ .stopped)
    (hbusy : s.rif.summaryWrite ≠ none ∨ s.rif.layoutRead = true) :
    s.requestRewrite = { s with rif := { s.rif with rewritePending := true } } := by
  have hbusy : (s.rif.summaryWrite.isSome || s.rif.layoutRead) = true := by
    rwa [Bool.or_eq_true, Option.isSome_iff_ne_none]
  exact (if_neg h).trans (if_pos hbusy)

theorem State.requestRewrite_issued {s : State} (h : s.rif.runStatus ≠ .stopped) (hidle : s.rif.summaryWrite = none)
    (hread : s.rif.layoutRead = false) : s.requestRewrite = s.issueSummary :=
  (if_neg h).trans (if_neg (by simp [hidle, hread]))

/-- R172: the read index is read, and RIF acts on the room it shows. -/
theorem exec_noteReadIndexDone_of_op {s : State} (host : HostWrites) (hop : s.rif.noteOp = .readIndex) :
    exec (.noteReadIndexDone host) s = .next
      (let u := s.hostWrite host
       let index := BitVec.ofNat 32 (leNat (u.regionRead 16 4))
       if (s.rif.noteWriteIndex - index).toNat < 64 then
         State.issueNote { u with rif := { s.rif with readIndexSeen := index } }
       else State.requestRewrite { u with
         rif := Rif.nextNote { s.rif with readIndexSeen := index, notesLost := s.rif.notesLost + 1 } }) :=
  congrArg Host.Outcome.next (if_pos hop)

theorem State.issueNote_of_head {s : State} {n : NoteRequest} {rest : List NoteRequest} (h : s.rif.noteQueue = n :: rest) :
    s.issueNote = State.issueWrite { s with rif := { s.rif with noteOp := .write } } .note
      [(s.rif.layoutCopy.stripOffset + 16 * (s.rif.noteWriteIndex.toNat % 64), n.bytes)] := by
  simp [State.issueNote, h, State.modRif]

/-- R172: a note's write ends. -/
theorem exec_noteWriteDone_of_op {s : State} {n : NoteRequest} {rest : List NoteRequest} (hop : s.rif.noteOp = .write)
    (hqueue : s.rif.noteQueue = n :: rest) :
    exec .noteWriteDone s = .next (State.requestRewrite { s.writeDone .note with
      rif := Rif.nextNote { s.rif with
        noteWriteIndex := s.rif.noteWriteIndex + 1, attention := s.rif.attention ||| Cause.note.mask } }) := by
  change execNoteWriteDone s = _
  rw [execNoteWriteDone, hop, hqueue]
  rfl

/-- R170: a rewrite's write ends, and a pending one follows. -/
theorem exec_summaryWriteDone_of_op {s : State} {block : List Byte} (hop : s.rif.summaryWrite = some block) :
    exec .summaryWriteDone s = .next
      (let u : State := { s.writeDone .summary with rif := { s.rif with summaryWrite := none } }
       if s.rif.layoutRead then u else u.issuePending) := by
  change execSummaryWriteDone s = _
  rw [execSummaryWriteDone, hop]
  rfl

/-! ## The memory port (R24) -/

/-- R24: a user's write and those before it stand at the front of the port. -/
theorem portCount_of_split {user : PortUser} {earlier later : List PortWrite} {w : PortWrite} (hw : w.user = user)
    (hearlier : ∀ x ∈ earlier, x.user ≠ user) : portCount user (earlier ++ w :: later) = earlier.length + 1 := by
  induction earlier with
  | nil => simp [portCount, hw]
  | cons x earlier ih =>
    have ih := ih fun y hy => hearlier y (List.mem_cons_of_mem _ hy)
    simp [portCount, hearlier x (List.mem_cons_self ..), ih]

theorem State.writeDone_of_split {s : State} {user : PortUser} {earlier later : List PortWrite} {w : PortWrite}
    (hport : s.port = earlier ++ w :: later) (hw : w.user = user) (hearlier : ∀ x ∈ earlier, x.user ≠ user) :
    s.writeDone user = { s with mem := (earlier ++ [w]).foldl PortWrite.land s.mem, port := later } := by
  have hsplit : s.port = (earlier ++ [w]) ++ later := by simp [hport]
  have hcount : portCount user s.port = (earlier ++ [w]).length := by simp [hport, portCount_of_split hw hearlier]
  simp only [State.writeDone, hcount, State.landWrites, State.modMem, State.modPort]
  rw [hsplit, List.take_left, List.drop_left]

theorem State.landAll_eq (s : State) : s.landAll = { s with mem := s.port.foldl PortWrite.land s.mem, port := [] } := by
  simp [State.landAll, State.landWrites, State.modMem, State.modPort]

/-- A byte read after bytes were written. -/
theorem Memory.read_writeBytes (m : Memory) (a x : Nat) (bytes : List Byte) (h : m.wf = true) :
    (m.writeBytes a bytes).read x = if a ≤ x then (bytes[x - a]?).getD (m.read x) else m.read x := by
  by_cases hlow : a ≤ x
  · obtain ⟨i, rfl⟩ := Nat.exists_eq_add_of_le hlow
    rw [if_pos hlow, Nat.add_sub_cancel_left]
    by_cases hi : i < bytes.length
    · simp [Memory.read_writeBytes_inside m a bytes i h hi, hi]
    · rw [Memory.read_writeBytes_outside m a bytes _ h (by omega), List.getElem?_eq_none (by omega), Option.getD_none]
  · rw [if_neg hlow]
    exact Memory.read_writeBytes_outside m a bytes x h (by omega)

/-! ## Codes (12.4) -/

theorem MachineState.ofCode_eq_some_iff (n : Nat) (x : MachineState) : MachineState.ofCode n = some x ↔ x.code = n := by
  unfold MachineState.ofCode
  split <;> cases x <;> simp_all [MachineState.code, eq_comm]

theorem HeadKind.ofCode_eq_some_iff (n : Nat) (x : HeadKind) : HeadKind.ofCode n = some x ↔ x.code = n := by
  unfold HeadKind.ofCode
  split <;> cases x <;> simp_all [HeadKind.code, eq_comm]

theorem Section.ofCode_eq_some_iff (n : Nat) (x : Section) : Section.ofCode n = some x ↔ x.code = n := by
  unfold Section.ofCode
  split <;> cases x <;> simp_all [Section.code, eq_comm]

theorem JunctionId.ofCode_eq_some_iff (n : Nat) (x : JunctionId) : JunctionId.ofCode n = some x ↔ x.code = n := by
  unfold JunctionId.ofCode
  split <;> cases x <;> simp_all [JunctionId.code, eq_comm]

theorem sideOfCode_eq_some_iff (n : Nat) (x : Side) : sideOfCode n = some x ↔ sideCode x = n := by
  unfold sideOfCode
  split <;> cases x <;> simp_all [sideCode, eq_comm]

theorem PageKind.ofCode_eq_some_iff (n : Nat) (x : PageKind) : PageKind.ofCode n = some x ↔ x.code = n := by
  unfold PageKind.ofCode
  split <;> cases x <;> simp_all [PageKind.code, eq_comm]

/-! ## The blocks of 12.2 and 12.5 -/

/-- A field behind the number at a block's front. -/
theorem leNat_behind_le (n v : Nat) (after : List Byte) {k : Nat} (length : Nat) (h : n ≤ k) :
    leNat (((leBytes n v ++ after).drop k).take length) = leNat ((after.drop (k - n)).take length) := by
  simpa using leNat_behind (leBytes n v) after k length (by simpa using h)

theorem leNat_word_first (v : Word) (after : List Byte) :
    leNat (((leBytes 4 v.toNat ++ after).drop 0).take 4) = v.toNat :=
  (leNat_first after 4 v.toNat).trans (Nat.mod_eq_of_lt v.isLt)

theorem leNat_word_last (v : Word) : leNat (((leBytes 4 v.toNat).drop 0).take 4) = v.toNat := by
  simpa using leNat_word_first v []

/-- 12.5: the fields of a note. -/
theorem NoteRequest.bytes_fields (n : NoteRequest) :
    let field (offset length : Nat) : Nat := leNat ((n.bytes.drop offset).take length)
    n.bytes.length = 16 ∧ field 0 1 = n.kind.code ∧ field 1 1 = n.subject.toNat ∧ field 2 2 = 0 ∧
    field 4 4 = n.value.toNat ∧ field 8 4 = n.runTime.toNat ∧ field 12 4 = n.chainage.toNat := by
  have hkind : n.kind.code < 256 := by cases n.kind <;> decide
  dsimp only
  refine ⟨n.bytes_length, leNat_code hkind, ?_, rfl, ?_, ?_, ?_⟩
  · simp [NoteRequest.bytes, leNat]
  all_goals
    simp only [NoteRequest.bytes, List.append_assoc, List.cons_append, List.nil_append, List.drop_succ_cons]
    simp only [leNat_behind_le, Nat.reduceLeDiff, Nat.reduceSub, leNat_word_first, leNat_word_last]

/-- 12.2: the summary block in its parts: the sequence, the codes, the numbers, and what follows them. -/
theorem State.summaryBytes_parts (s : State) (sequence : Word) :
    ∃ tail, s.summaryBytes sequence = leBytes 4 sequence.toNat ++ (s.summaryStates ++ (s.summaryFigures ++ tail)) :=
  ⟨List.replicate 172 0 ++ leBytes 4 sequence.toNat, by simp only [State.summaryBytes, List.append_assoc]⟩

/-- 12.2: the fields of the summary block that are numbers. -/
theorem State.summaryBytes_figures (s : State) (sequence : Word) :
    let field (offset length : Nat) : Nat := leNat (((s.summaryBytes sequence).drop offset).take length)
    field 24 4 = s.trm.chainage.toNat ∧ field 28 4 = s.rif.runTime.toNat ∧
    field 32 4 = s.rif.outcomesWritten.toNat ∧ field 36 2 = s.bdr.cursor % 2 ^ 16 ∧
    field 38 1 = s.bdr.status.code ∧ field 39 1 = s.bdr.staging.length % 2 ^ 8 ∧
    field 40 4 = s.rif.pagesHanded.toNat ∧ field 44 4 = s.rif.noteWriteIndex.toNat ∧ field 48 4 = s.rif.notesLost.toNat ∧
    field 52 4 = s.mru.linesProduced.toNat ∧ field 56 4 = s.mru.linesWritten.toNat ∧
    field 60 4 = s.mru.linesQueued % 2 ^ 32 ∧ field 64 4 = s.mru.linesLost.toNat ∧
    field 68 4 = s.mru.triggersMissed.toNat ∧ field 72 4 = s.htc.budget % 2 ^ 32 ∧ field 76 4 = s.htc.draw % 2 ^ 32 := by
  have hstatus : s.bdr.status.code < 256 := by cases s.bdr.status <;> decide
  have hword (v : Word) : v.toNat % 4294967296 = v.toNat := Nat.mod_eq_of_lt v.isLt
  obtain ⟨tail, hparts⟩ := s.summaryBytes_parts sequence
  have hfigure (offset length : Nat) (h : 24 ≤ offset) : leNat (((s.summaryBytes sequence).drop offset).take length) =
      leNat (((s.summaryFigures ++ tail).drop (offset - 24)).take length) := by
    have hfront : (leBytes 4 sequence.toNat ++ s.summaryStates).length = 24 := by simp
    rw [hparts, ← List.append_assoc, leNat_behind _ _ _ _ (hfront ▸ h), hfront]
  dsimp only
  refine ⟨?_, ?_, ?_, ?_, ?_, ?_, ?_, ?_, ?_, ?_, ?_, ?_, ?_, ?_, ?_, ?_⟩
  all_goals
    rw [hfigure _ _ (by decide)]
    simp only [State.summaryFigures, List.append_assoc, leNat_behind_le, Nat.reduceLeDiff, Nat.reduceSub, leNat_first,
      Nat.reducePow, hword, Nat.mod_eq_of_lt hstatus]

/-- 12.2: the fields of the summary block that are codes. -/
theorem State.summaryBytes_states (s : State) (sequence : Word) (i : Nat) (hi : i < 20) :
    leNat (((s.summaryBytes sequence).drop (4 + i)).take 1) = leNat ((s.summaryStates.drop i).take 1) := by
  obtain ⟨tail, hparts⟩ := s.summaryBytes_parts sequence
  have hlength := s.summaryStates_length
  rw [hparts, leNat_behind_le _ _ _ _ (Nat.le_add_right 4 i), Nat.add_sub_cancel_left,
    List.drop_append_of_le_length (by omega), List.take_append_of_le_length (by rw [List.length_drop]; omega)]

/-- 12.2: the codes of the states and modes, from byte 4 of the summary block on. -/
theorem State.summaryBytes_codes (s : State) (sequence : Word) :
    let field (offset length : Nat) : Nat := leNat (((s.summaryBytes sequence).drop offset).take length)
    field 4 1 = s.rif.runStatus.code ∧ field 5 1 = s.summaryMachineState.code ∧ field 6 1 = pauseCode s.msc.pauseCause ∧
    field 7 1 = haltCode s.msc.haltSeen ∧ field 8 1 = s.msc.sideRequested.left.code ∧
    field 9 1 = s.msc.sideEffective.left.code ∧ field 10 1 = s.msc.sideRequested.right.code ∧
    field 11 1 = s.msc.sideEffective.right.code ∧
    (∀ c : Fin 4, field (12 + 2 * c) 1 = (s.msc.feedRequested[c]).code ∧
      field (13 + 2 * c) 1 = (s.msc.feedEffective[c]).code) ∧
    field 20 1 = s.msc.heating.code ∧ field 21 1 = s.msc.records.code ∧ field 22 1 = s.trm.travel.code ∧
    field 23 1 = s.trm.busState.code := by
  have hfield {i c : Nat} (hi : i < 20) (hc : c < 256) (h : (s.summaryStates.drop i).take 1 = [BitVec.ofNat 8 c]) :
      leNat (((s.summaryBytes sequence).drop (4 + i)).take 1) = c := by
    rw [s.summaryBytes_states sequence i hi, h, leNat_code hc]
  have hmachine (x : MachineState) : x.code < 256 := by cases x <;> decide
  have hpause (x : Option PauseCause) : pauseCode x < 256 := by rcases x with _ | x | x <;> decide
  have hside (x : SideMode) : x.code < 256 := by cases x <;> decide
  have hfeed (x : FeedMode) : x.code < 256 := by cases x <;> decide
  refine ⟨hfield (i := 0) (by decide) (by cases s.rif.runStatus <;> decide) rfl,
    hfield (i := 1) (by decide) (hmachine _) rfl, hfield (i := 2) (by decide) (hpause _) rfl,
    hfield (i := 3) (by decide) (by cases s.msc.haltSeen <;> decide) rfl, hfield (i := 4) (by decide) (hside _) rfl,
    hfield (i := 5) (by decide) (hside _) rfl, hfield (i := 6) (by decide) (hside _) rfl,
    hfield (i := 7) (by decide) (hside _) rfl, fun c => ?_,
    hfield (i := 16) (by decide) (by cases s.msc.heating <;> decide) rfl,
    hfield (i := 17) (by decide) (by cases s.msc.records <;> decide) rfl,
    hfield (i := 18) (by decide) (by cases s.trm.travel <;> decide) rfl,
    hfield (i := 19) (by decide) (by cases s.trm.busState <;> decide) rfl⟩
  fin_cases c
  · exact ⟨hfield (i := 8) (by decide) (hfeed _) rfl, hfield (i := 9) (by decide) (hfeed _) rfl⟩
  · exact ⟨hfield (i := 10) (by decide) (hfeed _) rfl, hfield (i := 11) (by decide) (hfeed _) rfl⟩
  · exact ⟨hfield (i := 12) (by decide) (hfeed _) rfl, hfield (i := 13) (by decide) (hfeed _) rfl⟩
  · exact ⟨hfield (i := 14) (by decide) (hfeed _) rfl, hfield (i := 15) (by decide) (hfeed _) rfl⟩

/-- 12.2: the sequence at the head of the summary block. -/
theorem State.summaryBytes_head (s : State) (sequence : Word) :
    leNat (((s.summaryBytes sequence).drop 0).take 4) = sequence.toNat := by
  obtain ⟨tail, hparts⟩ := s.summaryBytes_parts sequence
  rw [hparts, leNat_word_first]

/-- Settles O6. -/
theorem notesAndSummaryRewrites : Obligations.NotesAndSummaryRewrites := by
  refine ⟨fun s kind subject value => ⟨State.postNote_outside _ _ _, fun hrun =>
      ⟨State.postNote_queued_eq _ _ _ hrun, State.postNote_lost_eq _ _ _ hrun⟩⟩,
    fun r => ⟨fun hop hqueue => if_pos ⟨hop, hqueue⟩, fun h => if_neg fun ⟨hop, hqueue⟩ => h.elim (· hop) hqueue, rfl⟩,
    fun s => ⟨State.requestRewrite_stopped, fun h => ⟨State.requestRewrite_pending h, State.requestRewrite_issued h⟩, rfl⟩,
    fun s host hop => ⟨fun n rest hqueue hroom => ?_, fun hfull => ?_⟩,
    fun s n rest hop hqueue => exec_noteWriteDone_of_op hop hqueue,
    fun s block hop => ⟨fun h => ?_, fun hpending hread => ?_⟩, fun s user pieces => rfl,
    fun s user => ⟨s.writeDone_visible user, fun _ _ _ hport hw hearlier => State.writeDone_of_split hport hw hearlier,
      s.landAll_eq⟩,
    fun m w => rfl, Memory.read_writeBytes, fun s sequence => ?_, by decide, by decide,
    fun n => ⟨MachineState.ofCode_eq_some_iff n, HeadKind.ofCode_eq_some_iff n, Section.ofCode_eq_some_iff n,
      JunctionId.ofCode_eq_some_iff n, sideOfCode_eq_some_iff n, PageKind.ofCode_eq_some_iff n⟩,
    ⟨rfl, fun _ _ => rfl, fun length v => ⟨leBytes_length length v, leNat_leBytes length v⟩⟩,
    NoteRequest.bytes_fields, by decide⟩
  · refine (exec_noteReadIndexDone_of_op host hop).trans (congrArg Host.Outcome.next ?_)
    exact (if_pos hroom).trans (State.issueNote_of_head hqueue)
  · exact (exec_noteReadIndexDone_of_op host hop).trans (congrArg Host.Outcome.next (if_neg (Nat.not_lt.mpr hfull)))
  · refine (exec_summaryWriteDone_of_op hop).trans (congrArg Host.Outcome.next ?_)
    dsimp only
    split
    next => rfl
    next hread => exact State.issuePending_of_not_pending (h.resolve_right hread)
  · refine (exec_summaryWriteDone_of_op hop).trans (congrArg Host.Outcome.next ?_)
    exact (if_neg (by simp [hread])).trans (State.issuePending_of_pending hpending)
  · obtain ⟨hrun, hmachine, hpause, hhalt, hleft, hleft', hright, hright', hfeeds, hheating, hrecords, htravel, hbus⟩ :=
      s.summaryBytes_codes sequence
    refine ⟨s.summaryBytes_length sequence, s.summaryBytes_head sequence, s.summaryBytes_tail sequence,
      s.summaryBytes_reserved sequence, hrun, ?_, ?_, ?_, fun i hi => ?_, hfeeds, hheating, hrecords, htravel, hbus, ?_⟩
    · refine hmachine.trans ?_
      unfold State.summaryMachineState
      split <;> rfl
    · refine hpause.trans ?_
      rcases s.msc.pauseCause with _ | _ | _ <;> rfl
    · refine hhalt.trans ?_
      cases s.msc.haltSeen <;> rfl
    · interval_cases i
      exacts [congrArg some hleft.symm, congrArg some hleft'.symm, congrArg some hright.symm, congrArg some hright'.symm]
    · obtain ⟨hchainage, htime, houtcomes, hcursor, hstatus, hrest⟩ := s.summaryBytes_figures sequence
      exact ⟨hchainage, htime, houtcomes, hcursor, hstatus.trans (by cases s.bdr.status <;> rfl), hrest⟩

end Sys2Proof.Machine

/-! PROOF. The board: sweeps, slots read and taken, outcomes, and the board's run (02). -/
namespace Sys2Proof.Machine

/-! ## Sweep requests (R26, R32) -/

theorem Bdr.sweepRequest_of_not_running {b : Bdr} (h : b.runSeen ≠ .running) : b.sweepRequest = b := if_neg h

theorem Bdr.sweepRequest_of_rest {b : Bdr} (hrun : b.runSeen = .running) (hstatus : b.status = .running)
    (hactivity : b.activity = .idle) : b.sweepRequest = { b with activity := .reading, op := .slotRead b.cursor } :=
  (if_pos hrun).trans (if_pos ⟨hstatus, hactivity⟩)

theorem Bdr.sweepRequest_of_busy {b : Bdr} (hrun : b.runSeen = .running) (h : b.status = .held ∨ b.activity ≠ .idle) :
    b.sweepRequest = { b with pendingSweep := true } :=
  (if_pos hrun).trans (if_neg fun ⟨hstatus, hactivity⟩ => h.elim (fun h => by simp [h] at hstatus) (· hactivity))

/-- Settles O7. -/
theorem sweepRequests : Obligations.SweepRequests := by
  refine fun s => ⟨fun b => ⟨Bdr.sweepRequest_of_not_running, Bdr.sweepRequest_of_rest, Bdr.sweepRequest_of_busy⟩,
    fun value => rfl, fun hrun hheld => congrArg Host.Outcome.next (if_pos ⟨hrun, hheld⟩), fun h => ?_, fun expiry h => ?_,
    fun h => ?_⟩
  · refine congrArg Host.Outcome.next (if_neg fun ⟨hrun, hheld⟩ => ?_)
    exact h.elim (· hrun) (fun h => by simp [h] at hheld)
  · change execSweepTimerExpiry s = _
    rw [execSweepTimerExpiry, h]
    rfl
  · change execSweepTimerExpiry s = _
    rw [execSweepTimerExpiry, h]

/-! ## A slot read (R27 to R30) -/

/-- R27: the slot read, by what BDR finds due. -/
theorem exec_slotReadDone_of_op {s : State} (host : HostWrites) {slot : Nat} (hop : s.bdr.op = .slotRead slot) :
    exec (.slotReadDone host) s = .next
      (let u : State := { s.hostWrite host with bdr := { s.bdr with op := .none } }
       if s.bdr.runSeen ≠ .running then u.stopStep
       else if s.bdr.headDue then State.startDue { u with bdr := { u.bdr with sweepContinuing := true } }
       else u.judgeSlot slot) := by
  change execSlotReadDone host s = _
  rw [execSlotReadDone, hop]
  rfl

section JudgeSlot
variable {s : State} {slot : Nat}

theorem State.judgeSlot_of_pending (hposted : slotPosted (s.regionRead (s.slotOffset slot) 48) = false)
    (hpending : s.bdr.pendingSweep = true) (hstatus : s.bdr.status = .running) :
    s.judgeSlot slot = { s with bdr :=
      { s.bdr with activity := .reading, op := .slotRead s.bdr.cursor, pendingSweep := false } } :=
  (if_pos (by simp [hposted])).trans (if_pos (by simp [hpending, hstatus]))

theorem State.judgeSlot_of_end (hposted : slotPosted (s.regionRead (s.slotOffset slot) 48) = false)
    (h : s.bdr.pendingSweep = false ∨ s.bdr.status = .held) :
    s.judgeSlot slot = { s with bdr := { s.bdr with activity := .idle, sweepContinuing := false } } := by
  have hnone : (s.bdr.pendingSweep && s.bdr.status == .running) = false := by rcases h with h | h <;> simp [h]
  simp only [State.judgeSlot, hposted, hnone, Bool.not_false, if_true, Bool.false_eq_true, if_false]
  rfl

theorem State.judgeSlot_of_good (hposted : slotPosted (s.regionRead (s.slotOffset slot) 48) = true)
    (hgood : slotCheckGood (s.regionRead (s.slotOffset slot) 48) = true) :
    s.judgeSlot slot = s.takeOrder (orderOfSlot (s.regionRead (s.slotOffset slot) 48) slot s.bdr.nextTake) := by
  simp only [State.judgeSlot, hposted, hgood, Bool.not_true, Bool.false_eq_true, if_false, if_true]

theorem State.judgeSlot_of_bad (hposted : slotPosted (s.regionRead (s.slotOffset slot) 48) = true)
    (hbad : slotCheckGood (s.regionRead (s.slotOffset slot) 48) = false) : s.judgeSlot slot = s.refuseCheck slot := by
  simp only [State.judgeSlot, hposted, hbad, Bool.not_true, Bool.false_eq_true, if_false]

end JudgeSlot

/-- 12.3, R30: what an order's fields and its subject name. -/
theorem orderOfSlot_fields (block : List Byte) (slot : Nat) (takeIndex : Word) :
    let o := orderOfSlot block slot takeIndex
    o.stamp.toNat = fieldAt block 0 2 ∧ o.kind.toNat = fieldAt block 2 1 ∧ o.subject.toNat = fieldAt block 4 1 ∧
    o.operandA.toNat = fieldAt block 8 4 ∧ o.operandB.toNat = fieldAt block 12 4 ∧ o.station.toNat = fieldAt block 16 4 := by
  have hfield (width offset n : Nat) (h : 256 ^ n = 2 ^ width) :
      (BitVec.ofNat width (fieldAt block offset n)).toNat = fieldAt block offset n := by
    rw [BitVec.toNat_ofNat, Nat.mod_eq_of_lt (h ▸ fieldAt_lt block offset n)]
  exact ⟨hfield 16 0 2 rfl, hfield 8 2 1 rfl, hfield 8 4 1 rfl, hfield 32 8 4 rfl, hfield 32 12 4 rfl, hfield 32 16 4 rfl⟩

theorem Order.page_code {o : Order} (h : o.subject.toNat < 4) : o.page.code = o.subject.toNat := by
  unfold Order.page
  generalize o.subject.toNat = n at *
  interval_cases n <;> rfl

theorem Order.side_code {o : Order} (h : o.subject.toNat < 2) : sideCode o.side = o.subject.toNat := by
  unfold Order.side
  rcases Nat.lt_or_ge o.subject.toNat 1 with h0 | h1
  · have hzero : o.subject = 0 := by bv_omega
    rw [if_pos hzero, hzero]; rfl
  · have hne : o.subject ≠ 0 := by bv_omega
    rw [if_neg hne, show o.subject.toNat = 1 by omega]; rfl

/-- Settles O8. -/
theorem slotReadDone : Obligations.SlotReadDone := by
  refine ⟨fun s host slot hop => ?_, fun block slot takeIndex => ?_⟩
  · have hexec := exec_slotReadDone_of_op host hop
    have hjudge (hrun : s.bdr.runSeen = .running) (hdue : s.bdr.headDue = false) :
        exec (.slotReadDone host) s = .next
          (State.judgeSlot { s.hostWrite host with bdr := { s.bdr with op := .none } } slot) :=
      hexec.trans (congrArg Host.Outcome.next ((if_neg (not_not.mpr hrun)).trans (if_neg (by simp [hdue]))))
    refine ⟨fun hrun => hexec.trans (congrArg Host.Outcome.next (if_pos hrun)), fun hrun hdue => ?_, fun hrun hdue => ?_⟩
    · exact hexec.trans (congrArg Host.Outcome.next ((if_neg (not_not.mpr hrun)).trans (if_pos hdue)))
    · have hnext {t : State} (ht : State.judgeSlot { s.hostWrite host with bdr := { s.bdr with op := .none } } slot = t) :
          exec (.slotReadDone host) s = .next t := (hjudge hrun hdue).trans (congrArg Host.Outcome.next ht)
      exact ⟨fun hposted hpending hstatus => hnext (State.judgeSlot_of_pending hposted hpending hstatus),
        fun hposted h => hnext (State.judgeSlot_of_end hposted h),
        fun hposted hgood => hnext (State.judgeSlot_of_good hposted hgood),
        fun hposted hbad => hnext (State.judgeSlot_of_bad hposted hbad)⟩
  · obtain ⟨hstamp, hkind, hsubject, ha, hb, hstation⟩ := orderOfSlot_fields block slot takeIndex
    refine ⟨by simp [slotPosted, fieldAt, SlotState.code], by simp [slotCheckGood, fieldAt], rfl, rfl, hstamp, hkind, rfl, rfl,
      rfl, hsubject, ha, hb, hstation, fun h => ?_, fun h => ?_, fun h => ?_, fun h => ?_, fun h => ?_⟩
    · exact (Nat.mod_eq_of_lt (hsubject ▸ h)).trans hsubject
    · exact (Order.page_code (hsubject ▸ h)).trans hsubject
    · exact (Order.side_code (hsubject ▸ h)).trans hsubject
    · exact (Nat.mod_eq_of_lt (hsubject ▸ h)).trans hsubject
    · exact (Nat.mod_eq_of_lt (hsubject ▸ h)).trans hsubject

end Sys2Proof.Machine

/-! PROOF. The board's orders: takes and their checks, staging, outcomes, the next step, WITHDRAW, and the answers (02). -/
namespace Sys2Proof.Machine

/-! ## Takes (R29, R33, R36) -/

/-- R29: the state in which a taken order is checked: take index and TAKEN visible, the cursor and the next take index moved. -/
def State.taken (s : State) (o : Order) : State :=
  { s.writeTaken o with bdr := { s.bdr with
    activity := .executing, execution := some ⟨o, ⟨false, false, false, false⟩, .atOwner⟩
    nextTake := s.bdr.nextTake + 1, cursor := (s.bdr.cursor + 1) % s.rif.layoutCopy.slotCount
    sweepContinuing := true } }

section Take
variable {s : State} {o : Order}

theorem State.takeOrder_of_reason {reason : Reason} (h : s.bdr.takeCheck o = some reason) :
    s.takeOrder o = (s.taken o).issueOutcome .refused 0 reason ⟨false, false, false, false⟩ := by
  unfold State.takeOrder
  dsimp only
  split
  next hreason =>
    cases hreason.symm.trans h
    rfl
  next hnone => exact nomatch hnone.symm.trans h

theorem State.takeOrder_of_passed (h : s.bdr.takeCheck o = none) :
    s.takeOrder o = if o.stationPresent && decide (s.bdr.chainageSeen < o.station) then (s.taken o).stageOrder o
      else (s.taken o).beginExecution o o.stationPresent := by
  unfold State.takeOrder
  dsimp only
  split
  next hreason => exact nomatch hreason.symm.trans h
  next => rfl

end Take

/-- R33: the list is full. -/
theorem State.stageOrder_of_full {s : State} (o : Order) (h : 16 ≤ s.bdr.staging.length) :
    s.stageOrder o = s.issueOutcome .refused 0 .stageFull ⟨false, false, false, false⟩ := if_pos h

/-- R33: the list has room. -/
theorem State.stageOrder_of_room {s : State} (o : Order) (h : s.bdr.staging.length < 16) :
    s.stageOrder o = State.issueWrite { s with bdr := { s.bdr with
      staging := stageInsert s.bdr.staging o, execution := none, op := .stagedWrite o.slot } } .board
      [(s.slotOffset o.slot + 23, [0]), (s.slotOffset o.slot + 22, [BitVec.ofNat 8 SlotState.staged.code])] :=
  if_neg (Nat.not_le.mpr h)

/-- R36: an order that is not CHAINED, or whose chain test passes. -/
theorem State.beginExecution_of_begun {s : State} {o : Order} (late : Bool)
    (h : o.chained = false ∨ s.bdr.chainPasses o = true) :
    s.beginExecution o late = { s with bdr := { s.bdr with
      activity := .executing, execution := some ⟨o, ⟨false, false, late, false⟩, .atOwner⟩ } } := by
  have hpass : (o.chained && !s.bdr.chainPasses o) = false := by rcases h with h | h <;> simp [h]
  exact if_neg (Bool.eq_false_iff.mp hpass)

/-- R36, R37: a CHAINED order whose chain test fails. -/
theorem State.beginExecution_of_skipped {s : State} {o : Order} (late : Bool) (hchained : o.chained = true)
    (hfails : s.bdr.chainPasses o = false) :
    s.beginExecution o late = State.issueOutcome { s with bdr := { s.bdr with
      activity := .executing, execution := some ⟨o, ⟨false, false, late, false⟩, .atOwner⟩ } } .skipped 0 .chain
      ⟨false, false, late, false⟩ := by
  have hskip : (o.chained && !s.bdr.chainPasses o) = true := by simp [hchained, hfails]
  exact if_pos hskip

/-- R37: the chain test. -/
theorem Bdr.chainPasses_iff (b : Bdr) (o : Order) : b.chainPasses o = true ↔
    (∀ e ∈ b.staging, e.takeIndex ≠ o.takeIndex - 1) ∧ ∃ e ∈ b.history, e.takeIndex = o.takeIndex - 1 ∧ e.state = .done := by
  simp [Bdr.chainPasses]

/-- R33: an order goes between the stations at or below its own and those above. -/
theorem stageInsert_between {o : Order} {below above : List Order} (hbelow : ∀ e ∈ below, e.station ≤ o.station)
    (habove : ∀ e ∈ above, o.station < e.station) : stageInsert (below ++ above) o = below ++ o :: above := by
  have hpos : ∀ e ∈ below, decide (e.station ≤ o.station) = true := fun e he => decide_eq_true (hbelow e he)
  have hnone : above.takeWhile (fun e => decide (e.station ≤ o.station)) = [] ∧
      above.dropWhile (fun e => decide (e.station ≤ o.station)) = above := by
    cases above with
    | nil => exact ⟨rfl, rfl⟩
    | cons e above =>
      have he : ¬ e.station ≤ o.station := BitVec.not_le.mpr (habove e (List.mem_cons_self ..))
      simp [he]
  rw [stageInsert, List.takeWhile_append_of_pos hpos, List.dropWhile_append_of_pos hpos, hnone.1, hnone.2, List.append_nil]

/-- R29, step 2: the checks of a kind whose subjects lie in a range. -/
theorem Bdr.takeCheck_of_kind {b : Bdr} {o : Order} {kind : OrderKind} (hkind : OrderKind.ofCode o.kind.toNat = some kind)
    {inRange : Prop} (hrange : subjectOk kind o = true ↔ inRange) :
    (¬ inRange → b.takeCheck o = some .badSubject) ∧
    (inRange →
      ((∃ e ∈ b.staging, e.slot = o.slot) → b.takeCheck o = some .duplicateStage) ∧
      ((∀ e ∈ b.staging, e.slot ≠ o.slot) →
        (o.stationPresent = true → (∃ e ∈ b.staging, e.stamp = o.stamp) → b.takeCheck o = some .duplicateStamp) ∧
        (o.stationPresent = false ∨ (∀ e ∈ b.staging, e.stamp ≠ o.stamp) → b.takeCheck o = none))) := by
  have hslot : (b.staging.any fun e => e.slot == o.slot) = true ↔ ∃ e ∈ b.staging, e.slot = o.slot := by simp
  have hstamp : (b.staging.any fun e => e.stamp == o.stamp) = true ↔ ∃ e ∈ b.staging, e.stamp = o.stamp := by simp
  simp only [Bdr.takeCheck, hkind, ← hrange]
  refine ⟨fun hout => if_pos (by simpa using hout), fun hin => ?_⟩
  simp only [hin, Bool.not_true, Bool.false_eq_true, if_false]
  refine ⟨fun h => if_pos (hslot.mpr h), fun hfree => ?_⟩
  have hfree : ¬ (b.staging.any fun e => e.slot == o.slot) = true := fun h =>
    have ⟨e, he, heq⟩ := hslot.mp h
    hfree e he heq
  rw [if_neg hfree]
  refine ⟨fun hstation h => if_pos (by rw [hstation, Bool.true_and]; exact hstamp.mpr h), fun h => if_neg fun hboth => ?_⟩
  obtain ⟨hstation, hany⟩ := Bool.and_eq_true_iff.mp hboth
  obtain ⟨e, he, heq⟩ := hstamp.mp hany
  exact h.elim (fun h => by simp [h] at hstation) fun h => h e he heq

/-- R30: a CLEAR_FAULT names one of its class. -/
theorem clearFaultSubjects_eq (b : Word) : clearFaultSubjects b.toNat =
    if b = 0 then 24 else if b = 1 then 4 else if b = 2 then 16 else if b = 3 then 3 else 0 := by
  have hne {n : Nat} (hn : n < 2 ^ 32) (h : b ≠ BitVec.ofNat 32 n) : b.toNat ≠ n := fun heq =>
    h (BitVec.eq_of_toNat_eq (by rw [heq, BitVec.toNat_ofNat, Nat.mod_eq_of_lt hn]))
  split_ifs with h0 h1 h2 h3
  · rw [h0]; rfl
  · rw [h1]; rfl
  · rw [h2]; rfl
  · rw [h3]; rfl
  · have h0 := hne (n := 0) (by decide) h0
    have h1 := hne (n := 1) (by decide) h1
    have h2 := hne (n := 2) (by decide) h2
    have h3 := hne (n := 3) (by decide) h3
    unfold clearFaultSubjects
    split <;> first | contradiction | rfl

/-- Settles O9. -/
theorem takenOrderIsCheckedStagedOrBegun : Obligations.TakenOrderIsCheckedStagedOrBegun := by
  refine ⟨fun s o => ⟨fun reason h => State.takeOrder_of_reason h, fun hpassed hstation hahead => ?_, fun hpassed h => ?_⟩,
    fun b o => ⟨fun hkind => by simp only [Bdr.takeCheck, hkind], fun kind hkind => ?_, b.chainPasses_iff o⟩,
    fun o below above => stageInsert_between, fun s o late => ⟨State.beginExecution_of_begun late,
      State.beginExecution_of_skipped late⟩, fun s slot hop => ?_⟩
  · have htake : s.takeOrder o = (s.taken o).stageOrder o :=
      (State.takeOrder_of_passed hpassed).trans (if_pos (by simp [hstation, hahead]))
    exact ⟨fun hroom => htake.trans (State.stageOrder_of_room o hroom),
      fun hfull => htake.trans (State.stageOrder_of_full o hfull)⟩
  · refine (State.takeOrder_of_passed hpassed).trans (if_neg ?_)
    rw [Bool.and_eq_true, decide_eq_true_eq]
    exact fun ⟨hstation, hahead⟩ => h.elim (fun h => by simp [h] at hstation) fun h => BitVec.not_le.mpr hahead h
  · refine Bdr.takeCheck_of_kind hkind ?_
    cases kind
    case clearFault => simp [subjectOk, clearFaultSubjects_eq]
    all_goals simp [subjectOk]
  · change execStagedWriteDone s = _
    rw [execStagedWriteDone, hop]

end Sys2Proof.Machine

/-! PROOF. Outcomes written, BDR's next step, its chainage and run status, WITHDRAW and the owners' answers (R31 to R42). -/
namespace Sys2Proof.Machine

/-! ## The next step (R31) -/

section ChooseNext
variable {s : State}

theorem State.chooseNext_of_stopping (h : s.bdr.runSeen = .stopping) :
    s.chooseNext = State.stopStep { s with bdr := { s.bdr with execution := none, op := .none } } := if_pos h

theorem State.chooseNext_of_due (hrun : s.bdr.runSeen ≠ .stopping) (hdue : s.bdr.headDue = true) :
    s.chooseNext = State.startDue { s with bdr := { s.bdr with execution := none, op := .none } } :=
  (if_neg hrun).trans (if_pos hdue)

variable (hrun : s.bdr.runSeen ≠ .stopping) (hdue : s.bdr.headDue = false)
include hrun hdue

theorem State.chooseNext_of_continuing (hstatus : s.bdr.status = .running) (hcontinuing : s.bdr.sweepContinuing = true) :
    s.chooseNext = { s with bdr := { s.bdr with
      execution := none, activity := .reading, op := .slotRead s.bdr.cursor, sweepContinuing := false } } := by
  have hgo : (s.bdr.sweepContinuing && s.bdr.status == .running) = true := by simp [hstatus, hcontinuing]
  exact (if_neg hrun).trans ((if_neg (Bool.eq_false_iff.mp hdue)).trans (if_pos hgo))

theorem State.chooseNext_of_pending (hstatus : s.bdr.status = .running) (hcontinuing : s.bdr.sweepContinuing = false)
    (hpending : s.bdr.pendingSweep = true) :
    s.chooseNext = { s with bdr := { s.bdr with
      execution := none, activity := .reading, op := .slotRead s.bdr.cursor, pendingSweep := false } } := by
  have hend : ¬ (s.bdr.sweepContinuing && s.bdr.status == .running) = true := by simp [hcontinuing]
  have hgo : (s.bdr.pendingSweep && s.bdr.status == .running) = true := by simp [hstatus, hpending]
  exact (if_neg hrun).trans ((if_neg (Bool.eq_false_iff.mp hdue)).trans ((if_neg hend).trans (if_pos hgo)))

theorem State.chooseNext_of_rest
    (h : s.bdr.status = .held ∨ s.bdr.sweepContinuing = false ∧ s.bdr.pendingSweep = false) :
    s.chooseNext = { s with bdr := { s.bdr with
      execution := none, op := .none, activity := .idle, sweepContinuing := false } } := by
  have hend : ¬ (s.bdr.sweepContinuing && s.bdr.status == .running) = true := by
    rcases h with h | ⟨h, _⟩ <;> simp [h]
  have hnone : ¬ (s.bdr.pendingSweep && s.bdr.status == .running) = true := by
    rcases h with h | ⟨_, h⟩ <;> simp [h]
  exact (if_neg hrun).trans ((if_neg (Bool.eq_false_iff.mp hdue)).trans ((if_neg hend).trans (if_neg hnone)))

end ChooseNext

/-! ## Outcomes and codes (R37, R38, 12.3, 12.4) -/

theorem pushHistory_of_lt {history : List HistoryEntry} (e : HistoryEntry) (h : history.length < 32) :
    pushHistory history e = history ++ [e] := by
  have hkeep : history.length + 1 - 32 = 0 := by omega
  rw [pushHistory, hkeep, List.drop_zero]

theorem pushHistory_of_full {history : List HistoryEntry} (e : HistoryEntry) (h : history.length = 32) :
    pushHistory history e = history.tail ++ [e] := by
  cases history with
  | nil => cases h
  | cons first rest =>
    have hdrop : (first :: rest).length + 1 - 32 = 1 := by omega
    rw [pushHistory, hdrop]
    rfl

theorem OrderKind.ofCode_eq_some_iff (n : Nat) (kind : OrderKind) : OrderKind.ofCode n = some kind ↔ kind.code = n := by
  constructor
  · intro h
    unfold OrderKind.ofCode at h
    split at h <;> cases h <;> rfl
  · rintro rfl
    cases kind <;> rfl

/-- 12.3: the bits of the indicators byte. -/
theorem Indicators.byte_bits (i : Indicators) :
    (List.range 8).map i.byte.getLsbD = [i.limit, i.soft, i.late, i.pending, false, false, false, false] := by
  obtain ⟨limit, soft, late, pending⟩ := i
  cases limit <;> cases soft <;> cases late <;> cases pending <;> rfl

/-- Settles O10. -/
theorem outcomeWriteDone : Obligations.OutcomeWriteDone := by
  refine ⟨fun s o e hop he => ?_, fun s slot o hop => ?_, fun s order o hop => ?_, fun s => rfl,
    fun s => ⟨State.chooseNext_of_stopping, fun hrun => ⟨State.chooseNext_of_due hrun, fun hdue =>
      ⟨State.chooseNext_of_continuing hrun hdue, State.chooseNext_of_pending hrun hdue,
        State.chooseNext_of_rest hrun hdue⟩⟩⟩,
    fun history e => ⟨pushHistory_of_lt e, pushHistory_of_full e⟩,
    ⟨by decide, by decide, by decide, OrderKind.ofCode_eq_some_iff, Indicators.byte_bits⟩, fun s slot o => rfl⟩
  · change execOutcomeWriteDone s = _
    rw [execOutcomeWriteDone, hop, he]
    rfl
  · change execOutcomeWriteDone s = _
    rw [execOutcomeWriteDone, hop]
  · change execOutcomeWriteDone s = _
    rw [execOutcomeWriteDone, hop]
    rfl

/-! ## BDR's chainage and run status (R25, R34, R42) -/

theorem State.startDue_of_head {s : State} {o : Order} {rest : List Order} (h : s.bdr.staging = o :: rest) :
    s.startDue = State.beginExecution { s with bdr := { s.bdr with staging := rest } } o false := by
  rw [State.startDue, h]
  rfl

theorem State.stopStep_of_head {s : State} {o : Order} {rest : List Order} (h : s.bdr.staging = o :: rest) :
    let refusal : SlotOutcome := ⟨.refused, 0, ⟨false, false, false, false⟩, .stopped, s.bdr.chainageSeen, s.rif.runTime⟩
    s.stopStep = State.issueSlot { s with bdr := { s.bdr with
      staging := rest, activity := .executing, execution := none, op := .stopWrite o refusal } } o.slot refusal := by
  dsimp only
  rw [State.stopStep, h]
  rfl

theorem State.stopStep_of_nil {s : State} (h : s.bdr.staging = []) : s.stopStep = { s with
    bdr := { s.bdr with activity := .idle, execution := none, op := .none }, rif := { s.rif with boardQuiet := true } } := by
  rw [State.stopStep, h]
  simp [State.modBdr, State.modRif, h]

theorem exec_chainageReportAtBdr_of_first {s : State} {c : Word} {rest : List Waiting}
    (hfirst : s.FirstWaiting (fun h => ∃ x, h = .chainageToBdr x) (.chainageToBdr c) rest) :
    exec .chainageReportAtBdr s = .next
      (let v : State := { s with inbox := rest, bdr := { s.bdr with chainageSeen := c } }
       if v.bdr.runSeen = .running ∧ v.bdr.activity = .idle ∧ v.bdr.headDue = true then v.startDue else v) := by
  change execChainageReportAtBdr s = _
  rw [execChainageReportAtBdr, hfirst.take]
  · rfl
  · intro h; cases h <;> simp

theorem exec_runStatusAtBdr_of_first {s : State} {status : RunStatus} {rest : List Waiting}
    (hfirst : s.FirstWaiting (fun h => ∃ x, h = .runStatus .bdr x) (.runStatus .bdr status) rest) :
    exec .runStatusAtBdr s = .next (State.boardRun { s with inbox := rest } status) := by
  change execRunStatusAtBdr s = _
  rw [execRunStatusAtBdr, hfirst.take]
  intro h
  cases h with
  | runStatus f x => cases f <;> simp
  | _ => simp

/-- Settles O11. -/
theorem chainageAndRunStatusAtBdr : Obligations.ChainageAndRunStatusAtBdr := by
  refine fun s rest => ⟨fun c hfirst => ⟨fun hrun hidle hdue => ?_, fun h => ?_⟩,
    fun status hfirst => ⟨?_, ?_, ?_⟩, fun o rest hstaging => ⟨State.startDue_of_head hstaging, State.stopStep_of_head hstaging⟩,
    State.stopStep_of_nil⟩
  · exact (exec_chainageReportAtBdr_of_first hfirst).trans (congrArg Host.Outcome.next (if_pos ⟨hrun, hidle, hdue⟩))
  · refine (exec_chainageReportAtBdr_of_first hfirst).trans (congrArg Host.Outcome.next (if_neg ?_))
    rintro ⟨hrun, hidle, hdue⟩
    rcases h with h | h | h
    · exact h hrun
    · exact h hidle
    · exact Bool.false_ne_true (h.symm.trans hdue)
  · rintro rfl
    exact exec_runStatusAtBdr_of_first hfirst
  · rintro (rfl | rfl) <;> exact exec_runStatusAtBdr_of_first hfirst
  · rintro rfl
    exact exec_runStatusAtBdr_of_first hfirst

/-! ## WITHDRAW and the owners' answers (R36, R38, R40) -/

section Withdraw
variable {s : State} {o : Order} (ho : s.orderOf .withdraw = some o)
include ho

theorem exec_withdraw_of_range (h : o.operandA.toInt < 0 ∨ 65535 < o.operandA.toInt) :
    exec .withdraw s = .next (s.finishRefused .range) := by
  change execWithdraw s = _
  rw [execWithdraw, ho]
  exact congrArg Host.Outcome.next (if_pos h)

variable (hlow : 0 ≤ o.operandA.toInt) (hhigh : o.operandA.toInt ≤ 65535)
include hlow hhigh

theorem exec_withdraw_of_not_staged (h : s.bdr.staging.find? (fun e => e.stamp == o.operandA.truncate 16) = none) :
    exec .withdraw s = .next (s.finishRefused .notStaged) := by
  have hrange : ¬ (o.a < 0 ∨ 65535 < o.a) := by simp [Order.a, hlow, hhigh]
  change execWithdraw s = _
  rw [execWithdraw, ho]
  dsimp only
  rw [if_neg hrange, h]

theorem exec_withdraw_of_staged {e : Order}
    (h : s.bdr.staging.find? (fun e => e.stamp == o.operandA.truncate 16) = some e) :
    let out : SlotOutcome := ⟨.withdrawn, 0, ⟨false, false, false, false⟩, .none, s.bdr.chainageSeen, s.rif.runTime⟩
    exec .withdraw s = .next (State.issueSlot { s with bdr := { s.bdr with
      staging := s.bdr.staging.filter fun x => x.stamp != e.stamp
      op := .withdrawnWrite e out
      execution := s.bdr.execution.map fun x => { x with phase := .inFlight } } } e.slot out) := by
  have hrange : ¬ (o.a < 0 ∨ 65535 < o.a) := by simp [Order.a, hlow, hhigh]
  change execWithdraw s = _
  rw [execWithdraw, ho]
  dsimp only
  rw [if_neg hrange, h]
  rfl

end Withdraw

theorem exec_withdrawnWriteDone_of_op {s : State} {e : Order} {o : SlotOutcome} (hop : s.bdr.op = .withdrawnWrite e o) :
    exec .withdrawnWriteDone s = .next
      ((State.countOutcome { s.writeDone .board with bdr := { s.bdr with
        history := pushHistory s.bdr.history ⟨e.takeIndex, o.state⟩ } }).finishDone
        (BitVec.ofNat 32 e.slot) false false false) := by
  change execWithdrawnWriteDone s = _
  rw [execWithdrawnWriteDone, hop]
  rfl

theorem Bdr.lateNow_of_execution {b : Bdr} {e : Execution} (h : b.execution = some e) : b.lateNow = e.indicators.late := by
  rw [Bdr.lateNow, h]

/-- Settles O12. -/
theorem ordersEndAndAreWithdrawn : Obligations.OrdersEndAndAreWithdrawn := by
  refine ⟨⟨fun s o ho => ⟨exec_withdraw_of_range ho, fun hlow hhigh => ⟨exec_withdraw_of_not_staged ho hlow hhigh,
      fun e => exec_withdraw_of_staged ho hlow hhigh⟩⟩, fun s e o => exec_withdrawnWriteDone_of_op⟩,
    fun s e he => ⟨State.issueOutcome_eq he, fun result limit soft pending => ?_, fun reason => ?_⟩⟩
  · rw [State.finishDone, State.issueOutcome_eq he, Bdr.lateNow_of_execution he]
  · rw [State.finishRefused, State.issueOutcome_eq he, Bdr.lateNow_of_execution he]

end Sys2Proof.Machine

/-! PROOF. SET_STATE, CLEAR_SAFE, and what a change of machine state does (R2 to R5, R10, R13, R17, R21). -/
namespace Sys2Proof.Machine

/-! ## SET_STATE and CLEAR_SAFE -/

/-- R2: the table of transitions. -/
theorem transitionListed_iff (present target : MachineState) (pause : Option PauseCause) :
    transitionListed present pause target = true ↔
      (present, target) ∈ ([(.standby, .heatup), (.standby, .transit), (.heatup, .pave), (.transit, .pave),
        (.pave, .pause), (.pause, .pave), (.heatup, .transit), (.pave, .transit), (.pause, .transit),
        (.heatup, .standby), (.pave, .standby), (.pause, .standby), (.transit, .standby)] :
          List (MachineState × MachineState)) ∨
      present = .pause ∧ target = .pause ∧ pause = some .auto := by
  cases present <;> cases target <;> simp [transitionListed]

/-- R2: the pages a row of the table asks for. -/
theorem State.pagesReady_iff (s : State) (present target : MachineState) : s.pagesReady present target = true ↔
    (present = .standby ∧ target = .heatup → s.sps.zoneMap.valid = true) ∧
    ((present = .heatup ∨ present = .transit) ∧ target = .pave →
      s.sps.zoneMap.valid = true ∧ s.sps.headMap.valid = true ∧ s.sps.geometry.valid = true) := by
  cases present <;> cases target <;> simp [State.pagesReady, and_assoc]

section SetState
variable {s : State} {o : Order} (ho : s.orderOf .setState = some o) (halt : HaltLevel)
include ho

theorem exec_setState_of_badSubject (h : MachineState.ofCode o.subject.toNat = none) :
    exec (.setState halt) s = .next (s.finishRefused .badSubject) := by
  change execSetState halt s = _
  rw [execSetState, ho]
  dsimp only
  rw [h]

variable {target : MachineState} (htarget : MachineState.ofCode o.subject.toNat = some target)
include htarget

theorem exec_setState_of_reason {reason : Reason} (h : s.setStateCheck target halt = some reason) :
    exec (.setState halt) s = .next (s.finishRefused reason) := by
  change execSetState halt s = _
  rw [execSetState, ho]
  dsimp only
  rw [htarget]
  dsimp only
  rw [h]

theorem exec_setState_of_passed (h : s.setStateCheck target halt = none) :
    exec (.setState halt) s = .next
      ((s.setStateEffect target).finishDone (BitVec.ofNat 32 s.msc.state.code) false false false) := by
  change execSetState halt s = _
  rw [execSetState, ho]
  dsimp only
  rw [htarget]
  dsimp only
  rw [h]

end SetState

section ClearSafe
variable {s : State} {o : Order} (ho : s.orderOf .clearSafe = some o) (halt : HaltLevel)
include ho

theorem exec_clearSafe_of_reason {reason : Reason} (h : s.clearSafeCheck halt = some reason) :
    exec (.clearSafe halt) s = .next (s.finishRefused reason) := by
  change execClearSafe halt s = _
  rw [execClearSafe, ho]
  dsimp only
  rw [h]

theorem exec_clearSafe_of_passed (h : s.clearSafeCheck halt = none) :
    exec (.clearSafe halt) s = .next
      ((s.transition .standby none .order).finishDone (BitVec.ofNat 32 MachineState.safe.code) false false false) := by
  change execClearSafe halt s = _
  rw [execClearSafe, ho]
  dsimp only
  rw [h]

end ClearSafe

/-- Settles O13. -/
theorem setStateAndClearSafe : Obligations.SetStateAndClearSafe := by
  refine ⟨transitionListed_iff, fun s o halt ho => ⟨exec_setState_of_badSubject ho halt, fun target htarget => ?_⟩,
    fun s o halt ho => ?_⟩
  · have hrefused {reason : Reason} := exec_setState_of_reason ho halt htarget (reason := reason)
    have hpassed := exec_setState_of_passed ho halt htarget
    refine ⟨fun hstop => hrefused (if_pos hstop), fun hrun => ⟨fun hlisted => ?_, fun hlisted hhalted => ?_,
      fun hlisted hhalted hpages => ?_, fun hlisted hhalted hpages => ?_⟩⟩
    · exact hrefused ((if_neg hrun).trans (if_pos (by simp [hlisted])))
    · exact hrefused ((if_neg hrun).trans ((if_neg (by simp [hlisted])).trans (if_pos hhalted)))
    · rw [← State.pagesReady_iff, Bool.not_eq_true] at hpages
      exact hrefused ((if_neg hrun).trans ((if_neg (by simp [hlisted])).trans ((if_neg hhalted).trans
        (if_pos (by simp [hpages])))))
    · rw [← State.pagesReady_iff] at hpages
      have hcheck : s.setStateCheck target halt = none :=
        (if_neg hrun).trans ((if_neg (by simp [hlisted])).trans ((if_neg hhalted).trans (if_neg (by simp [hpages]))))
      refine ⟨fun hpresent htarget => ?_, fun h => ?_⟩
      · rw [hpassed hcheck, hpresent]
        exact congrArg (fun t : State => Host.Outcome.next (t.finishDone 3 false false false))
          (if_pos ⟨hpresent, htarget⟩)
      · rw [hpassed hcheck]
        exact congrArg (fun t : State => Host.Outcome.next
          (t.finishDone (BitVec.ofNat 32 s.msc.state.code) false false false))
          (if_neg fun ⟨hpresent, htarget⟩ => h.elim (· hpresent) (· htarget))
  · have hrefused {reason : Reason} := exec_clearSafe_of_reason ho halt (reason := reason)
    refine ⟨fun hstop => hrefused (if_pos hstop), fun hrun => ⟨fun hstate => hrefused ((if_neg hrun).trans (if_pos hstate)),
      fun hstate => ⟨fun hhalt => ?_, fun hseen hlevel => ?_⟩⟩⟩
    · exact hrefused ((if_neg hrun).trans ((if_neg (not_not.mpr hstate)).trans (if_pos hhalt)))
    · exact exec_clearSafe_of_passed ho halt ((if_neg hrun).trans ((if_neg (not_not.mpr hstate)).trans
        (if_neg (by simp [hseen, hlevel]))))

/-! ## Transitions (R4, R5, R10, R17, R21) -/

/-- R5: the state of a transition with its hand-offs made, before the note. -/
theorem State.handed_eq (s : State) (m : Msc) (entry : Bool) (hands : List Handoff) :
    (if entry then (s.modMsc fun _ => m).hand .paveEntry else s.modMsc fun _ => m).handAll entry hands = { s with
      msc := m
      inbox := s.inbox ++ (if entry then [⟨false, .paveEntry⟩] else []) ++ hands.map (Waiting.mk entry) } := by
  cases entry
  · simp [State.handAll, State.modMsc, State.modInbox]
  · simp [State.handAll, State.hand, State.modMsc, State.modInbox]

theorem isPaveEntry_eq (old target : MachineState) :
    isPaveEntry old target = decide (target = .pave ∧ (old = .heatup ∨ old = .transit)) := by
  simp only [isPaveEntry, beq_eq_decide, Bool.decide_and, Bool.decide_or]

/-- R4, R7: the machine state controller after a transition, field by field. -/
theorem State.movedMsc_eq (s : State) (target : MachineState) (pause : Option PauseCause) :
    s.movedMsc target pause = { s.msc with
      state := target, pauseCause := pause
      autoPause := if target = .pave ∧ s.msc.travelSeen = .live then
        some (s.rif.runTime + BitVec.ofNat 32 (s.settingNat Setting.pauseDelay)) else none
      sideEffective :=
        ⟨effectiveSide s.msc.sideRequested.left target s.lvc.sides.left.status,
         effectiveSide s.msc.sideRequested.right target s.lvc.sides.right.status⟩
      feedEffective := s.msc.feedRequested.map fun r => effectiveFeed r target s.msc.travelSeen
      heating := effectiveHeating target
      records := effectiveRecords target } := by
  rw [ite_and]
  rfl

/-- R10: in SAFE every effective mode is OFF. -/
theorem safe_modes_off (left right : SideMode) (l r : ReferenceStatus) (feeds : Vector FeedMode 4) (travel : TravelStatus) :
    (⟨effectiveSide left .safe l, effectiveSide right .safe r⟩ : PerSide SideMode) = ⟨.off, .off⟩ ∧
    (feeds.map fun f => effectiveFeed f .safe travel) = Vector.replicate 4 .off := by
  have hfeed (f : FeedMode) : effectiveFeed f .safe travel = .off := by cases f <;> rfl
  refine ⟨by cases left <;> cases right <;> rfl, ?_⟩
  ext i hi
  simp [hfeed]

section ModeHands
variable (old new : Msc)

theorem sideMode_mem_modeHands (side : Side) (mode : SideMode) : Handoff.sideMode side mode ∈ modeHands old new ↔
    old.sideEffective.get side ≠ mode ∧ new.sideEffective.get side = mode := by
  cases side <;> simp [modeHands, sideHands, pauseCarries, PerSide.get] <;> grind

theorem sideModeToHlc_mem_modeHands (side : Side) (mode : SideMode) : Handoff.sideModeToHlc side mode ∈ modeHands old new ↔
    old.sideEffective.get side ≠ mode ∧ new.sideEffective.get side = mode := by
  cases side <;> simp [modeHands, sideHands, pauseCarries, PerSide.get] <;> grind

theorem feedMode_mem_modeHands (c : Fin 4) (mode : FeedMode) : Handoff.feedMode c mode ∈ modeHands old new ↔
    old.feedEffective[c] ≠ mode ∧ new.feedEffective[c] = mode := by
  fin_cases c <;> simp [modeHands, sideHands, pauseCarries] <;> grind

theorem heatingLevel_mem_modeHands (level : HeatLevel) : Handoff.heatingLevel level ∈ modeHands old new ↔
    old.heating ≠ level ∧ new.heating = level := by
  simp [modeHands, sideHands, pauseCarries]
  grind

/-- R21: a change to or from STOPMARK makes no hand-off of its own to MRU. -/
theorem recordsMode_mem_modeHands (mode : RecordsMode) : Handoff.recordsMode mode ∈ modeHands old new ↔
    old.records ≠ mode ∧ new.records = mode ∧ old.records ≠ .stopmark ∧ mode ≠ .stopmark := by
  simp [modeHands, sideHands, pauseCarries]
  grind

theorem recordsModeToHlc_mem_modeHands (mode : RecordsMode) : Handoff.recordsModeToHlc mode ∈ modeHands old new ↔
    old.records ≠ mode ∧ new.records = mode := by
  simp [modeHands, sideHands, pauseCarries]
  grind

end ModeHands

/-- R4, R5: the state of a transition before its note: the machine state controller moved and the hand-offs made. -/
def State.moved (s : State) (target : MachineState) (pause : Option PauseCause) : State :=
  let entry := decide (target = .pave ∧ (s.msc.state = .heatup ∨ s.msc.state = .transit))
  { s with
    msc := s.movedMsc target pause
    inbox := s.inbox ++ (if entry then [⟨false, .paveEntry⟩] else []) ++
      (transitionHands s.msc (s.movedMsc target pause)).map (Waiting.mk entry) }

/-- R4: a transition, in its order (log 11). -/
theorem State.transition_eq (s : State) (target : MachineState) (pause : Option PauseCause) (cause : ChangeCause) :
    s.transition target pause cause =
      let noted := (s.moved target pause).postNote .stateChanged target.code
        (BitVec.ofNat 32 (s.msc.state.code + 256 * changeCode cause))
      State.requestRewrite (if target = .safe then noted.setCause .safe else noted) := by
  have hmoved := s.handed_eq (s.movedMsc target pause) (isPaveEntry s.msc.state target)
    (transitionHands s.msc (s.movedMsc target pause))
  rw [isPaveEntry_eq] at hmoved
  unfold State.transition
  dsimp only
  rw [isPaveEntry_eq, hmoved]
  rfl

/-- Settles O14. -/
theorem transitionWritesStateAndHandsOn : Obligations.TransitionWritesStateAndHandsOn := by
  refine ⟨fun s target pause cause => ?_, fun old new => ⟨fun side mode => ⟨sideMode_mem_modeHands old new side mode,
    sideModeToHlc_mem_modeHands old new side mode⟩, feedMode_mem_modeHands old new, heatingLevel_mem_modeHands old new,
    fun mode => ⟨recordsMode_mem_modeHands old new mode, recordsModeToHlc_mem_modeHands old new mode⟩⟩⟩
  have htransition := s.transition_eq target pause cause
  simp only [State.moved, State.movedMsc_eq] at htransition
  refine ⟨fun hsafe => ?_, fun hsafe => ⟨?_, ?_⟩⟩
  · rw [if_neg hsafe] at htransition
    exact htransition
  · rw [if_pos hsafe] at htransition
    exact htransition
  · subst hsafe
    obtain ⟨hsides, hfeeds⟩ := safe_modes_off s.msc.sideRequested.left s.msc.sideRequested.right s.lvc.sides.left.status
      s.lvc.sides.right.status s.msc.feedRequested s.msc.travelSeen
    exact ⟨hsides, hfeeds, rfl, rfl⟩

end Sys2Proof.Machine

/-! PROOF. HALT, the auto-pause, and the reports and run status that reach MSC (R7 to R9, R11, R14, R17). -/
namespace Sys2Proof.Machine

/-! ## HALT (R11) -/

theorem Msc.acting_iff (m : Msc) : m.acting = true ↔ m.runSeen = .running ∨ m.runSeen = .stopping := by
  simp [Msc.acting]

/-- R11, R170: the rewrite that shows a change of the HALT level. -/
theorem State.showHalt_eq (s t : State) (level : HaltLevel) (hrif : t.rif.runStatus = s.rif.runStatus) :
    (if (decide (s.msc.haltSeen ≠ level) && t.rif.counting) = true then t.requestRewrite else t) =
      if s.msc.haltSeen ≠ level ∧ (s.rif.runStatus = .running ∨ s.rif.runStatus = .stopping) then t.requestRewrite else t := by
  have hiff : (decide (s.msc.haltSeen ≠ level) && t.rif.counting) = true ↔
      s.msc.haltSeen ≠ level ∧ (s.rif.runStatus = .running ∨ s.rif.runStatus = .stopping) := by
    rw [Bool.and_eq_true, decide_eq_true_eq, Rif.counting_iff, hrif]
  simp only [hiff]

theorem State.requestRewrite_runStatus (s : State) : s.requestRewrite.rif.runStatus = s.rif.runStatus := by
  rw [State.requestRewrite_rif]

theorem Rif.startNote_runStatus (r : Rif) : r.startNote.runStatus = r.runStatus := by
  unfold Rif.startNote
  split <;> rfl

theorem State.postNote_runStatus (s : State) (kind : NoteKind) (subject : Nat) (value : Word) :
    (s.postNote kind subject value).rif.runStatus = s.rif.runStatus := by
  unfold State.postNote
  split
  next =>
    split
    next => exact Rif.startNote_runStatus _
    next => exact State.requestRewrite_runStatus _
  next => rfl

theorem State.transition_runStatus (s : State) (target : MachineState) (pause : Option PauseCause) (cause : ChangeCause) :
    (s.transition target pause cause).rif.runStatus = s.rif.runStatus := by
  rw [State.transition_eq]
  dsimp only
  rw [State.requestRewrite_runStatus]
  split
  next => exact State.postNote_runStatus _ _ _ _
  next => exact State.postNote_runStatus _ _ _ _

/-- R11: an assertion of HALT taken, before the summary shows it. -/
def State.haltTaken (s : State) : State :=
  let s := s.modMsc fun m => { m with haltSeen := .asserted }
  if s.msc.acting then
    let s := s.postNote .halt 0 1
    if s.msc.state = .safe then s else s.transition .safe none .halt
  else s

theorem State.haltTaken_runStatus (s : State) : s.haltTaken.rif.runStatus = s.rif.runStatus := by
  unfold State.haltTaken
  dsimp only
  split
  next =>
    split
    next => exact State.postNote_runStatus _ _ _ _
    next => exact (State.transition_runStatus _ _ _ _).trans (State.postNote_runStatus _ _ _ _)
  next => rfl

/-- R11, R170: an assertion of HALT, with the rewrite that shows a change of the level. -/
theorem State.assertHalt_eq (s : State) :
    s.assertHalt = if s.msc.haltSeen ≠ .asserted ∧ (s.rif.runStatus = .running ∨ s.rif.runStatus = .stopping) then
      s.haltTaken.requestRewrite else s.haltTaken :=
  State.showHalt_eq s s.haltTaken .asserted s.haltTaken_runStatus

section Halt
variable {s : State}

theorem State.haltTaken_of_not_safe (hacting : s.msc.acting = true) (hstate : s.msc.state ≠ .safe) :
    s.haltTaken = (State.postNote { s with msc := { s.msc with haltSeen := .asserted } } .halt 0 1).transition .safe none
      .halt :=
  (if_pos hacting).trans (if_neg (by simpa using hstate))

theorem State.haltTaken_of_safe (hacting : s.msc.acting = true) (hstate : s.msc.state = .safe) :
    s.haltTaken = State.postNote { s with msc := { s.msc with haltSeen := .asserted } } .halt 0 1 :=
  (if_pos hacting).trans (if_pos (by simpa using hstate))

theorem State.haltTaken_of_idle (hacting : ¬ s.msc.acting = true) :
    s.haltTaken = { s with msc := { s.msc with haltSeen := .asserted } } := if_neg hacting

end Halt

/-- R11: a release of HALT taken, before the summary shows it. -/
def State.releaseTaken (s : State) : State :=
  let s := s.modMsc fun m => { m with haltSeen := .released }
  if s.msc.acting then s.postNote .halt 0 0 else s

theorem State.releaseTaken_runStatus (s : State) : s.releaseTaken.rif.runStatus = s.rif.runStatus := by
  unfold State.releaseTaken
  dsimp only
  split
  next => exact State.postNote_runStatus _ _ _ _
  next => rfl

/-- R11, R170: a release of HALT, with the rewrite that shows a change of the level. -/
theorem exec_haltReleased (s : State) : exec .haltReleased s = .next
    (if s.msc.haltSeen ≠ .released ∧ (s.rif.runStatus = .running ∨ s.rif.runStatus = .stopping) then
      s.releaseTaken.requestRewrite else s.releaseTaken) :=
  congrArg Host.Outcome.next (State.showHalt_eq s s.releaseTaken .released s.releaseTaken_runStatus)

/-! ## The auto-pause (R7 to R9) -/

theorem exec_autoPauseTimerExpiry_of_timer {s : State} {expiry : Word} (h : s.msc.autoPause = some expiry) :
    exec .autoPauseTimerExpiry s = .next
      (let u : State := { s.runTo expiry with msc := { s.msc with autoPause := none } }
       if s.msc.state = .pave ∧ s.msc.travelSeen = .live then u.transition .pause (some .auto) .autoPause else u) := by
  change execAutoPauseTimerExpiry s = _
  rw [execAutoPauseTimerExpiry, h]
  rfl

theorem exec_chainageAdvanceAtMsc_of_first {s : State} {rest : List Waiting}
    (hfirst : s.FirstWaiting (fun h => h = .advanceToMsc) .advanceToMsc rest) :
    exec .chainageAdvanceAtMsc s = .next
      (let u : State := { s with inbox := rest }
       if s.msc.state = .pave then { u with msc := { s.msc with autoPause := u.autoPauseStart } }
       else if s.msc.state = .pause ∧ s.msc.pauseCause = some .auto then u.transition .pave none .autoResume
       else u) := by
  change execChainageAdvanceAtMsc s = _
  rw [execChainageAdvanceAtMsc, hfirst.take]
  · rfl
  · intro h; cases h <;> simp

/-- Settles O16. -/
theorem haltAndAutoPause : Obligations.HaltAndAutoPause := by
  refine ⟨fun s => ?_, fun s expiry h => ⟨fun hstate htravel => ?_, fun h' => ?_⟩,
    fun s rest hfirst => ⟨fun hstate => ?_, fun hstate hcause => ?_, fun hstate h => ?_⟩⟩
  · have hassert {t : State} (ht : s.haltTaken = t) : exec .haltAsserted s = .next
        (if s.msc.haltSeen ≠ .asserted ∧ (s.rif.runStatus = .running ∨ s.rif.runStatus = .stopping) then
          t.requestRewrite else t) := ht ▸ congrArg Host.Outcome.next s.assertHalt_eq
    have hrelease {t : State} (ht : s.releaseTaken = t) : exec .haltReleased s = .next
        (if s.msc.haltSeen ≠ .released ∧ (s.rif.runStatus = .running ∨ s.rif.runStatus = .stopping) then
          t.requestRewrite else t) := ht ▸ exec_haltReleased s
    dsimp only
    rw [← Msc.acting_iff]
    exact ⟨fun hacting hstate => hassert (State.haltTaken_of_not_safe hacting hstate),
      fun hacting hstate => hassert (State.haltTaken_of_safe hacting hstate), fun hacting => hrelease (if_pos hacting),
      fun hacting => ⟨hassert (State.haltTaken_of_idle hacting), hrelease (if_neg hacting)⟩⟩
  · exact (exec_autoPauseTimerExpiry_of_timer h).trans (congrArg Host.Outcome.next (if_pos ⟨hstate, htravel⟩))
  · refine (exec_autoPauseTimerExpiry_of_timer h).trans (congrArg Host.Outcome.next (if_neg ?_))
    exact fun ⟨hstate, htravel⟩ => h'.elim (· hstate) (· htravel)
  · exact (exec_chainageAdvanceAtMsc_of_first hfirst).trans (congrArg Host.Outcome.next (if_pos hstate))
  · refine (exec_chainageAdvanceAtMsc_of_first hfirst).trans (congrArg Host.Outcome.next ?_)
    exact (if_neg (by simp [hstate])).trans (if_pos ⟨hstate, hcause⟩)
  · refine (exec_chainageAdvanceAtMsc_of_first hfirst).trans (congrArg Host.Outcome.next ?_)
    exact (if_neg hstate).trans (if_neg fun ⟨hpause, hcause⟩ => h.elim (· hpause) (· hcause))

/-! ## Reports and the run status (R1, R7, R14, R17) -/

theorem exec_travelStatusAtMsc_of_first {s : State} {status : TravelStatus} {rest : List Waiting}
    (hfirst : s.FirstWaiting (fun h => ∃ x, h = .travelToMsc x) (.travelToMsc status) rest) :
    exec .travelStatusAtMsc s = .next (State.recomputeAndShow
      (State.travelTimerMove { s with inbox := rest, msc := { s.msc with travelSeen := status } })) := by
  change execTravelStatusAtMsc s = _
  rw [execTravelStatusAtMsc, hfirst.take]
  · rfl
  · intro h; cases h <;> simp

theorem exec_referenceStatusAtMsc_of_first {s : State} {side : Side} {rest : List Waiting}
    (hfirst : s.FirstWaiting (fun h => ∃ x, h = .referenceToMsc x) (.referenceToMsc side) rest) :
    exec .referenceStatusAtMsc s = .next (State.recomputeAndShow { s with inbox := rest }) := by
  change execReferenceStatusAtMsc s = _
  rw [execReferenceStatusAtMsc, hfirst.take]
  intro h; cases h <;> simp

theorem exec_runStatusAtMsc_of_first {s : State} {status : RunStatus} (halt : HaltLevel) {rest : List Waiting}
    (hfirst : s.FirstWaiting (fun h => ∃ x, h = .runStatus .msc x) (.runStatus .msc status) rest) :
    exec (.runStatusAtMsc halt) s = .next (State.modeRun { s with inbox := rest } status halt) := by
  change execRunStatusAtMsc halt s = _
  rw [execRunStatusAtMsc, hfirst.take]
  intro h
  cases h with
  | runStatus f x => cases f <;> simp
  | _ => simp

/-- R7: the auto-pause timer at a report of the travel status. -/
theorem State.travelTimerMove_eq (s : State) : s.travelTimerMove = { s with msc := { s.msc with
    autoPause := if s.msc.state = .pave then
        if s.msc.travelSeen = .live then some (s.rif.runTime + BitVec.ofNat 32 (s.settingNat Setting.pauseDelay)) else none
      else s.msc.autoPause } } := by
  unfold State.travelTimerMove
  split <;> rfl

/-- Settles O17. -/
theorem reportsAndRunStatusAtMsc : Obligations.ReportsAndRunStatusAtMsc := by
  refine fun s rest => ⟨fun status hfirst => ?_, fun side hfirst => exec_referenceStatusAtMsc_of_first hfirst,
    fun t => ⟨fun h => if_pos h, fun h => if_neg (Bool.eq_false_iff.mp h)⟩, fun status halt hfirst => ?_⟩
  · rw [exec_travelStatusAtMsc_of_first hfirst, State.travelTimerMove_eq]
    rfl
  · have hexec := exec_runStatusAtMsc_of_first halt hfirst
    refine ⟨?_, ?_, ?_, ?_, ?_⟩
    · rintro (rfl | ⟨rfl, rfl⟩) <;> exact hexec
    · rintro rfl rfl
      exact ⟨_, rfl, hexec⟩
    · rintro rfl h
      exact hexec.trans (congrArg Host.Outcome.next (if_pos h))
    · rintro rfl hstandby hsafe
      exact hexec.trans (congrArg Host.Outcome.next (if_neg fun h => h.elim hstandby hsafe))
    · rintro rfl
      exact hexec

end Sys2Proof.Machine

/-! PROOF. SET_SIDE and SET_FEED (R15, R16, R107, R108, R152). -/
namespace Sys2Proof.Machine

/-! ## SET_SIDE -/

theorem sideModeOf_of_mem {a : Int} {mode : SideMode}
    (h : (a, mode) ∈ ([(0, .off), (1, .manual), (2, .auto)] : List (Int × SideMode))) : sideModeOf a = some mode := by
  simp only [List.mem_cons, Prod.mk.injEq, List.not_mem_nil, or_false] at h
  rcases h with ⟨rfl, rfl⟩ | ⟨rfl, rfl⟩ | ⟨rfl, rfl⟩ <;> rfl

theorem referenceOf_of_mem {b : Nat} {kind : ReferenceKind}
    (h : (b, kind) ∈ ([(0, .grade), (1, .slope)] : List (Nat × ReferenceKind))) : referenceOf b = some kind := by
  simp only [List.mem_cons, Prod.mk.injEq, List.not_mem_nil, or_false] at h
  rcases h with ⟨rfl, rfl⟩ | ⟨rfl, rfl⟩ <;> rfl

theorem sideModeOf_eq_none {a : Int} (h : a < 0 ∨ 2 < a) : sideModeOf a = none := by
  unfold sideModeOf
  rw [if_neg (by omega), if_neg (by omega), if_neg (by omega)]

theorem referenceOf_eq_none {b : Nat} (h : 1 < b) : referenceOf b = none := by
  unfold referenceOf
  split <;> first | omega | rfl

section SetSide
variable {s : State} {o : Order} (ho : s.orderOf .setSide = some o)
include ho

theorem exec_setSide_of_range (h : o.operandA.toInt < 0 ∨ 2 < o.operandA.toInt ∨ 1 < o.operandB.toNat) :
    exec .setSide s = .next (s.finishRefused .range) := by
  have hnone : sideModeOf o.a = none ∨ referenceOf o.b = none := by
    rcases h with h | h | h
    · exact .inl (sideModeOf_eq_none (.inl h))
    · exact .inl (sideModeOf_eq_none (.inr h))
    · exact .inr (referenceOf_eq_none h)
  change execSetSide s = _
  rw [execSetSide, ho]
  dsimp only
  split
  next hmode hkind => rcases hnone with h | h <;> simp_all
  next => rfl

variable {mode : SideMode} {kind : ReferenceKind} (hmode : sideModeOf o.a = some mode) (hkind : referenceOf o.b = some kind)
include hmode hkind

theorem exec_setSide_of_ok :
    exec .setSide s = .next
      (if kind = .slope ∧ (s.sideRecord (otherSide o.side)).kind = .slope then s.finishRefused .slopeTaken
       else
        let u := (s.setReference o.side kind).requestSide o.side mode
        let effective := u.msc.sideEffective.get o.side
        u.finishDone (BitVec.ofNat 32 effective.code) false (decide (effective ≠ mode)) false) := by
  change execSetSide s = _
  rw [execSetSide, ho]
  dsimp only
  rw [hmode, hkind]

end SetSide

section SetReference
variable {s : State} {side : Side} {kind : ReferenceKind}

theorem State.setReference_of_ne (h : (s.lvc.sides.get side).kind ≠ kind) :
    let r := s.lvc.sides.get side
    s.setReference side kind = State.settleMembers { s with lvc := { s.lvc with sides := s.lvc.sides.set side { r with
      kind := kind, valve := .idle, pulseEnd := none, waiting := none, lastAverage := none, inUse := [], rebase := 0
      collections := [], roundBar := s.lvc.highestRound } } } side :=
  congrArg (fun t : State => t.settleMembers side) (if_pos h)

theorem State.setReference_of_lost (h : (s.lvc.sides.get side).kind = kind)
    (hstatus : (s.lvc.sides.get side).status = .lost) :
    let r := s.lvc.sides.get side
    s.setReference side kind = State.settleMembers { s with lvc := { s.lvc with
      sides := s.lvc.sides.set side { r with lastAverage := none, inUse := [], rebase := 0 } } } side :=
  congrArg (fun t : State => t.settleMembers side) ((if_neg (not_not.mpr h)).trans (if_pos hstatus))

theorem State.setReference_of_ok (h : (s.lvc.sides.get side).kind = kind) (hstatus : (s.lvc.sides.get side).status = .ok) :
    s.setReference side kind = s.settleMembers side :=
  congrArg (fun t : State => t.settleMembers side)
    ((if_neg (not_not.mpr h)).trans (if_neg fun hlost : (s.lvc.sides.get side).status = .lost =>
      nomatch hlost.symm.trans hstatus))

/-- R116: the reference status changes: noted and reported. -/
theorem State.settleReference_of_ne {status : ReferenceStatus} (value : Nat) (h : (s.lvc.sides.get side).status ≠ status) :
    s.settleReference side status value = State.hand (State.postNote
      { s with lvc := { s.lvc with sides := s.lvc.sides.set side { s.lvc.sides.get side with status := status } } }
      (if status = .lost then .sideHold else .sideRestored) (sideCode side) (BitVec.ofNat 32 value))
      (.referenceToMsc side) := if_neg h

theorem State.settleReference_of_eq {status : ReferenceStatus} (value : Nat) (h : (s.lvc.sides.get side).status = status) :
    s.settleReference side status value = s := if_pos h

theorem State.settleMembers_of_settled (h : s.lvc.members side ≠ [] ∨ (s.lvc.sides.get side).status = .lost) :
    s.settleMembers side = s := by
  unfold State.settleMembers
  split
  next hnone => exact State.settleReference_of_eq 0 (h.resolve_left (not_not.mpr hnone))
  next => rfl

theorem State.settleMembers_of_none (hnone : s.lvc.members side = []) (hstatus : (s.lvc.sides.get side).status = .ok) :
    s.settleMembers side = State.hand (State.postNote
      { s with lvc := { s.lvc with sides := s.lvc.sides.set side { s.lvc.sides.get side with status := .lost } } }
      .sideHold (sideCode side) 0) (.referenceToMsc side) :=
  (if_pos hnone).trans (State.settleReference_of_ne 0 fun h => nomatch h.symm.trans hstatus)

end SetReference

/-! ## SET_FEED -/

theorem feedModeOf_of_mem {b : Nat} {mode : FeedMode}
    (h : (b, mode) ∈ ([(0, .off), (1, .manual), (2, .autoLevel), (3, .autoFlow)] : List (Nat × FeedMode))) :
    feedModeOf b = some mode := by
  simp only [List.mem_cons, Prod.mk.injEq, List.not_mem_nil, or_false] at h
  rcases h with ⟨rfl, rfl⟩ | ⟨rfl, rfl⟩ | ⟨rfl, rfl⟩ | ⟨rfl, rfl⟩ <;> rfl

theorem feedModeOf_eq_none {b : Nat} (h : 3 < b) : feedModeOf b = none := by
  unfold feedModeOf
  split <;> first | omega | rfl

section SetFeed
variable {s : State} {o : Order} (ho : s.orderOf .setFeed = some o)
include ho

theorem exec_setFeed_of_range (h : 3 < o.operandB.toNat) : exec .setFeed s = .next (s.finishRefused .range) := by
  change execSetFeed s = _
  rw [execSetFeed, ho]
  dsimp only
  rw [Order.b, feedModeOf_eq_none h]

variable {mode : FeedMode} (hmode : feedModeOf o.b = some mode)
include hmode

theorem exec_setFeed_of_strict (hstrict : o.strict = true) (hclamp : clamp 0 1000 o.operandA.toInt ≠ o.operandA.toInt) :
    exec .setFeed s = .next (s.finishRefused .range) := by
  change execSetFeed s = _
  rw [execSetFeed, ho]
  dsimp only
  rw [hmode]
  exact congrArg Host.Outcome.next (if_pos ⟨hstrict, hclamp⟩)

theorem exec_setFeed_of_ok (h : o.strict = false ∨ clamp 0 1000 o.operandA.toInt = o.operandA.toInt) :
    exec .setFeed s = .next
      (let demand := clamp 0 1000 o.operandA.toInt
       let u := (s.requestFeed o.channel mode).storeManual o.channel demand.toNat
       let effective := u.msc.feedEffective[o.channel]
       u.finishDone (BitVec.ofNat 32 effective.code) (decide (demand ≠ o.operandA.toInt)) (decide (effective ≠ mode)) false) := by
  change execSetFeed s = _
  rw [execSetFeed, ho]
  dsimp only
  rw [hmode]
  refine congrArg Host.Outcome.next (if_neg fun ⟨hstrict, hclamp⟩ => ?_)
  exact h.elim (fun h => by simp [h] at hstrict) hclamp

end SetFeed

/-- What R152 asks of a channel that MANUAL drives: a demand of its own, and nothing that holds it at 0. -/
structure Channel.Driven (r : Channel) (demand : Nat) : Prop where
  manual  : r.manual = demand
  mode    : r.modeSeen = .manual
  run     : r.run = .running
  coupled : r.coupled = false

/-- R149: what a recompute changes of a channel. -/
theorem State.recomputeDemand_channel (s : State) (c : Fin 4) :
    ∃ timer, (s.recomputeDemand c).fdc.channels[c] =
      { s.fdc.channels[c] with demand := s.demandOf c s.fdc.channels[c], stallTimer := timer } := by
  refine ⟨((s.recomputeDemand c).fdc.channels[c]).stallTimer, ?_⟩
  simp [State.recomputeDemand, State.settleStall, State.modChannel, State.channel]

theorem State.demandOf_driven {s : State} {c : Fin 4} {r : Channel} {demand : Nat} (h : r.Driven demand) :
    s.demandOf c r = demand := by
  simp [State.demandOf, State.modeDemand, h.coupled, h.run, h.mode, h.manual]

theorem Channel.Driven.recomputed {s : State} {c : Fin 4} {demand : Nat} (h : (s.fdc.channels[c]).Driven demand) :
    ((s.recomputeDemand c).fdc.channels[c]).Driven demand ∧ ((s.recomputeDemand c).fdc.channels[c]).demand = demand := by
  obtain ⟨timer, heq⟩ := s.recomputeDemand_channel c
  rw [heq]
  exact ⟨⟨h.manual, h.mode, h.run, h.coupled⟩, State.demandOf_driven h⟩

/-- R143: MANUAL taken drives a channel that is not JAMMED. -/
theorem State.takeFeedMode_driven {s : State} {c : Fin 4} {demand : Nat} (hmanual : s.fdc.channels[c].manual = demand)
    (hrun : s.fdc.channels[c].run ≠ .jammed) (hcoupled : s.fdc.channels[c].coupled = false) :
    ((s.takeFeedMode c .manual).fdc.channels[c]).Driven demand := by
  refine (Channel.Driven.recomputed (s := s.modChannel c fun r => r.takeMode .manual
    (s.now + BitVec.ofNat 32 s.fdc.sensePeriod)) ?_).1
  have hset : (s.modChannel c fun r => r.takeMode .manual (s.now + BitVec.ofNat 32 s.fdc.sensePeriod)).fdc.channels[c] =
      (s.fdc.channels[c]).takeMode .manual (s.now + BitVec.ofNat 32 s.fdc.sensePeriod) := by
    simp [State.modChannel]
  rw [hset]
  have hmoved : ((s.fdc.channels[c]).stopSensing.moveRun .running).run = .running ∧
      ((s.fdc.channels[c]).stopSensing.moveRun .running).manual = s.fdc.channels[c].manual ∧
      ((s.fdc.channels[c]).stopSensing.moveRun .running).coupled = s.fdc.channels[c].coupled := by
    unfold Channel.moveRun Channel.setRun
    rw [if_neg (by exact hrun)]
    split
    next hrunning => exact ⟨hrunning, rfl, rfl⟩
    next => exact ⟨rfl, rfl, rfl⟩
  obtain ⟨hrun', hmanual', hcoupled'⟩ := hmoved
  exact ⟨hmanual'.trans hmanual, rfl, hrun', hcoupled'.trans hcoupled⟩

theorem List.mem_of_mem_append_cons {α : Type} {x w : α} {pre post : List α} (h : x ∈ pre ++ post) :
    x ∈ pre ++ w :: post := by
  rcases List.mem_append.mp h with h | h <;> simp [h]

/-- Every mode that waits for a channel is MANUAL and may be taken. -/
def State.onlyManual (s : State) (c : Fin 4) : Prop :=
  ∀ w ∈ s.inbox, ∀ mode, w.handoff = .feedMode c mode → w = ⟨false, .feedMode c .manual⟩

theorem State.takeFeedModes_driven {s : State} {c : Fin 4} {demand : Nat} (honly : s.onlyManual c)
    (h : (s.fdc.channels[c]).Driven demand) (n : Nat) : ((s.takeFeedModes c n).fdc.channels[c]).Driven demand := by
  induction n generalizing s with
  | zero => exact h
  | succ n ih =>
    cases htake : s.take (Handoff.feedOf c) with
    | none => rwa [State.takeFeedModes, htake]
    | some taken =>
      obtain ⟨x, t⟩ := taken
      obtain ⟨hchannel, _, pre, w, post, hinbox, hrest, hw, _⟩ := State.take_spec htake
      obtain ⟨mode, rfl⟩ := (Handoff.feedOf_iff c x).mp hchannel
      have hfdc : t.fdc = s.fdc := by simp [State.take_frame htake]
      have hmanual : w = ⟨false, .feedMode c .manual⟩ := honly w (by simp [hinbox]) mode hw
      obtain rfl : mode = .manual := by
        rw [hmanual] at hw
        cases hw; rfl
      rw [State.takeFeedModes, htake]
      refine ih (fun x hx => honly x ?_) ?_
      · have hx : x ∈ pre ++ post := by simpa [State.takeFeedMode, hrest] using hx
        rw [hinbox]
        exact List.mem_of_mem_append_cons hx
      · rw [← hfdc] at h
        exact State.takeFeedMode_driven h.manual (fun hjam => nomatch h.run.symm.trans hjam) h.coupled

/-- R143, R152: the modes that wait taken, MANUAL among them. -/
theorem State.takeFeedModes_manual {s : State} {c : Fin 4} {demand : Nat} (honly : s.onlyManual c)
    (hwaits : ⟨false, .feedMode c .manual⟩ ∈ s.inbox) (hmanual : s.fdc.channels[c].manual = demand)
    (hrun : s.fdc.channels[c].run ≠ .jammed) (hcoupled : s.fdc.channels[c].coupled = false) :
    ((s.takeFeedModes c s.inbox.length).fdc.channels[c]).Driven demand := by
  obtain ⟨pre, post, hinbox, hpre⟩ := List.eq_append_cons_of_mem hwaits
  have hfirst : s.FirstWaiting (fun h => ∃ x, h = .feedMode c x) (.feedMode c .manual) (pre ++ post) := by
    refine ⟨pre, false, post, hinbox, rfl, ⟨_, rfl⟩, fun x hx ⟨mode, hmode⟩ => hpre ?_, fun h => nomatch h⟩
    exact honly x (by simp [hinbox, hx]) mode hmode ▸ hx
  have hlength : s.inbox.length = (pre ++ post).length + 1 := by simp [hinbox]; omega
  rw [hlength, State.takeFeedModes_first hfirst]
  refine State.takeFeedModes_driven (s := State.takeFeedMode { s with inbox := pre ++ post } c .manual)
    (fun x hx => honly x ?_) (State.takeFeedMode_driven (s := { s with inbox := pre ++ post }) hmanual hrun hcoupled) _
  rw [hinbox]
  exact List.mem_of_mem_append_cons (by simpa [State.takeFeedMode] using hx)

/-- R16: MSC after a SET_FEED, with the hand-offs of its recompute; the channels are as before. -/
theorem State.requestFeed_spec (s : State) (c : Fin 4) (mode : FeedMode) :
    let n := (Msc.recompute { s.msc with feedRequested := s.msc.feedRequested.set c mode } s.lvc.sides.left.status
      s.lvc.sides.right.status)
    (s.requestFeed c mode).msc = n ∧ (s.requestFeed c mode).fdc = s.fdc ∧
    (s.requestFeed c mode).inbox = s.inbox ++ (modeHands s.msc n).map (Waiting.mk false) := by
  unfold State.requestFeed
  dsimp only
  split
  next => simp only [State.requestRewrite_frame]; exact ⟨rfl, rfl, rfl⟩
  next => exact ⟨rfl, rfl, rfl⟩

/-- R152: a demand stored on a channel that MANUAL drives at the order's end. -/
theorem State.storeManual_driven {s : State} {c : Fin 4} (demand : Nat) (hmode : s.msc.feedEffective[c] = .manual)
    (hrun : s.fdc.channels[c].run ≠ .jammed)
    (h : (((s.modChannel c fun r => { r with manual := demand }).takeFeedModes c s.inbox.length).fdc.channels[c]).Driven
      demand) :
    ((s.storeManual c demand).fdc.channels[c]).Driven demand ∧ ((s.storeManual c demand).fdc.channels[c]).demand = demand := by
  have hrun' : ((s.modChannel c fun r => { r with manual := demand }).channel c).run ≠ .jammed := by
    simpa [State.modChannel, State.channel] using hrun
  have hstore : s.storeManual c demand =
      ((s.modChannel c fun r => { r with manual := demand }).takeFeedModes c s.inbox.length).recomputeDemand c :=
    (if_pos ⟨hmode, hrun'⟩).trans (if_pos h.mode)
  rw [hstore]
  exact h.recomputed

/-- R152: where MANUAL does not drive a channel, the demand is stored and no more. -/
theorem State.storeManual_stored {s : State} {c : Fin 4} (demand : Nat)
    (h : s.msc.feedEffective[c] ≠ .manual ∨ s.fdc.channels[c].run = .jammed) :
    s.storeManual c demand = s.modChannel c fun r => { r with manual := demand } := by
  refine if_neg fun ⟨hmode, hrun⟩ => h.elim (· hmode) fun hjammed => hrun ?_
  simpa [State.modChannel, State.channel] using hjammed

/-- R16, R152: a SET_FEED that asks for MANUAL in a state in which MANUAL is effective drives its channel at once. -/
theorem State.requestManual_drives {s : State} {c : Fin 4} (demand : Nat)
    (hstate : s.msc.state = .heatup ∨ s.msc.state = .pave)
    (hinbox : ∀ x ∈ s.inbox, ∀ mode, x.handoff ≠ .feedMode c mode)
    (hseen : s.fdc.channels[c].modeSeen = s.msc.feedEffective[c])
    (hmanual : s.fdc.channels[c].modeSeen = .manual → s.fdc.channels[c].run = .running)
    (hrun : s.fdc.channels[c].run ≠ .jammed) (hcoupled : s.fdc.channels[c].coupled = false) :
    let t := (s.requestFeed c .manual).storeManual c demand
    t.msc.feedEffective[c] = .manual ∧ (t.fdc.channels[c]).Driven demand ∧ (t.fdc.channels[c]).demand = demand := by
  obtain ⟨hmsc, hfdc, hhands⟩ := s.requestFeed_spec c .manual
  have heffective : (s.requestFeed c .manual).msc.feedEffective[c] = .manual := by
    rw [hmsc]
    rcases hstate with h | h <;> simp [Msc.recompute, h, effectiveFeed]
  have honly : (s.requestFeed c .manual).onlyManual c := by
    intro w hw mode hmode
    rw [hhands] at hw
    rcases List.mem_append.mp hw with hw | hw
    · exact absurd hmode (hinbox w hw mode)
    · obtain ⟨x, hx, rfl⟩ := List.mem_map.mp hw
      obtain rfl : x = .feedMode c mode := hmode
      rw [← hmsc] at hx
      have hmode := ((feedMode_mem_modeHands _ _ c mode).mp hx).2
      rw [← hmode, heffective]
  have hchannel : ((s.requestFeed c .manual).modChannel c fun r => { r with manual := demand }).fdc.channels[c] =
      { s.fdc.channels[c] with manual := demand } := by
    simp [State.modChannel]
  refine ⟨by simpa using heffective, State.storeManual_driven demand heffective (by rwa [hfdc]) ?_⟩
  by_cases hold : s.fdc.channels[c].modeSeen = .manual
  · refine State.takeFeedModes_driven (s := (s.requestFeed c .manual).modChannel c fun r => { r with manual := demand })
      honly ?_ _
    rw [hchannel]
    exact ⟨rfl, hold, hmanual hold, hcoupled⟩
  · refine State.takeFeedModes_manual (s := (s.requestFeed c .manual).modChannel c fun r => { r with manual := demand })
      honly ?_ ?_ ?_ ?_
    · have hmem : Handoff.feedMode c .manual ∈ modeHands s.msc (s.requestFeed c .manual).msc :=
        (feedMode_mem_modeHands _ _ c .manual).mpr ⟨hseen ▸ hold, heffective⟩
      rw [hmsc] at hmem
      change _ ∈ (s.requestFeed c .manual).inbox
      rw [hhands]
      exact List.mem_append_right _ (List.mem_map_of_mem hmem)
    · rw [hchannel]
    · rw [hchannel]; exact hrun
    · rw [hchannel]; exact hcoupled

theorem exec_feedModeHandoff_of_first {s : State} {c : Fin 4} {mode : FeedMode} {rest : List Waiting}
    (hfirst : s.FirstWaiting (fun h => ∃ x, h = .feedMode c x) (.feedMode c mode) rest) :
    exec (.feedModeHandoff c) s = .next (State.takeFeedMode { s with inbox := rest } c mode) := by
  change execFeedModeHandoff c s = _
  rw [execFeedModeHandoff, hfirst.take _ (Handoff.feedOf_iff c)]

/-- Settles O18. -/
theorem setSideAndSetFeed : Obligations.SetSideAndSetFeed := by
  refine ⟨⟨fun s o ho => ⟨exec_setSide_of_range ho, fun mode kind hmode hkind => ?_⟩,
      fun s side kind => ⟨State.setReference_of_ne, State.setReference_of_lost, State.setReference_of_ok⟩,
      fun s side => ⟨State.settleMembers_of_settled, State.settleMembers_of_none⟩,
      fun s side mode => ⟨fun h => if_pos h, fun hsame h => if_neg ?_⟩⟩,
    fun s o ho => ⟨exec_setFeed_of_range ho, fun mode hmode => ⟨exec_setFeed_of_strict ho (feedModeOf_of_mem hmode),
        exec_setFeed_of_ok ho (feedModeOf_of_mem hmode)⟩⟩,
      fun s c mode => ⟨fun h => if_pos h, fun hsame h => if_neg ?_⟩, fun s c demand => ⟨fun hmode hrun => ?_,
        State.storeManual_stored demand⟩, fun s c n => ⟨rfl, fun mode rest hfirst => ?_,
        fun h => State.takeFeedModes_none h n⟩, fun s o ho hb => ?_⟩
  · have hexec := exec_setSide_of_ok ho (sideModeOf_of_mem hmode) (referenceOf_of_mem hkind)
    refine ⟨fun hslope htaken => hexec.trans (congrArg Host.Outcome.next (if_pos ⟨hslope, htaken⟩)), fun h =>
      hexec.trans (congrArg Host.Outcome.next (if_neg fun ⟨hslope, htaken⟩ => ?_))⟩
    exact h.elim (fun h => nomatch h.symm.trans hslope) (fun h => nomatch h.symm.trans htaken)
  · exact fun hor => hor.elim (· hsame) (fun hchanged => Bool.false_ne_true (h.symm.trans hchanged))
  · exact fun hor => hor.elim (· hsame) (fun hchanged => Bool.false_ne_true (h.symm.trans hchanged))
  · have hstore : s.storeManual c demand =
        let u := (s.modChannel c fun r => { r with manual := demand }).takeFeedModes c s.inbox.length
        if u.fdc.channels[c].modeSeen = .manual then u.recomputeDemand c else u :=
      if_pos ⟨hmode, by simpa [State.modChannel, State.channel] using hrun⟩
    exact ⟨fun h => hstore.trans (if_pos h), fun h => hstore.trans (if_neg h)⟩
  · exact ⟨_, exec_feedModeHandoff_of_first hfirst, State.takeFeedModes_first hfirst n⟩
  · intro c r demand hstate hstrict hinbox hseen hmanual hrun hcoupled
    have hmode : feedModeOf o.b = some .manual := by rw [Order.b, hb]; rfl
    obtain ⟨heffective, hdriven, hdemand⟩ :=
      s.requestManual_drives demand.toNat hstate hinbox hseen hmanual hrun hcoupled
    refine ⟨_, exec_setFeed_of_ok ho hmode hstrict, ?_⟩
    simp only [State.finishDone_frame]
    exact ⟨heffective, hdriven.manual, hdriven.mode, hdriven.run, hdemand⟩

end Sys2Proof.Machine

/-! PROOF. The value orders and the PAVE entry (R45 to R51). -/
namespace Sys2Proof.Machine

/-! ## A value order -/

/-- R46: clamping is the greatest and the least of the limits. -/
theorem clamp_eq_max_min {low high : Int} (h : low ≤ high) (x : Int) : clamp low high x = max low (min high x) := by
  unfold clamp
  split
  next => omega
  next => split <;> omega

theorem becomesPending_iff (cls : ApplyClass) (state : MachineState) :
    becomesPending cls state = true ↔ cls = .atPave ∧ (state = .pave ∨ state = .pause) := by simp [becomesPending]

theorem writeBarred_iff (cls : ApplyClass) (state : MachineState) :
    writeBarred cls state = true ↔ cls = .standbyOnly ∧ state ≠ .standby := by simp [writeBarred]

theorem outsideBand_eq (band : Option (Int × Int)) (v : Int) :
    outsideBand band v = match band with
      | some (low, high) => decide (v < low ∨ high < v)
      | none => false := by
  cases band with
  | none => rfl
  | some limits => simp [outsideBand]

/-- R51: a value that stays as it was is not handed on. -/
theorem settingHands_self (i : SettingId) (v : Int) : settingHands i v v = [] := if_pos rfl

/-- R45: a pending value is stored, and nothing is handed on. -/
theorem State.storeSetting_pending (s : State) (i : SettingId) (v : Int) :
    s.storeSetting i v true = { s with
      sps := { s.sps with entries := s.sps.entries.set i { s.sps.entries[i] with pending := some v } }
      inbox := s.inbox ++ [] } := by
  simp only [State.storeSetting, SettingEntry.written, if_true, settingHands_self]
  rfl

/-- R45, R51: a value is put in effect, and handed on where it changes. -/
theorem State.storeSetting_inEffect (s : State) (i : SettingId) (v : Int) :
    s.storeSetting i v false = { s with
      sps := { s.sps with entries := s.sps.entries.set i ⟨v, none⟩ }
      inbox := s.inbox ++ (settingHands i s.sps.entries[i].value v).map (Waiting.mk false) } := rfl

/-- R46: a value order outside the state its setting asks for. -/
theorem State.valueOrder_barred {s : State} {o : Order} (x : Int) (result : Int → Int → Int)
    (h : (settingSpec o.settingId).applyClass = .standbyOnly ∧ s.msc.state ≠ .standby) :
    s.valueOrder o x result = s.finishRefused .wrongState :=
  if_pos ((writeBarred_iff ..).mpr h)

/-- R46: a STRICT value order of a value outside the limits. -/
theorem State.valueOrder_outside {s : State} {o : Order} {x : Int} (result : Int → Int → Int)
    (hopen : ¬ ((settingSpec o.settingId).applyClass = .standbyOnly ∧ s.msc.state ≠ .standby)) (hstrict : o.strict = true)
    (hx : clamp (settingSpec o.settingId).low (settingSpec o.settingId).high x ≠ x) :
    s.valueOrder o x result = s.finishRefused .range :=
  (if_neg fun h => hopen ((writeBarred_iff ..).mp h)).trans (if_pos ⟨hstrict, hx⟩)

/-- R46: the value order that stores its value. -/
theorem State.valueOrder_stored {s : State} {o : Order} {x : Int} (result : Int → Int → Int)
    (hopen : ¬ ((settingSpec o.settingId).applyClass = .standbyOnly ∧ s.msc.state ≠ .standby))
    (hx : o.strict = false ∨ clamp (settingSpec o.settingId).low (settingSpec o.settingId).high x = x) :
    let spec := settingSpec o.settingId
    let v := clamp spec.low spec.high x
    let pends := becomesPending spec.applyClass s.msc.state
    s.valueOrder o x result = (s.storeSetting o.settingId v pends).finishDone
      (BitVec.ofInt 32 (result v s.sps.entries[o.settingId].latest)) (decide (v ≠ x)) (outsideBand spec.softBand v) pends :=
  (if_neg fun h => hopen ((writeBarred_iff ..).mp h)).trans
    (if_neg fun ⟨hstrict, hne⟩ => hx.elim (fun h => Bool.false_ne_true (h.symm.trans hstrict)) hne)

/-- R46 to R48: a value order's three outcomes, with the setting's entry spelled out. -/
theorem State.valueOrder_outcomes (s : State) (o : Order) (x : Int) (result : Int → Int → Int) :
    let i : SettingId := Fin.ofNat 47 o.subject.toNat
    let e := s.sps.entries[i]
    let spec := settingSpec i
    let v := max spec.low (min spec.high x)
    let pends := spec.applyClass = .atPave ∧ (s.msc.state = .pave ∨ s.msc.state = .pause)
    let barred := spec.applyClass = .standbyOnly ∧ s.msc.state ≠ .standby
    (barred → s.valueOrder o x result = s.finishRefused .wrongState) ∧
    (¬ barred → o.strict = true → v ≠ x → s.valueOrder o x result = s.finishRefused .range) ∧
    (¬ barred → o.strict = false ∨ v = x →
      let soft := match spec.softBand with
        | some (low, high) => decide (v < low ∨ high < v)
        | none => false
      s.valueOrder o x result = State.finishDone
        { s with
          sps := { s.sps with entries := s.sps.entries.set i (if pends then { e with pending := some v } else ⟨v, none⟩) }
          inbox := s.inbox ++ (if pends then [] else (settingHands i e.value v).map (Waiting.mk false)) }
        (BitVec.ofInt 32 (result v (e.pending.getD e.value))) (decide (v ≠ x)) soft (decide pends)) := by
  intro i e spec v pends barred
  have hv : clamp spec.low spec.high x = v := clamp_eq_max_min (settingSpec_low_le_high i) x
  refine ⟨State.valueOrder_barred x result, fun hopen hstrict hx =>
    State.valueOrder_outside result hopen hstrict (hv.trans_ne hx), ?_⟩
  intro hopen hx soft
  have hstored := State.valueOrder_stored result hopen (hx.imp id hv.trans)
  refine hstored.trans ?_
  have hsoft : outsideBand spec.softBand v = soft := outsideBand_eq ..
  change (s.storeSetting i (clamp spec.low spec.high x) (becomesPending spec.applyClass s.msc.state)).finishDone
    (BitVec.ofInt 32 (result (clamp spec.low spec.high x) (e.pending.getD e.value)))
    (decide (clamp spec.low spec.high x ≠ x)) (outsideBand spec.softBand (clamp spec.low spec.high x))
    (becomesPending spec.applyClass s.msc.state) = _
  rw [hv, hsoft]
  by_cases hp : pends
  · have hb : becomesPending spec.applyClass s.msc.state = true := (becomesPending_iff ..).mpr hp
    rw [hb, State.storeSetting_pending, if_pos hp, if_pos hp, decide_eq_true hp]
  · have hb : becomesPending spec.applyClass s.msc.state = false :=
      Bool.eq_false_iff.mpr fun h => hp ((becomesPending_iff ..).mp h)
    rw [hb, State.storeSetting_inEffect, if_neg hp, if_neg hp, decide_eq_false hp]

theorem exec_setValue {s : State} {o : Order} (ho : s.orderOf .setValue = some o) :
    exec .setValue s = .next (s.valueOrder o o.operandA.toInt fun written _ => written) := by
  change execSetValue s = _
  rw [execSetValue, ho]
  rfl

theorem exec_adjustValue {s : State} {o : Order} (ho : s.orderOf .adjustValue = some o) :
    exec .adjustValue s = .next (s.valueOrder o (s.sps.entries[o.settingId].latest + o.operandA.toInt)
      fun written _ => written) := by
  change execAdjustValue s = _
  rw [execAdjustValue, ho]
  rfl

theorem exec_swapValue {s : State} {o : Order} (ho : s.orderOf .swapValue = some o) :
    exec .swapValue s = .next (s.valueOrder o o.operandA.toInt fun _ latest => latest) := by
  change execSwapValue s = _
  rw [execSwapValue, ho]
  rfl

/-- R46 to R48: each value order is the write of its value, with the value written or the latest value as result. -/
theorem exec_valueOrder {s : State} {o : Order} {c : Instr} {x : Int} {old : Bool}
    (h : s.orderOf .setValue = some o ∧ c = .setValue ∧ x = o.operandA.toInt ∧ old = false ∨
      s.orderOf .adjustValue = some o ∧ c = .adjustValue ∧
        x = s.sps.entries[o.settingId].latest + o.operandA.toInt ∧ old = false ∨
      s.orderOf .swapValue = some o ∧ c = .swapValue ∧ x = o.operandA.toInt ∧ old = true) :
    exec c s = .next (s.valueOrder o x fun written latest => if old then latest else written) := by
  obtain ⟨ho, rfl, rfl, rfl⟩ | ⟨ho, rfl, rfl, rfl⟩ | ⟨ho, rfl, rfl, rfl⟩ := h
  · exact exec_setValue ho
  · exact exec_adjustValue ho
  · exact exec_swapValue ho

/-! ## The PAVE entry -/

theorem appliedEntries_get (entries : Vector SettingEntry 47) (i : SettingId) :
    (appliedEntries entries)[i] = entries[i].applied (settingSpec i).applyClass := by
  simp [appliedEntries]

/-- R50: a pending value of an AT_PAVE setting is put in effect. -/
theorem SettingEntry.applied_of_pending {e : SettingEntry} {cls : ApplyClass} {v : Int} (hv : e.pending = some v)
    (hcls : cls = .atPave) : e.applied cls = ⟨v, none⟩ := by
  subst hcls
  simp only [SettingEntry.applied, hv]

/-- R50: an entry without a pending value, or not AT_PAVE, is left as it is. -/
theorem SettingEntry.applied_of_other {e : SettingEntry} {cls : ApplyClass} (h : e.pending = none ∨ cls ≠ .atPave) :
    e.applied cls = e := by
  unfold SettingEntry.applied
  split
  next v hv => exact h.elim (fun hnone => nomatch hnone.symm.trans hv) (fun hne => absurd rfl hne)
  next => rfl

/-- R44: the two budget settings are not AT_PAVE, so the PAVE entry changes neither. -/
theorem settingSpec_budget_ne_atPave {i : SettingId} (h : i = Setting.budgetHost ∨ i = Setting.fallbackPercent) :
    (settingSpec i).applyClass ≠ .atPave := by
  obtain rfl | rfl := h <;> decide

theorem settingHands_budget_at_pave (entries : Vector SettingEntry 47) {i : SettingId}
    (h : i = Setting.budgetHost ∨ i = Setting.fallbackPercent) :
    settingHands i entries[i].value (appliedEntries entries)[i].value = [] := by
  rw [appliedEntries_get, SettingEntry.applied_of_other (.inr (settingSpec_budget_ne_atPave h)), settingHands_self]

/-- R51: of the settings handed on at the PAVE entry the live stroke alone can have changed. -/
theorem settingHands_at_pave (entries : Vector SettingEntry 47) :
    (([Setting.budgetHost, Setting.fallbackPercent, Setting.liveStroke] : List SettingId).flatMap fun i =>
        settingHands i entries[i].value (appliedEntries entries)[i].value) =
      settingHands Setting.liveStroke entries[Setting.liveStroke].value
        (appliedEntries entries)[Setting.liveStroke].value := by
  rw [List.flatMap_cons, List.flatMap_cons, List.flatMap_cons, List.flatMap_nil,
    settingHands_budget_at_pave entries (.inl rfl), settingHands_budget_at_pave entries (.inr rfl), List.append_nil,
    List.nil_append, List.nil_append]

theorem State.modSps_handAll (s : State) (entries : Vector SettingEntry 47) (hs : List Handoff) :
    (s.modSps fun p => { p with entries := entries }).handAll false hs =
      { s with sps := { s.sps with entries := entries }, inbox := s.inbox ++ hs.map (Waiting.mk false) } := rfl

/-- R50, R51: the PAVE entry puts the pending values in effect, and hands the live stroke on where it changed. -/
theorem exec_paveEntryAtSps {s : State} {rest : List Waiting}
    (h : s.FirstWaiting (fun h => h = .paveEntry) .paveEntry rest) :
    exec .paveEntryAtSps s = .next { s with
      sps := { s.sps with entries := appliedEntries s.sps.entries }
      inbox := rest ++ (settingHands Setting.liveStroke s.sps.entries[Setting.liveStroke].value
        (appliedEntries s.sps.entries)[Setting.liveStroke].value).map (Waiting.mk false) } := by
  change execPaveEntryAtSps s = _
  rw [execPaveEntryAtSps, h.take]
  · dsimp only
    rw [State.modSps_handAll, settingHands_at_pave]
  · intro h
    cases h <;> simp [Handoff.isPaveEntry]

/-- Settles O19. -/
theorem valueOrdersAndPaveEntry : Obligations.ValueOrdersAndPaveEntry := by
  refine ⟨?_, fun i old new => rfl, fun s rest hfirst => ⟨_, exec_paveEntryAtSps hfirst,
    fun i => ⟨fun v hv hcls => ?_, fun h => ?_⟩⟩⟩
  · intro s o c x old i e latest hc spec v pends barred
    rw [exec_valueOrder hc]
    obtain ⟨hbarred, houtside, hstored⟩ := s.valueOrder_outcomes o x fun written latest => if old then latest else written
    exact ⟨fun h => congrArg _ (hbarred h), fun h h1 h2 => congrArg _ (houtside h h1 h2),
      fun h h1 => congrArg _ (hstored h h1)⟩
  · exact (appliedEntries_get ..).trans (SettingEntry.applied_of_pending hv hcls)
  · exact (appliedEntries_get ..).trans (SettingEntry.applied_of_other h)

end Sys2Proof.Machine

/-! PROOF. Loading and patching pages (R54 to R56, R58), and the fields of their images (12.7). -/
namespace Sys2Proof.Machine

/-! ## LOAD_PAGE and IMAGE_READ_DONE -/

theorem pageOpen_iff (k : PageKind) (state : MachineState) :
    pageOpen k state = true ↔ k = .filter ∨ state = .standby := by simp [pageOpen]

theorem pageOpen_eq_false {k : PageKind} {state : MachineState} (h : ¬ (k = .filter ∨ state = .standby)) :
    (!pageOpen k state) = true := by simpa [pageOpen] using h

theorem imagePlaceOk_iff (k : PageKind) (a : Int) :
    imagePlaceOk k a = true ↔ 0 ≤ a ∧ a % 8 = 0 ∧ a + (k.bodyLength + 2 : Nat) ≤ 2 ^ 20 := by
  simp only [imagePlaceOk, Bool.and_eq_true, decide_eq_true_eq, and_assoc]
  rfl

/-- R54: LOAD_PAGE's two checks and the load it begins. -/
theorem exec_loadPage {s : State} {o : Order} (ho : s.orderOf .loadPage = some o) :
    exec .loadPage s = .next (
      if (!pageOpen o.page s.msc.state) = true then s.finishRefused .wrongState
      else if (!imagePlaceOk o.page o.a) = true then s.finishRefused .range
      else (s.modSps fun p => { p with load := some ⟨o.page, o.a.toNat, o.slot⟩ }).holdInFlight) := by
  change execLoadPage s = _
  rw [execLoadPage, ho]

section LoadPage
variable {s : State} {o : Order}

theorem exec_loadPage_of_closed (ho : s.orderOf .loadPage = some o)
    (h : ¬ (o.page = .filter ∨ s.msc.state = .standby)) : exec .loadPage s = .next (s.finishRefused .wrongState) :=
  (exec_loadPage ho).trans (congrArg Host.Outcome.next (if_pos (pageOpen_eq_false h)))

theorem exec_loadPage_of_misplaced (ho : s.orderOf .loadPage = some o) (hopen : o.page = .filter ∨ s.msc.state = .standby)
    (h : ¬ imagePlaceOk o.page o.a = true) : exec .loadPage s = .next (s.finishRefused .range) :=
  (exec_loadPage ho).trans (congrArg Host.Outcome.next
    ((if_neg (by simp [(pageOpen_iff ..).mpr hopen])).trans (if_pos (by simpa using h))))

theorem exec_loadPage_of_placed (ho : s.orderOf .loadPage = some o) (hopen : o.page = .filter ∨ s.msc.state = .standby)
    (h : imagePlaceOk o.page o.a = true) :
    exec .loadPage s = .next (s.modSps fun p => { p with load := some ⟨o.page, o.a.toNat, o.slot⟩ }).holdInFlight :=
  (exec_loadPage ho).trans (congrArg Host.Outcome.next
    ((if_neg (by simp [(pageOpen_iff ..).mpr hopen])).trans (if_neg (by simp [h]))))

end LoadPage

/-- R55: the image read goes to its check with the load record absent. -/
theorem exec_imageReadDone {s : State} (host : HostWrites) {l : LoadRecord} (hl : s.sps.load = some l) :
    let u : State := { s.hostWrite host with sps := { s.sps with load := none } }
    exec (.imageReadDone host) s = .next (u.judgeImage l.kind (u.regionRead l.offset (l.kind.bodyLength + 2))) := by
  change execImageReadDone host s = _
  rw [execImageReadDone, hl]
  rfl

/-- R55: the field behind the body of a whole image is what is left of the image. -/
theorem fieldAt_end {image : List Byte} {n m : Nat} (h : image.length = n + m) :
    fieldAt image n m = leNat (image.drop n) := by
  rw [fieldAt, List.take_of_length_le]
  rw [List.length_drop, h]
  omega

section JudgeImage
variable {s : State} {k : PageKind} {image : List Byte} (hlength : image.length = k.bodyLength + 2)
include hlength

theorem State.judgeImage_of_crc_ne
    (h : ¬ (crc16 (image.take k.bodyLength)).toNat = leNat (image.drop k.bodyLength)) :
    s.judgeImage k image = s.finishRefused .check :=
  if_pos ((fieldAt_end hlength).symm ▸ h)

theorem State.judgeImage_of_content (h : (crc16 (image.take k.bodyLength)).toNat = leNat (image.drop k.bodyLength))
    (hok : pageOk k (image.take k.bodyLength) = false) : s.judgeImage k image = s.finishRefused .pageContent :=
  (if_neg (not_not_intro ((fieldAt_end hlength).symm ▸ h))).trans (if_pos (by simp [hok]))

theorem State.judgeImage_of_ok (h : (crc16 (image.take k.bodyLength)).toNat = leNat (image.drop k.bodyLength))
    (hok : pageOk k (image.take k.bodyLength) = true) :
    s.judgeImage k image = State.finishDone
      { s with
        sps := s.sps.setPage k ⟨image.take k.bodyLength, true⟩
        inbox := s.inbox ++ [⟨false, inForceHand k (image.take k.bodyLength)⟩] }
      ((crc16 (image.take k.bodyLength)).zeroExtend 32) false false false :=
  (if_neg (not_not_intro ((fieldAt_end hlength).symm ▸ h))).trans (if_neg (by simp [hok]))

end JudgeImage

/-! ## PATCH_PAGE -/

/-- R23: operand A is the same number signed and unsigned where it is not negative. -/
theorem Order.toNat_a {o : Order} (h : 0 ≤ o.a) : o.a.toNat = o.operandA.toNat := by
  have := BitVec.toInt_eq_toNat_cond o.operandA
  unfold Order.a at h ⊢
  split at this <;> omega

/-- R56: PATCH_PAGE's checks and the patch. -/
theorem exec_patchPage {s : State} {o : Order} (ho : s.orderOf .patchPage = some o) :
    exec .patchPage s = .next (
      if (!pageOpen o.page s.msc.state) = true then s.finishRefused .wrongState
      else
        match if o.a < 0 then none else patchField o.page o.a.toNat with
        | none => s.finishRefused .range
        | some f =>
          if (!f.ok o.b) = true then s.finishRefused .range
          else
            let new := (s.sps.page o.page).patched f o.b
            let u := s.modSps fun p => p.setPage o.page new
            (if (s.sps.page o.page).valid = true then u.hand (withdrawnHand o.page) else u).finishDone
              new.crcResult false false false) := by
  change execPatchPage s = _
  rw [execPatchPage, ho] <;> rfl

/-- R56, log 39: a patched page. -/
theorem Page.patched_eq (p : Page) (f : PatchField) (v : Nat) :
    p.patched f v =
      ⟨p.bytes.take f.offset ++ leBytes f.length v ++ p.bytes.drop (f.offset + f.length), false⟩ := by
  rw [Page.patched, putAt, leBytes_length]

/-- R56, R58: a page that was VALID is handed over as withdrawn. -/
theorem State.withdraw_eq (s : State) (k : PageKind) (page : Page) (valid : Bool) :
    (if valid = true then (s.modSps fun p => p.setPage k page).hand (withdrawnHand k)
      else s.modSps fun p => p.setPage k page) =
    { s with
      sps := s.sps.setPage k page
      inbox := s.inbox ++ if valid then [⟨false, withdrawnHand k⟩] else [] } := by
  cases valid
  · simp [State.modSps]
  · rfl

section PatchPage
variable {s : State} {o : Order}

theorem exec_patchPage_of_closed (ho : s.orderOf .patchPage = some o)
    (h : ¬ (o.page = .filter ∨ s.msc.state = .standby)) : exec .patchPage s = .next (s.finishRefused .wrongState) :=
  (exec_patchPage ho).trans (congrArg Host.Outcome.next (if_pos (pageOpen_eq_false h)))

theorem exec_patchPage_of_no_field (ho : s.orderOf .patchPage = some o)
    (hopen : o.page = .filter ∨ s.msc.state = .standby) (h : o.a < 0 ∨ patchField o.page o.operandA.toNat = none) :
    exec .patchPage s = .next (s.finishRefused .range) := by
  have hnone : (if o.a < 0 then none else patchField o.page o.a.toNat) = none := by
    split
    next => rfl
    next hneg =>
      rw [Order.toNat_a (by omega)]
      exact h.resolve_left hneg
  rw [exec_patchPage ho, if_neg (by simp [(pageOpen_iff ..).mpr hopen]), hnone]

variable {f : PatchField}

/-- R56: the field named by an index that is not negative. -/
theorem Order.patchField_of_nonneg (ha : 0 ≤ o.a) (hf : patchField o.page o.operandA.toNat = some f) :
    (if o.a < 0 then none else patchField o.page o.a.toNat) = some f := by
  rw [if_neg (by omega), Order.toNat_a ha, hf]

theorem exec_patchPage_of_bad_value (ho : s.orderOf .patchPage = some o)
    (hopen : o.page = .filter ∨ s.msc.state = .standby) (ha : 0 ≤ o.a)
    (hf : patchField o.page o.operandA.toNat = some f) (hok : f.ok o.b = false) :
    exec .patchPage s = .next (s.finishRefused .range) := by
  rw [exec_patchPage ho, if_neg (by simp [(pageOpen_iff ..).mpr hopen]), Order.patchField_of_nonneg ha hf]
  simp [hok]

theorem exec_patchPage_of_ok (ho : s.orderOf .patchPage = some o)
    (hopen : o.page = .filter ∨ s.msc.state = .standby) (ha : 0 ≤ o.a)
    (hf : patchField o.page o.operandA.toNat = some f) (hok : f.ok o.b = true) :
    let page := s.sps.page o.page
    let bytes := page.bytes.take f.offset ++ leBytes f.length o.b ++ page.bytes.drop (f.offset + f.length)
    exec .patchPage s = .next (State.finishDone
      { s with
        sps := s.sps.setPage o.page ⟨bytes, false⟩
        inbox := s.inbox ++ if page.valid then [⟨false, withdrawnHand o.page⟩] else [] }
      ((crc16 bytes).zeroExtend 32) false false false) := by
  rw [exec_patchPage ho, if_neg (by simp [(pageOpen_iff ..).mpr hopen]), Order.patchField_of_nonneg ha hf]
  dsimp only
  rw [if_neg (by simp [hok]), Page.patched_eq, State.withdraw_eq]
  rfl

end PatchPage

/-! ## The fields a patch names -/

/-- R56: an index names a field: its place, its length, and the values it may take. -/
def Patches (k : PageKind) (index offset length : Nat) (allowed : Nat → Prop) : Prop :=
  ∃ f, patchField k index = some f ∧ f.offset = offset ∧ f.length = length ∧ ∀ v, f.ok v = true ↔ allowed v

/-- R56: the item and the field an index stands for. -/
theorem patchItem_eq {i f : Nat} (hf : f < 16) : patchItem (16 * (i + 1) + f) = some (i, f) := by
  rw [patchItem, if_neg (by omega)]
  congr 2 <;> omega

/-- R56: every index from 16 on stands for an item and a field. -/
theorem patchItem_index {index i f : Nat} (h : patchItem index = some (i, f)) : index = 16 * (i + 1) + f := by
  unfold patchItem at h
  split at h
  next => cases h
  next => cases h; omega

theorem patchField_zoneMap {z f : Nat} (hf : f < 16) : patchField .zoneMap (16 * (z + 1) + f) = zonePatch z f :=
  (if_neg (by omega)).trans (by rw [patchItem_eq hf]; rfl)

theorem patchField_headMap {h f : Nat} (hf : f < 16) : patchField .headMap (16 * (h + 1) + f) = headPatch h f :=
  (if_neg (by omega)).trans (by rw [patchItem_eq hf]; rfl)

theorem patchField_filter {n f : Nat} (hf : f < 16) : patchField .filter (16 * (n + 1) + f) = filterPatch n f := by
  rw [patchField, patchItem_eq hf]
  rfl

theorem zonePatch_eq_none {z f : Nat} (h : ¬ (z < 24 ∧ f ≤ 4)) : zonePatch z f = none := by
  unfold zonePatch
  split
  next hz =>
    obtain ⟨n, rfl⟩ : ∃ n, f = n + 5 := ⟨f - 5, by omega⟩
    rfl
  next => rfl

theorem headPatch_eq_none {x f : Nat} (h : ¬ (x < 16 ∧ f ≤ 4)) : headPatch x f = none := by
  unfold headPatch
  split
  next hx =>
    obtain ⟨n, rfl⟩ : ∃ n, f = n + 5 := ⟨f - 5, by omega⟩
    rfl
  next => rfl

theorem filterPatch_eq_none {n f : Nat} (h : ¬ (n < 8 ∧ f ≤ 8)) : filterPatch n f = none := by
  unfold filterPatch
  split
  next hn =>
    obtain ⟨m, rfl⟩ : ∃ m, f = m + 9 := ⟨f - 9, by omega⟩
    rfl
  next => rfl

/-- R56: an index of no item's field names none, for each kind of item. -/
theorem patchItem_bind_eq_none {patch : Nat → Nat → Option PatchField} {items fields index : Nat}
    (hnone : ∀ {i f}, ¬ (i < items ∧ f ≤ fields) → patch i f = none)
    (h : ∀ i f, i < items → f ≤ fields → index ≠ 16 * (i + 1) + f) :
    ((patchItem index).bind fun p => patch p.1 p.2) = none := by
  cases hp : patchItem index with
  | none => rfl
  | some p => exact hnone fun hlt => h p.1 p.2 hlt.1 hlt.2 (patchItem_index hp)

/-! ## What is handed over with a page in force -/

/-- The items of a counted list are those of its indices. -/
theorem eq_of_getElem?_range_map {α : Type} {f : Nat → α} {n i : Nat} {x : α}
    (h : ((List.range n).map f)[i]? = some x) : i < n ∧ f i = x := by
  rw [List.getElem?_map] at h
  obtain ⟨j, hj, hx⟩ := Option.map_eq_some_iff.mp h
  obtain ⟨hi, hij⟩ := List.getElem?_eq_some_iff.mp hj
  rw [List.getElem_range] at hij
  rw [List.length_range] at hi
  exact ⟨hi, hij ▸ hx⟩

/-- 12.7: a section's code is read back. -/
theorem Section.code_getD_ofCode {n : Nat} (h : n ≤ 5) : ((Section.ofCode n).getD .mainL).code = n := by
  interval_cases n <;> rfl

/-- 12.7: what a counted zone of a ZONE_MAP in force is. -/
theorem zoneItem_fields {bs : List Byte} {z : Nat} (h : ZoneFields bs z) :
    (zoneItem bs z).sect.code = fieldAt bs (4 + 8 * z) 1 ∧ (zoneItem bs z).rating = fieldAt bs (8 + 8 * z) 2 ∧
      (zoneItem bs z).temperatureInput = fieldAt bs (5 + 8 * z) 1 ∧
      (zoneItem bs z).currentInput = fieldAt bs (6 + 8 * z) 1 ∧
      (zoneItem bs z).contactorOutput = fieldAt bs (7 + 8 * z) 1 := by
  simp only [zoneItem, itemAt_add, and_true]
  exact Section.code_getD_ofCode h.1

/-- 12.7: what a counted head of a HEAD_MAP in force is. -/
theorem headItem_fields {bs : List Byte} {h : Nat} (hf : headFieldsOk bs h = true) :
    (headItem bs h).junction.code = fieldAt bs (4 + 8 * h) 1 ∧ (headItem bs h).port = fieldAt bs (5 + 8 * h) 1 ∧
      (headItem bs h).kind.code = fieldAt bs (6 + 8 * h) 1 ∧
      headSideCode (headItem bs h).side = fieldAt bs (7 + 8 * h) 1 ∧
      (headItem bs h).position = fieldAt bs (8 + 8 * h) 1 :=
  ⟨headItem_junction_code hf, headItem_port bs h, ((headItem_kind_iff hf _).mp rfl).symm,
    ((headItem_side_iff hf _).mp rfl).symm, headItem_position bs h⟩

theorem headMapOk_fields {bs : List Byte} (h : headMapOk bs = true) {x : Nat} (hx : x < mapCount bs) :
    headFieldsOk bs x = true := by
  simp only [headMapOk, Bool.and_eq_true, List.all_eq_true, List.mem_range] at h
  exact h.1.2 x hx

theorem fieldAt_four_toNat (bs : List Byte) (offset : Nat) :
    (BitVec.ofNat 32 (fieldAt bs offset 4)).toNat = fieldAt bs offset 4 :=
  (BitVec.toNat_ofNat ..).trans (Nat.mod_eq_of_lt (fieldAt_lt bs offset 4))

/-- 12.7: what a filter of a FILTER in force is. -/
theorem filterItem_fields (bs : List Byte) (n : Nat) :
    ((filterItem bs n).enabled = true ↔ fieldAt bs (24 * n) 1 = 1) ∧
      ((filterItem bs n).extended = true ↔ fieldAt bs (24 * n + 1) 1 = 1) ∧
      (filterItem bs n).length =
        (if fieldAt bs (24 * n + 2) 1 = 255 then none else some (fieldAt bs (24 * n + 2) 1)) ∧
      (filterItem bs n).purpose = fieldAt bs (24 * n + 3) 1 ∧
      (filterItem bs n).identifier.toNat = fieldAt bs (24 * n + 8) 4 ∧
      (filterItem bs n).mask.toNat = fieldAt bs (24 * n + 12) 4 ∧
      (filterItem bs n).dataMask =
        if fieldAt bs (24 * n + 4) 1 = 1 then some ((bs.drop (24 * n + 16)).take 8) else none :=
  ⟨beq_iff_eq, beq_iff_eq, rfl, rfl, fieldAt_four_toNat .., fieldAt_four_toNat .., rfl⟩

/-! ## The tables and the statement -/

theorem patches_byte_le {k : PageKind} {index offset offset' length n : Nat}
    (h : patchField k index = some ⟨offset', length, fun v => decide (v ≤ n)⟩) (hoffset : offset' = offset) :
    Patches k index offset length (· ≤ n) :=
  ⟨_, h, hoffset, rfl, fun _ => decide_eq_true_iff⟩

theorem patches_byte_lt {k : PageKind} {index offset length n : Nat}
    (h : patchField k index = some ⟨offset, length, fun v => decide (v < n)⟩) :
    Patches k index offset length (· < n) :=
  ⟨_, h, rfl, rfl, fun _ => decide_eq_true_iff⟩

theorem patches_byte_between {k : PageKind} {index offset offset' length m n : Nat}
    (h : patchField k index = some ⟨offset', length, fun v => decide (m ≤ v) && decide (v ≤ n)⟩)
    (hoffset : offset' = offset) : Patches k index offset length (fun v => m ≤ v ∧ v ≤ n) :=
  ⟨_, h, hoffset, rfl, fun v => by simp⟩

theorem patches_boltWidth {index offset : Nat} (h : patchField .geometry index = some ⟨offset, 2, boltOk⟩) :
    Patches .geometry index offset 2 (fun v => v ≤ 3000 ∧ v % 250 = 0) :=
  ⟨_, h, rfl, rfl, boltOk_iff⟩

/-- R56: the fields of a ZONE_MAP item. -/
theorem patches_zone {z : Nat} (hz : z < 24) :
    Patches .zoneMap (16 * (z + 1)) (4 + 8 * z) 1 (· ≤ 5) ∧
    Patches .zoneMap (16 * (z + 1) + 1) (8 + 8 * z) 2 (fun v => 500 ≤ v ∧ v ≤ 6000) ∧
    Patches .zoneMap (16 * (z + 1) + 2) (5 + 8 * z) 1 (· ≤ 23) ∧
    Patches .zoneMap (16 * (z + 1) + 3) (6 + 8 * z) 1 (· ≤ 23) ∧
    Patches .zoneMap (16 * (z + 1) + 4) (7 + 8 * z) 1 (· ≤ 23) := by
  have field (f : Nat) (hf : f < 16) := patchField_zoneMap (z := z) hf
  exact ⟨patches_byte_le ((field 0 (by decide)).trans (if_pos hz)) rfl,
    patches_byte_between ((field 1 (by decide)).trans (if_pos hz)) (itemAt_add z 4),
    patches_byte_le ((field 2 (by decide)).trans (if_pos hz)) (itemAt_add z 1),
    patches_byte_le ((field 3 (by decide)).trans (if_pos hz)) (itemAt_add z 2),
    patches_byte_le ((field 4 (by decide)).trans (if_pos hz)) (itemAt_add z 3)⟩

/-- R56: the fields of a HEAD_MAP item. -/
theorem patches_head {h : Nat} (hh : h < 16) :
    Patches .headMap (16 * (h + 1)) (4 + 8 * h) 1 (· ≤ 2) ∧
    Patches .headMap (16 * (h + 1) + 1) (5 + 8 * h) 1 (· ≤ 6) ∧
    Patches .headMap (16 * (h + 1) + 2) (6 + 8 * h) 1 (fun v => 1 ≤ v ∧ v ≤ 4) ∧
    Patches .headMap (16 * (h + 1) + 3) (7 + 8 * h) 1 (· ≤ 2) ∧
    Patches .headMap (16 * (h + 1) + 4) (8 + 8 * h) 1 (· ≤ 4) := by
  have field (f : Nat) (hf : f < 16) := patchField_headMap (h := h) hf
  exact ⟨patches_byte_le ((field 0 (by decide)).trans (if_pos hh)) rfl,
    patches_byte_le ((field 1 (by decide)).trans (if_pos hh)) (itemAt_add h 1),
    patches_byte_between ((field 2 (by decide)).trans (if_pos hh)) (itemAt_add h 2),
    patches_byte_le ((field 3 (by decide)).trans (if_pos hh)) (itemAt_add h 3),
    patches_byte_le ((field 4 (by decide)).trans (if_pos hh)) (itemAt_add h 4)⟩

/-- R56: the fields of a filter. -/
theorem patches_filter {n : Nat} (hn : n < 8) :
    Patches .filter (16 * (n + 1)) (24 * n) 1 (· ≤ 1) ∧
    Patches .filter (16 * (n + 1) + 1) (24 * n + 8) 4 (· < 2 ^ 29) ∧
    Patches .filter (16 * (n + 1) + 2) (24 * n + 12) 4 (· < 2 ^ 29) ∧
    Patches .filter (16 * (n + 1) + 3) (24 * n + 1) 1 (· ≤ 1) ∧
    Patches .filter (16 * (n + 1) + 4) (24 * n + 2) 1 (fun v => v ≤ 8 ∨ v = 255) ∧
    Patches .filter (16 * (n + 1) + 5) (24 * n + 4) 1 (· ≤ 1) ∧
    Patches .filter (16 * (n + 1) + 6) (24 * n + 16) 4 (fun _ => True) ∧
    Patches .filter (16 * (n + 1) + 7) (24 * n + 20) 4 (fun _ => True) ∧
    Patches .filter (16 * (n + 1) + 8) (24 * n + 3) 1 (· ≤ 2) := by
  have field (f : Nat) (hf : f < 16) := patchField_filter (n := n) hf
  exact ⟨patches_byte_le ((field 0 (by decide)).trans (if_pos hn)) rfl,
    patches_byte_lt ((field 1 (by decide)).trans (if_pos hn)),
    patches_byte_lt ((field 2 (by decide)).trans (if_pos hn)),
    patches_byte_le ((field 3 (by decide)).trans (if_pos hn)) rfl,
    ⟨_, (field 4 (by decide)).trans (if_pos hn), rfl, rfl, fun v => by simp [filterLengthOk]⟩,
    patches_byte_le ((field 5 (by decide)).trans (if_pos hn)) rfl,
    ⟨_, (field 6 (by decide)).trans (if_pos hn), rfl, rfl, fun v => by simp⟩,
    ⟨_, (field 7 (by decide)).trans (if_pos hn), rfl, rfl, fun v => by simp⟩,
    patches_byte_le ((field 8 (by decide)).trans (if_pos hn)) rfl⟩

/-- R56: the indices that name no field. -/
theorem patchField_eq_none (index : Nat) :
    (index ≠ 0 → (∀ z f, z < 24 → f ≤ 4 → index ≠ 16 * (z + 1) + f) → patchField .zoneMap index = none) ∧
    (index ≠ 0 → (∀ h f, h < 16 → f ≤ 4 → index ≠ 16 * (h + 1) + f) → patchField .headMap index = none) ∧
    ((∀ n f, n < 8 → f ≤ 8 → index ≠ 16 * (n + 1) + f) → patchField .filter index = none) ∧
    (2 ≤ index → patchField .geometry index = none) := by
  refine ⟨fun h0 h => (if_neg h0).trans (patchItem_bind_eq_none zonePatch_eq_none h),
    fun h0 h => (if_neg h0).trans (patchItem_bind_eq_none headPatch_eq_none h),
    fun h => patchItem_bind_eq_none filterPatch_eq_none h, fun h => ?_⟩
  obtain ⟨n, rfl⟩ : ∃ n, index = n + 2 := ⟨index - 2, by omega⟩
  rfl

/-- Settles O21. -/
theorem loadAndPatchPage : Obligations.LoadAndPatchPage := by
  refine ⟨⟨fun s o ho => ⟨fun hk hstate => exec_loadPage_of_closed ho (not_or.mpr ⟨hk, hstate⟩), fun hopen =>
      ⟨fun h => exec_loadPage_of_misplaced ho hopen fun hok => h ((imagePlaceOk_iff ..).mp hok),
        fun h => exec_loadPage_of_placed ho hopen ((imagePlaceOk_iff ..).mpr h)⟩⟩, fun s host l hl => ?_⟩,
    fun s o ho => ⟨exec_patchPage_of_closed ho, exec_patchPage_of_no_field ho, fun f hopen ha hf =>
      ⟨exec_patchPage_of_bad_value ho hopen ha hf, exec_patchPage_of_ok ho hopen ha hf⟩⟩,
    ⟨patches_byte_between rfl rfl, patches_byte_between rfl rfl, patches_boltWidth rfl, patches_boltWidth rfl,
      fun _ => patches_zone, fun _ => patches_head, fun _ => patches_filter, patchField_eq_none⟩,
    fun bytes => ⟨fun hok => ⟨_, rfl, ?_, fun z item hitem => ?_⟩, fun hok => ⟨_, rfl, ?_, fun h item hitem => ?_⟩,
      ⟨_, rfl, ?_, fun n f hf => ?_⟩, rfl⟩, rfl, rfl, rfl, rfl⟩
  · intro u image body agrees
    have hexec := exec_imageReadDone host hl
    have hlength : image.length = l.kind.bodyLength + 2 := State.regionRead_length ..
    exact ⟨fun h => hexec.trans (congrArg _ (State.judgeImage_of_crc_ne hlength h)),
      fun h hok => hexec.trans (congrArg _ (State.judgeImage_of_content hlength h hok)),
      fun h hok => hexec.trans (congrArg _ (State.judgeImage_of_ok hlength h hok))⟩
  · simp [zoneItems, mapCount, fieldAt]
  · obtain ⟨hz, rfl⟩ := eq_of_getElem?_range_map hitem
    obtain ⟨-, -, hfields, -⟩ := (zoneMapOk_iff bytes).mp hok
    exact zoneItem_fields (hfields z hz)
  · simp [headItems, mapCount, fieldAt]
  · obtain ⟨hh, rfl⟩ := eq_of_getElem?_range_map hitem
    obtain ⟨hjunction, hport, hkind, hside, hposition⟩ := headItem_fields (headMapOk_fields hok hh)
    refine ⟨hjunction, hport, hkind, Eq.trans ?_ hside, hposition⟩
    rcases (headItem bytes h).side with _ | _ | _ <;> rfl
  · simp [filterItems]
  · obtain ⟨-, rfl⟩ := eq_of_getElem?_range_map hf
    exact filterItem_fields bytes n

end Sys2Proof.Machine

/-! PROOF. Frames of the machine bus (R62, R66, R67) and the travel steps (R68 to R71, R73). -/
namespace Sys2Proof.Machine

/-! ## Matching -/

theorem word_masked_eq_zero_iff (x y mask : Word) :
    (x ^^^ y) &&& mask = 0 ↔ ∀ i < 32, mask.getLsbD i = true → x.getLsbD i = y.getLsbD i := by
  have hbit (i : Nat) : ((x ^^^ y) &&& mask).getLsbD i = false ↔ (mask.getLsbD i = true → x.getLsbD i = y.getLsbD i) := by
    rw [BitVec.getLsbD_and, BitVec.getLsbD_xor]
    cases x.getLsbD i <;> cases y.getLsbD i <;> cases mask.getLsbD i <;> decide
  constructor
  · intro h i _
    exact (hbit i).mp (by rw [h]; exact BitVec.getLsbD_zero)
  · exact fun h => BitVec.eq_of_getLsbD_eq fun i hi => ((hbit i).mpr (h i hi)).trans BitVec.getLsbD_zero.symm

/-- R66: the data bytes under a data mask hold a bit of it. -/
theorem zipWith_any_iff (data mask : List Byte) :
    ((List.zipWith (fun d k => d &&& k) data mask).any fun b => b != 0) = true ↔
      ∃ (i : Nat) (d k : Byte), data[i]? = some d ∧ mask[i]? = some k ∧ d &&& k ≠ 0 := by
  simp only [List.any_eq_true, List.mem_iff_getElem?, List.getElem?_zipWith, bne_iff_ne]
  constructor
  · rintro ⟨b, ⟨i, hi⟩, hb⟩
    cases hd : data[i]? with
    | none => rw [hd] at hi; cases mask[i]? <;> cases hi
    | some d =>
      cases hk : mask[i]? with
      | none => rw [hd, hk] at hi; cases hi
      | some k =>
        rw [hd, hk] at hi
        cases hi
        exact ⟨i, d, k, hd, hk, hb⟩
  · rintro ⟨i, d, k, hd, hk, hb⟩
    exact ⟨d &&& k, ⟨i, by rw [hd, hk]⟩, hb⟩

/-- R66: what a filter asks of a frame. -/
theorem Filter.accepts_iff (x : Filter) (f : Frame) :
    x.accepts f = true ↔
      x.enabled = true ∧ (∀ i < 32, x.mask.getLsbD i = true → f.identifier.getLsbD i = x.identifier.getLsbD i) ∧
      f.extended = x.extended ∧ (∀ n, x.length = some n → f.data.length = n) ∧
      (∀ m : List Byte, x.dataMask = some m →
        ∃ (i : Nat) (d k : Byte), f.data[i]? = some d ∧ m[i]? = some k ∧ d &&& k ≠ 0) := by
  have hlength : (match x.length with | none => true | some n => n == f.data.length) = true ↔
      ∀ n, x.length = some n → f.data.length = n := by
    cases x.length with
    | none => simp
    | some n =>
      simp only [beq_iff_eq, Option.some.injEq, forall_eq']
      exact eq_comm
  have hdata : (match x.dataMask with
      | none => true
      | some m => (List.zipWith (fun d k => d &&& k) f.data m).any fun b => b != 0) = true ↔
      ∀ m : List Byte, x.dataMask = some m →
        ∃ (i : Nat) (d k : Byte), f.data[i]? = some d ∧ m[i]? = some k ∧ d &&& k ≠ 0 := by
    cases x.dataMask with
    | none => simp
    | some m => simp only [zipWith_any_iff, Option.some.injEq, forall_eq']
  have hidentifier : (∀ i < 32, x.mask.getLsbD i = true →
      (f.identifier.zeroExtend 32).getLsbD i = x.identifier.getLsbD i) ↔
      ∀ i < 32, x.mask.getLsbD i = true → f.identifier.getLsbD i = x.identifier.getLsbD i :=
    forall₂_congr fun i hi => by simp [hi]
  rw [← hlength, ← hdata, ← hidentifier, ← word_masked_eq_zero_iff, Filter.accepts]
  simp only [Bool.and_eq_true, beq_iff_eq, and_assoc, eq_comm (a := x.extended)] <;> rfl

/-- R66: the first filter that matches gives the purpose. -/
theorem Trm.match_of_first {t : Trm} {f : Frame} {before after : List Filter} {x : Filter}
    (ht : t.filterUse = some (before ++ x :: after)) (hbefore : ∀ y ∈ before, y.accepts f = false)
    (hx : x.accepts f = true) : t.match f = some x.purpose := by
  have hfind : before.find? (fun y => y.accepts f) = none :=
    List.find?_eq_none.mpr fun y hy => by simp [hbefore y hy]
  simp [Trm.match, ht, List.find?_append, hfind, hx]

theorem Trm.match_of_none {t : Trm} {f : Frame} {fs : List Filter} (ht : t.filterUse = some fs)
    (h : ∀ x ∈ fs, x.accepts f = false) : t.match f = none := by
  have hfind : fs.find? (fun y => y.accepts f) = none := List.find?_eq_none.mpr fun y hy => by simp [h y hy]
  simp [Trm.match, ht, hfind]

/-! ## GOOD_FRAME -/

theorem Trm.taking_iff (t : Trm) :
    t.taking = true ↔ (t.runSeen = .running ∨ t.runSeen = .stopping) ∧ t.busState = .listening := by
  simp [Trm.taking]

/-- R62: what a frame the part does not take does. -/
theorem exec_goodFrame_of_not_taking {s : State} (f : Frame) (h : ¬ s.trm.taking = true) :
    exec (.goodFrame f) s = .next s := congrArg Host.Outcome.next (if_neg h)

/-- R62, R66: a frame taken lowers the error counter, and a data frame then does what its purpose says. -/
theorem exec_goodFrame_of_taking {s : State} (f : Frame) (h : s.trm.taking = true) :
    let u : State := { s with trm := { s.trm with errorCounter := s.trm.errorCounter - 1 } }
    exec (.goodFrame f) s = .next (
      if f.remote = true then u
      else
        match s.trm.match f with
        | some 0 => u.travelFrame f.data
        | some 1 => u.generatorFrame f.data
        | some 2 => u.consoleFrame f.data
        | _ => u) := congrArg Host.Outcome.next (if_pos h)

section GoodFrame
variable {s : State} {f : Frame} (htaking : s.trm.taking = true)
include htaking

theorem exec_goodFrame_of_remote (hremote : f.remote = true) :
    exec (.goodFrame f) s = .next { s with trm := { s.trm with errorCounter := s.trm.errorCounter - 1 } } :=
  (exec_goodFrame_of_taking f htaking).trans (congrArg Host.Outcome.next (if_pos hremote))

variable (hremote : f.remote = false)
include hremote

/-- R66: a data frame taken. -/
theorem exec_goodFrame_of_data :
    let u : State := { s with trm := { s.trm with errorCounter := s.trm.errorCounter - 1 } }
    exec (.goodFrame f) s = .next (
      match s.trm.match f with
      | some 0 => u.travelFrame f.data
      | some 1 => u.generatorFrame f.data
      | some 2 => u.consoleFrame f.data
      | _ => u) :=
  (exec_goodFrame_of_taking f htaking).trans (congrArg Host.Outcome.next (if_neg (Bool.eq_false_iff.mp hremote)))

theorem exec_goodFrame_of_travel (hmatch : s.trm.match f = some 0) :
    exec (.goodFrame f) s =
      .next (State.travelFrame { s with trm := { s.trm with errorCounter := s.trm.errorCounter - 1 } } f.data) := by
  rw [exec_goodFrame_of_data htaking hremote, hmatch]
  rfl

theorem exec_goodFrame_of_generator (hmatch : s.trm.match f = some 1) :
    exec (.goodFrame f) s =
      .next (State.generatorFrame { s with trm := { s.trm with errorCounter := s.trm.errorCounter - 1 } } f.data) := by
  rw [exec_goodFrame_of_data htaking hremote, hmatch]
  rfl

theorem exec_goodFrame_of_console (hmatch : s.trm.match f = some 2) :
    exec (.goodFrame f) s =
      .next (State.consoleFrame { s with trm := { s.trm with errorCounter := s.trm.errorCounter - 1 } } f.data) := by
  rw [exec_goodFrame_of_data htaking hremote, hmatch]
  rfl

theorem exec_goodFrame_of_unmatched (h0 : s.trm.match f ≠ some 0) (h1 : s.trm.match f ≠ some 1)
    (h2 : s.trm.match f ≠ some 2) :
    exec (.goodFrame f) s = .next { s with trm := { s.trm with errorCounter := s.trm.errorCounter - 1 } } := by
  rw [exec_goodFrame_of_data htaking hremote]
  split
  next h => exact absurd h h0
  next h => exact absurd h h1
  next h => exact absurd h h2
  next => rfl

end GoodFrame

/-- Settles O23. -/
theorem goodFrame : Obligations.GoodFrame := by
  refine ⟨fun s f => ?_, fun t f => ⟨fun ht => ?_, fun fs ht => ⟨Trm.match_of_none ht, ?_⟩⟩, Filter.accepts_iff⟩
  · intro taken u
    refine ⟨fun h => exec_goodFrame_of_not_taking f fun ht => h ((Trm.taking_iff _).mp ht), fun h => ?_⟩
    have htaking : s.trm.taking = true := (Trm.taking_iff _).mpr h
    refine ⟨exec_goodFrame_of_remote htaking, fun hremote =>
      ⟨exec_goodFrame_of_unmatched htaking hremote, fun hmatch hlength => ?_, fun hmatch hlength => ?_,
        fun hmatch hlength => ?_, fun hmatch hlength => ?_, fun hmatch hlength => ?_⟩⟩
    · exact (exec_goodFrame_of_travel htaking hremote hmatch).trans
        (congrArg Host.Outcome.next (if_neg (Nat.not_lt.mpr hlength)))
    · exact (exec_goodFrame_of_travel htaking hremote hmatch).trans (congrArg Host.Outcome.next (if_pos hlength))
    · obtain hmatch | hmatch := hmatch
      · exact (exec_goodFrame_of_generator htaking hremote hmatch).trans (congrArg Host.Outcome.next (if_pos hlength))
      · exact (exec_goodFrame_of_console htaking hremote hmatch).trans (congrArg Host.Outcome.next (if_pos hlength))
    · exact (exec_goodFrame_of_generator htaking hremote hmatch).trans
        (congrArg Host.Outcome.next (if_neg (Nat.not_lt.mpr hlength)))
    · exact (exec_goodFrame_of_console htaking hremote hmatch).trans
        (congrArg Host.Outcome.next (if_neg (Nat.not_lt.mpr hlength)))
  · rw [Trm.match, ht]
  · rintro before x after rfl hbefore hx
    exact Trm.match_of_first ht hbefore hx

/-! ## The travel steps -/

section TravelSeen
variable {s : State}

/-- R68: travel restored from no outage. -/
theorem State.travelSeen_of_no_outage
    (h : s.trm.travel = .live ∨ s.trm.travel = .none ∨ s.trm.outageStart = none) :
    s.travelSeen =
      let period := s.settingNat Setting.travelTimeout
      State.reportTravel { s with trm := { s.trm with
        travel := .live, travelTimer := some ⟨s.rif.runTime + BitVec.ofNat 32 period, period⟩
        outageStart := none } } s.trm := by
  rw [State.travelSeen]
  obtain htravel | htravel | hstart := h
  · rw [htravel]; rfl
  · rw [htravel]; rfl
  · rw [hstart]
    cases s.trm.travel <;> rfl

/-- R68, log 11: travel restored from an outage, noted before it is reported. -/
theorem State.travelSeen_of_outage {start : Word} (h : s.trm.travel = .silent ∨ s.trm.travel = .lost)
    (hstart : s.trm.outageStart = some start) :
    s.travelSeen =
      let period := s.settingNat Setting.travelTimeout
      (State.postNote { s with trm := { s.trm with
        travel := .live, travelTimer := some ⟨s.rif.runTime + BitVec.ofNat 32 period, period⟩
        outageStart := none } } .travelRestored 0 (s.rif.runTime - start)).reportTravel s.trm := by
  rw [State.travelSeen, hstart]
  obtain htravel | htravel := h <;> rw [htravel] <;> rfl

end TravelSeen

section ReportTravel
variable {s : State} {old : Trm}

/-- R59: the hand-offs of a new travel status. -/
def State.tellTravel (s : State) : State :=
  { s with inbox := s.inbox ++ [⟨false, .travelToMsc s.trm.travel⟩, ⟨false, .travelToMru s.trm.travel⟩] }

theorem State.reportTravel_of_same (hbus : s.trm.busState = old.busState) (htravel : s.trm.travel = old.travel) :
    s.reportTravel old = s := by
  unfold State.reportTravel
  rw [if_pos hbus]
  exact if_pos htravel

theorem State.reportTravel_of_bus (hbus : s.trm.busState ≠ old.busState) (htravel : s.trm.travel = old.travel) :
    s.reportTravel old = s.requestRewrite := by
  unfold State.reportTravel
  rw [if_neg hbus]
  exact if_pos (by simp only [State.requestRewrite_frame, htravel])

theorem State.reportTravel_of_travel (hbus : s.trm.busState = old.busState) (htravel : s.trm.travel ≠ old.travel) :
    s.reportTravel old = s.tellTravel.requestRewrite := by
  unfold State.reportTravel
  rw [if_pos hbus]
  exact if_neg htravel

theorem State.reportTravel_of_both (hbus : s.trm.busState ≠ old.busState) (htravel : s.trm.travel ≠ old.travel) :
    s.reportTravel old = s.requestRewrite.tellTravel.requestRewrite := by
  have htrm : s.requestRewrite.trm.travel = s.trm.travel := congrArg Trm.travel (by simp)
  unfold State.reportTravel
  rw [if_neg hbus]
  exact if_neg (htrm.trans_ne htravel)

end ReportTravel

theorem State.setSpeed_of_ne {s : State} {speed : Half} (h : s.trm.speed ≠ speed) :
    s.setSpeed speed = { s with
      trm := { s.trm with speed := speed }, inbox := s.inbox ++ [⟨false, .speedToFdc speed.toNat⟩] } := if_neg h

/-! ## The step rules -/

/-- R69, R70: the step rules on a frame behind another. -/
theorem State.travelStep_of_last {s : State} {last : Half} (count : Half) (forward : Bool) (speed : Half)
    (hlast : s.trm.lastCount = some last) :
    let u : State := { s with trm := { s.trm with lastCount := some count } }
    let step := (count - last).toNat
    let v : State := { u.setSpeed speed with trm := { (u.setSpeed speed).trm with badStepReported := false } }
    s.travelStep count forward speed =
      if (!forward) = true then u.setSpeed 0
      else if s.settingNat Setting.maxStep < step then u.badStep step
      else if step = 0 then v else v.applyStep step := by
  rw [State.travelStep, hlast]
  rfl

@[simp] theorem State.setSpeed_chainage (s : State) (speed : Half) : (s.setSpeed speed).trm.chainage = s.trm.chainage := by
  unfold State.setSpeed
  split <;> rfl

@[simp] theorem State.setSpeed_machineSeen (s : State) (speed : Half) :
    (s.setSpeed speed).trm.machineSeen = s.trm.machineSeen := by
  unfold State.setSpeed
  split <;> rfl

theorem Trm.paving_iff (t : Trm) : t.paving = true ↔ t.machineSeen = .pave ∨ t.machineSeen = .pause := by
  simp [Trm.paving]

/-- R71: a step that is not applied. -/
theorem State.applyStep_of_kept {s : State} {step : Nat}
    (h : advancedChainage s.trm.chainage step = s.trm.chainage ∨ ¬ s.trm.paving = true) : s.applyStep step = s :=
  if_neg fun ⟨hpaving, hne⟩ => h.elim hne fun hnot => hnot hpaving

/-- R71: a step applied moves the chainage and tells BDR, MRU and MSC. -/
theorem State.applyStep_of_moved {s : State} {step : Nat} (hpaving : s.trm.paving = true)
    (h : advancedChainage s.trm.chainage step ≠ s.trm.chainage) :
    let c := advancedChainage s.trm.chainage step
    s.applyStep step = { s with
      trm := { s.trm with chainage := c }
      inbox := s.inbox ++ [⟨false, .chainageToBdr c⟩, ⟨false, .advanceToMru c⟩, ⟨false, .advanceToMsc⟩] } :=
  if_pos ⟨hpaving, h⟩

section TravelStep
variable {s : State} {last count speed : Half} (hlast : s.trm.lastCount = some last)
include hlast

/-- R70: what a bad step does. -/
theorem State.travelStep_of_bad (hstep : s.settingNat Setting.maxStep < (count - last).toNat) :
    s.travelStep count true speed =
      State.badStep { s with trm := { s.trm with lastCount := some count } } (count - last).toNat :=
  (State.travelStep_of_last count true speed hlast).trans ((if_neg (by simp)).trans (if_pos hstep))

/-- R69: a step the frame may take. -/
theorem State.travelStep_of_good (hstep : (count - last).toNat ≤ s.settingNat Setting.maxStep) :
    let u : State := State.setSpeed { s with trm := { s.trm with lastCount := some count } } speed
    let v : State := { u with trm := { u.trm with badStepReported := false } }
    s.travelStep count true speed = if (count - last).toNat = 0 then v else v.applyStep (count - last).toNat :=
  (State.travelStep_of_last count true speed hlast).trans
    ((if_neg (by simp)).trans (if_neg (Nat.not_lt.mpr hstep)))

end TravelStep

/-- Settles O24. -/
theorem travelFrameSteps : Obligations.TravelFrameSteps := by
  refine ⟨fun s => ⟨State.travelSeen_of_no_outage, fun start => State.travelSeen_of_outage⟩,
    fun s old => ⟨State.reportTravel_of_same, State.reportTravel_of_bus, State.reportTravel_of_travel,
      State.reportTravel_of_both⟩, fun s speed => ⟨fun h => if_pos h, State.setSpeed_of_ne⟩, fun s count speed forward => ?_⟩
  intro u
  refine ⟨fun hlast => by rw [State.travelStep, hlast]; rfl, fun last hlast => ?_⟩
  intro step
  refine ⟨?_, ?_, ?_⟩
  · rintro rfl
    exact (State.travelStep_of_last count false speed hlast).trans (if_pos rfl)
  · rintro rfl hstep
    exact ⟨fun h => (State.travelStep_of_bad hlast hstep).trans (if_pos h), fun h =>
      (State.travelStep_of_bad hlast hstep).trans (if_neg (Bool.eq_false_iff.mp h))⟩
  · rintro rfl hstep v c
    have hchainage : v.trm.chainage = s.trm.chainage := State.setSpeed_chainage u speed
    have hmachine : v.trm.machineSeen = s.trm.machineSeen := State.setSpeed_machineSeen u speed
    have hadvanced : advancedChainage v.trm.chainage step = c := by rw [hchainage]; rfl
    have hgood := State.travelStep_of_good (speed := speed) hlast hstep
    refine ⟨fun h => hgood.trans ?_, fun hzero hc hpaving => (hgood.trans (if_neg hzero)).trans ?_⟩
    · by_cases hzero : step = 0
      · exact if_pos hzero
      · refine (if_neg hzero).trans (State.applyStep_of_kept ?_)
        rw [Trm.paving_iff, hmachine, not_or]
        exact (h.resolve_left hzero).imp_left fun hc => (hadvanced.trans hc).trans hchainage.symm
    · have hmoved := State.applyStep_of_moved (s := v) (step := step)
        ((Trm.paving_iff _).mpr (by rwa [hmachine])) (by rwa [hadvanced, hchainage])
      rw [hadvanced] at hmoved
      exact hmoved

end Sys2Proof.Machine

/-! PROOF. Errors and timers of the machine bus (R62 to R64, R72), TRM's orders and hand-offs (R60, R61, R65, R74), and the chainage
that no command but three lowers (R71). -/
namespace Sys2Proof.Machine

/-! ## Bus errors, the travel timer, and REARM_BUS -/

theorem exec_busError_of_not_taking {s : State} (h : ¬ s.trm.taking = true) : exec .busError s = .next s :=
  congrArg Host.Outcome.next (if_neg h)

theorem exec_busError_of_low {s : State} (h : s.trm.taking = true) (hlow : s.trm.errorCounter < 31) :
    exec .busError s = .next { s with trm := { s.trm with errorCounter := s.trm.errorCounter + 1 } } :=
  congrArg Host.Outcome.next ((if_pos h).trans (if_neg (Nat.not_le.mpr hlow)))

theorem exec_busError_of_high {s : State} (h : s.trm.taking = true) (hhigh : 31 ≤ s.trm.errorCounter) :
    exec .busError s = .next s.busLost :=
  congrArg Host.Outcome.next ((if_pos h).trans (if_pos hhigh))

/-- R72: the travel timer's expiry, at the run time it was set for. -/
theorem exec_travelTimerExpiry {s : State} {timer : TravelTimer} (htimer : s.trm.travelTimer = some timer) :
    let t := s.runTo timer.expiry
    exec .travelTimerExpiry s = .next (
      if s.trm.travel = .live then
        ((State.postNote { t with trm := { s.trm with
            travel := .silent, travelTimer := none, lastCount := none, badStepReported := false
            outageStart := some timer.expiry } }
          .travelSilent 0 (BitVec.ofNat 32 timer.period)).reportTravel s.trm).setSpeed 0
      else { t with trm := { s.trm with travelTimer := none } }) := by
  intro t
  have htrm : t.trm = s.trm := by simp [t]
  change execTravelTimerExpiry s = _
  rw [execTravelTimerExpiry, htimer, ← htrm]
  rfl

/-- R64: REARM_BUS, before it reports. -/
theorem exec_rearmBus {s : State} {o : Order} (ho : s.orderOf .rearmBus = some o) :
    exec .rearmBus s = .next ((State.reportTravel
      { s with trm :=
        if s.trm.busState = .unreliable then
          { s.trm with busState := .listening, errorCounter := 0, travel := .silent }
        else { s.trm with errorCounter := 0 } } s.trm).finishDone
      (BitVec.ofNat 32 s.trm.errorCounter) false false false) := by
  change execRearmBus s = _
  rw [execRearmBus, ho]
  rfl

/-- Settles O25. -/
theorem busErrorTravelTimerAndRearm : Obligations.BusErrorTravelTimerAndRearm := by
  refine ⟨⟨fun s => ?_, fun s timer htimer => ?_⟩, fun s o ho => ?_⟩
  · intro taken
    exact ⟨fun h => exec_busError_of_not_taking fun ht => h ((Trm.taking_iff _).mp ht),
      fun h => exec_busError_of_low ((Trm.taking_iff _).mpr h), fun h => exec_busError_of_high ((Trm.taking_iff _).mpr h)⟩
  · exact ⟨fun h => (exec_travelTimerExpiry htimer).trans (congrArg Host.Outcome.next (if_pos h)),
      fun h => (exec_travelTimerExpiry htimer).trans (congrArg Host.Outcome.next (if_neg h))⟩
  · refine ⟨fun h => ?_, fun h _ => ?_⟩
    · rw [exec_rearmBus ho, if_neg h]
      have hsame := State.reportTravel_of_same (s := { s with trm := { s.trm with errorCounter := 0 } }) (old := s.trm)
        rfl rfl
      exact congrArg (fun u => Host.Outcome.next (State.finishDone u _ false false false)) hsame
    · rw [exec_rearmBus ho, if_pos h]

/-! ## SET_CHAINAGE and the hand-offs -/

/-- R74: SET_CHAINAGE's two checks and what it does. -/
theorem exec_setChainage {s : State} {o : Order} (ho : s.orderOf .setChainage = some o) :
    exec .setChainage s = .next (
      if s.trm.paving = true then s.finishRefused .wrongState
      else if s.bdr.staging ≠ [] then s.finishRefused .stagedPending
      else State.finishDone
        { s with
          trm := { s.trm with chainage := o.operandB }, inbox := s.inbox ++ [⟨false, .chainageToBdr o.operandB⟩] }
        s.trm.chainage false false false) := by
  change execSetChainage s = _
  rw [execSetChainage, ho]
  rfl

theorem exec_machineStateAtTrm {s : State} {rest : List Waiting} {state : MachineState}
    (h : s.FirstWaiting (fun h => ∃ x, h = .machineToTrm x) (.machineToTrm state) rest) :
    exec .machineStateAtTrm s = .next { s with inbox := rest, trm := { s.trm with machineSeen := state } } := by
  change execMachineStateAtTrm s = _
  rw [execMachineStateAtTrm, h.take]
  · rfl
  · intro h
    cases h <;> simp

section FilterHandoff
variable {s : State} {rest : List Waiting}

theorem exec_filterHandoff_of_inForce {filters : List Filter}
    (h : s.FirstWaiting (fun h => (∃ x, h = .filterInForce x) ∨ h = .filterWithdrawn) (.filterInForce filters) rest) :
    exec .filterHandoff s = .next { s with inbox := rest, trm := { s.trm with filterUse := some filters } } := by
  change execFilterHandoff s = _
  rw [execFilterHandoff, h.take]
  · rfl
  · intro h
    cases h <;> simp

theorem exec_filterHandoff_of_withdrawn
    (h : s.FirstWaiting (fun h => (∃ x, h = .filterInForce x) ∨ h = .filterWithdrawn) .filterWithdrawn rest) :
    exec .filterHandoff s = .next { s with inbox := rest, trm := { s.trm with filterUse := none } } := by
  change execFilterHandoff s = _
  rw [execFilterHandoff, h.take]
  · rfl
  · intro h
    cases h <;> simp

end FilterHandoff

theorem exec_runStatusAtTrm {s : State} {rest : List Waiting} {status : RunStatus}
    (h : s.FirstWaiting (fun h => ∃ x, h = .runStatus .trm x) (.runStatus .trm status) rest) :
    exec .runStatusAtTrm s = .next (State.travelRun { s with inbox := rest } status) := by
  change execRunStatusAtTrm s = _
  rw [execRunStatusAtTrm, h.take]
  intro h
  cases h with
  | runStatus f x => cases f <;> simp
  | _ => simp

/-- Settles O26. -/
theorem setChainageAndHandoffsAtTrm : Obligations.SetChainageAndHandoffsAtTrm := by
  refine ⟨fun s o ho => ?_, fun s rest => ⟨fun state => exec_machineStateAtTrm, fun filters => exec_filterHandoff_of_inForce,
    exec_filterHandoff_of_withdrawn, fun status h => ?_⟩⟩
  · intro paving
    have hexec := exec_setChainage ho
    have hopen : ¬ paving → ¬ s.trm.paving = true := fun h ht => h ((Trm.paving_iff _).mp ht)
    exact ⟨fun h => hexec.trans (congrArg Host.Outcome.next (if_pos ((Trm.paving_iff _).mpr h))),
      fun h hstaging => hexec.trans (congrArg Host.Outcome.next ((if_neg (hopen h)).trans (if_pos hstaging))),
      fun h hstaging => hexec.trans
        (congrArg Host.Outcome.next ((if_neg (hopen h)).trans (if_neg (not_not_intro hstaging))))⟩
  · rw [exec_runStatusAtTrm h]
    refine ⟨?_, ?_, ?_⟩
    · rintro (rfl | rfl) <;> rfl
    · rintro rfl
      rfl
    · rintro rfl
      rfl

/-! ## The chainage -/

theorem word_le_of_eq {x y : Word} (h : y = x) : x ≤ y := h ▸ BitVec.le_refl _

theorem advancedChainage_ge (c : Word) (step : Nat) : c ≤ advancedChainage c step := by
  have hc := c.isLt
  rw [BitVec.le_def, advancedChainage, BitVec.toNat_ofNat]
  omega

theorem State.applyStep_chainage (s : State) (step : Nat) : s.trm.chainage ≤ (s.applyStep step).trm.chainage := by
  unfold State.applyStep
  dsimp only
  split
  next => simpa using advancedChainage_ge s.trm.chainage step
  next => exact BitVec.le_refl _

@[simp] theorem State.badStep_chainage (s : State) (step : Nat) : (s.badStep step).trm.chainage = s.trm.chainage := by
  unfold State.badStep
  split <;> simp

/-- R71: the step rules do not lower the chainage. -/
theorem State.travelStep_chainage (s : State) (count : Half) (forward : Bool) (speed : Half) :
    s.trm.chainage ≤ (s.travelStep count forward speed).trm.chainage := by
  unfold State.travelStep
  dsimp only
  split
  next => exact BitVec.le_refl _
  next =>
    split
    next => simp
    next =>
      split
      next => simp
      next =>
        split
        next => simp
        next => exact BitVec.le_trans (word_le_of_eq (by simp)) (State.applyStep_chainage _ _)

@[simp] theorem State.travelSeen_chainage (s : State) : s.travelSeen.trm.chainage = s.trm.chainage := by
  rw [State.travelSeen_trm]

theorem exec_goodFrame_chainage {s t : State} {f : Frame} (h : exec (.goodFrame f) s = .next t) :
    s.trm.chainage ≤ t.trm.chainage := by
  cases h
  split
  next =>
    dsimp only
    split
    next => simp
    next =>
      split
      next =>
        unfold State.travelFrame
        split
        next => simp
        next => exact BitVec.le_trans (word_le_of_eq (by simp)) (State.travelStep_chainage _ _ _ _)
      next => unfold State.generatorFrame; split <;> simp
      next => unfold State.consoleFrame; split <;> simp
      next => simp
  next => exact BitVec.le_refl _

theorem exec_busError_chainage {s t : State} (h : exec .busError s = .next t) : t.trm.chainage = s.trm.chainage := by
  cases h
  split
  next =>
    split
    next => simp [State.busLost, Trm.forgetCount]
    next => simp
  next => rfl

theorem exec_travelTimerExpiry_chainage {s t : State} (h : exec .travelTimerExpiry s = .next t) :
    t.trm.chainage = s.trm.chainage := by
  cases h
  split
  next =>
    dsimp only
    split <;> simp [Trm.forgetCount]
  next => rfl

theorem exec_rearmBus_chainage {s t : State} (h : exec .rearmBus s = .next t) : t.trm.chainage = s.trm.chainage := by
  cases h
  split
  next =>
    dsimp only
    simp only [State.finishDone_frame, State.reportTravel_frame, State.modTrm_trm]
    split <;> rfl
  next => rfl

theorem State.travelRun_chainage (s : State) (status : RunStatus) : (s.travelRun status).trm.chainage = s.trm.chainage := by
  cases status <;> simp [State.travelRun, State.travelStarting, State.travelStopped, Trm.forgetCount]

/-- Settles O27. -/
theorem chainageNeverFalls : Obligations.ChainageNeverFalls := by
  intro c s t h hset hpower hsoft
  by_cases hb : Block.trm ∈ Instr.writes c
  case neg => exact word_le_of_eq (congrArg Trm.chainage (exec_writes c s t h .trm hb))
  cases c
  case goodFrame => exact exec_goodFrame_chainage h
  case busError => exact word_le_of_eq (exec_busError_chainage h)
  case travelTimerExpiry => exact word_le_of_eq (exec_travelTimerExpiry_chainage h)
  case rearmBus => exact word_le_of_eq (exec_rearmBus_chainage h)
  case setChainage => exact absurd rfl hset
  case powerOnReset => exact absurd rfl hpower
  case softReset v => exact absurd rfl (hsoft v)
  case runStatusAtTrm =>
    cases h
    split
    next htake =>
      simp [State.take_frame htake, State.travelRun_chainage]
    next => exact BitVec.le_refl _
  case machineStateAtTrm | filterHandoff =>
    cases h
    (repeat' split) <;> first
      | exact BitVec.le_refl _
      | (have htake := State.take_frame (by assumption); exact word_le_of_eq (by simp [htake]))
  all_goals simp [Instr.writes] at hb

end Sys2Proof.Machine

/-! PROOF. The characters of the head link, what the part sends, and the transactions that begin (R77 to R79, 12.8). -/
namespace Sys2Proof.Machine

/-! ## Characters -/

/-- R77: a parity carried over a list of bits. -/
theorem foldl_xor_eq_true_iff (bit : Nat → Bool) (l : List Nat) (p : Bool) :
    l.foldl (fun p i => p ^^ bit i) p = true ↔ (l.countP bit + p.toNat) % 2 = 1 := by
  induction l generalizing p with
  | nil => cases p <;> simp
  | cons i l ih =>
    rw [List.foldl_cons, ih, List.countP_cons]
    cases p <;> cases bit i <;> simp
    omega

/-- R77: a good character has its stop bit and odd parity. -/
theorem charGood_iff (c : LinkChar) : charGood c = true ↔
    c.stop = true ∧ ((List.range 8).countP (fun i => c.data.getLsbD i) + c.parity.toNat) % 2 = 1 := by
  rw [charGood, Bool.and_eq_true, foldl_xor_eq_true_iff]

/-- R77: a character the part sends is good. -/
theorem charGood_sentChar (b : Byte) : charGood (sentChar b) = true := by
  refine (charGood_iff _).mpr ⟨rfl, ?_⟩
  have hparity := foldl_xor_eq_true_iff (fun i => b.getLsbD i) (List.range 8) true
  change ((List.range 8).countP (fun i => b.getLsbD i) +
    ((List.range 8).foldl (fun p i => p ^^ b.getLsbD i) true).toNat) % 2 = 1
  cases hp : (List.range 8).foldl (fun p i => p ^^ b.getLsbD i) true with
  | true => exact hparity.mp hp
  | false =>
    rw [hp] at hparity
    have hodd : ¬ ((List.range 8).countP (fun i => b.getLsbD i) + 1) % 2 = 1 := fun h => nomatch hparity.mpr h
    simp only [Bool.toNat_false]
    omega

/-- 12.8: the answers and their codes. -/
theorem charAnswer_iff (c : LinkChar) (a : Answer) :
    charAnswer c = some a ↔ charGood c = true ∧
      (c.data, a) ∈ ([(0x21, .ackPlain), (0x22, .ackChecked), (0x41, .nakEmpty), (0x42, .nakLatched)] :
        List (Byte × Answer)) := by
  have hcode (n : Nat) (hn : n < 256) : c.data.toNat = n ↔ c.data = BitVec.ofNat 8 n := by
    rw [← BitVec.toNat_inj, BitVec.toNat_ofNat, Nat.mod_eq_of_lt hn]
  unfold charAnswer
  split
  next hbad => simp at hbad; simp [hbad]
  next hgood =>
    simp only [Bool.not_eq_true', Bool.not_eq_false] at hgood
    simp only [hgood, true_and]
    split
    next h => simp [(hcode 0x21 (by decide)).mp h, eq_comm]
    next h => simp [(hcode 0x22 (by decide)).mp h, eq_comm]
    next h => simp [(hcode 0x41 (by decide)).mp h, eq_comm]
    next h => simp [(hcode 0x42 (by decide)).mp h, eq_comm]
    next h1 h2 h3 h4 =>
      have h1 := mt (hcode 0x21 (by decide)).mpr h1
      have h2 := mt (hcode 0x22 (by decide)).mpr h2
      have h3 := mt (hcode 0x41 (by decide)).mpr h3
      have h4 := mt (hcode 0x42 (by decide)).mpr h4
      simp only [List.mem_cons, Prod.mk.injEq, List.not_mem_nil, or_false, reduceCtorEq, false_iff]
      rintro (⟨h, -⟩ | ⟨h, -⟩ | ⟨h, -⟩ | ⟨h, -⟩)
      · exact h1 h
      · exact h2 h
      · exact h3 h
      · exact h4 h

/-! ## What the part sends -/

/-- R78: the commands that read. -/
def LinkCommand.reads (c : LinkCommand) : Bool := c == .reading || c == .status || c == .line || c == .jstatus

theorem LinkCommand.readLength_eq_zero_iff (c : LinkCommand) : c.readLength = 0 ↔ c.reads = false := by
  cases c <;> decide

/-- 12.8: the byte of a SELECT, with bit 2 for a read. -/
theorem Transaction.select_eq (t : Transaction) :
    t.select = BitVec.ofNat 8 (t.junction.code * 64 + t.port * 8 + if t.command.reads then 4 else 0) := by
  unfold Transaction.select
  cases h : t.command.reads
  · rw [if_pos ((LinkCommand.readLength_eq_zero_iff _).mpr h)]
    rfl
  · rw [if_neg fun hzero => nomatch h.symm.trans ((LinkCommand.readLength_eq_zero_iff _).mp hzero)]
    rfl

theorem Transaction.accepts_iff (t : Transaction) (mode : LinkMode) :
    t.accepts mode = true ↔ t.command = .setMode ∨ t.expected = some mode := by
  simp [Transaction.accepts]

/-- 12.8: the answer that acknowledges in a mode. -/
def LinkMode.ack : LinkMode → Answer
  | .plain => .ackPlain
  | .checked => .ackChecked

theorem LinkMode.ack_eq (mode : LinkMode) : mode.ack = if mode = .plain then .ackPlain else .ackChecked := by
  cases mode <;> rfl

section Sends
variable {t : Transaction} {c : LinkChar} {rest : List LinkChar}

/-- R78, R79: after an ACK it accepts the part goes on. -/
theorem Transaction.sends_of_accepted {mode : LinkMode} (hc : charAnswer c = some mode.ack)
    (haccepts : t.accepts mode = true) :
    t.sends (c :: rest) = (t.select :: t.bytesAfterAck mode).map sentChar := by
  cases mode <;> simp only [Transaction.sends, hc, LinkMode.ack, haccepts, if_true]

/-- R79: without an ACK it accepts the part sends SELECT alone. -/
theorem Transaction.sends_select {received : List LinkChar}
    (h : ∀ c rest mode, received = c :: rest → charAnswer c = some (LinkMode.ack mode) → ¬ t.accepts mode = true) :
    t.sends received = [sentChar t.select] := by
  unfold Transaction.sends
  split
  next => rfl
  next c rest =>
    split
    next hc => rw [if_neg (h c rest .plain rfl hc)]; rfl
    next hc => rw [if_neg (h c rest .checked rfl hc)]; rfl
    next => rfl

end Sends

/-- R78: what follows the ACK of a read. -/
theorem Transaction.bytesAfterAck_of_reads {t : Transaction} (mode : LinkMode) (h : t.command.reads = true) :
    t.bytesAfterAck mode = [BitVec.ofNat 8 t.command.code] := by
  rw [Transaction.bytesAfterAck, if_neg]
  exact fun hzero => nomatch h.symm.trans ((LinkCommand.readLength_eq_zero_iff _).mp hzero)

/-- R78: what follows the ACK of a write. -/
theorem Transaction.bytesAfterAck_of_writes {t : Transaction} (mode : LinkMode) (h : t.command.reads = false) :
    t.bytesAfterAck mode =
      BitVec.ofNat 8 t.command.code :: (t.payload ++ if mode = .checked then [t.check t.payload] else []) := by
  rw [Transaction.bytesAfterAck, if_pos ((LinkCommand.readLength_eq_zero_iff _).mpr h)]

/-- R77 to R79: what the part sends, whatever has been received. -/
theorem Transaction.sends_cases (t : Transaction) (received : List LinkChar) :
    let select : Byte := BitVec.ofNat 8 (t.junction.code * 64 + t.port * 8 + if t.command.reads then 4 else 0)
    let command : Byte := BitVec.ofNat 8 t.command.code
    let accepted (mode : LinkMode) : Prop := t.command = .setMode ∨ t.expected = some mode
    let acked (mode : LinkMode) : Prop := ∃ c rest, received = c :: rest ∧
      charAnswer c = some (if mode = .plain then .ackPlain else .ackChecked)
    (∀ mode, acked mode → accepted mode → t.command.reads = true →
      t.sends received = [select, command].map sentChar) ∧
    (acked .plain → accepted .plain → t.command.reads = false →
      t.sends received = ([select, command] ++ t.payload).map sentChar) ∧
    (acked .checked → accepted .checked → t.command.reads = false →
      t.sends received =
        ([select, command] ++ t.payload ++ [crc8 ([select, command] ++ t.payload)]).map sentChar) ∧
    ((∀ mode, acked mode → ¬ accepted mode) → t.sends received = [sentChar select]) := by
  intro select command accepted acked
  have hselect : t.select = select := t.select_eq
  refine ⟨?_, ?_, ?_, fun h => ?_⟩
  · rintro mode ⟨c, rest, rfl, hc⟩ haccepted hreads
    rw [Transaction.sends_of_accepted (hc.trans (congrArg some mode.ack_eq.symm)) ((t.accepts_iff mode).mpr haccepted),
      Transaction.bytesAfterAck_of_reads mode hreads, hselect]
  · rintro ⟨c, rest, rfl, hc⟩ haccepted hreads
    rw [Transaction.sends_of_accepted (mode := .plain) hc ((t.accepts_iff _).mpr haccepted),
      Transaction.bytesAfterAck_of_writes _ hreads, hselect, if_neg (by decide), List.append_nil]
    rfl
  · rintro ⟨c, rest, rfl, hc⟩ haccepted hreads
    rw [Transaction.sends_of_accepted (mode := .checked) hc ((t.accepts_iff _).mpr haccepted),
      Transaction.bytesAfterAck_of_writes _ hreads, hselect, if_pos rfl, Transaction.check, hselect]
    rfl
  · rw [← hselect]
    refine Transaction.sends_select fun c rest mode hreceived hc haccepts =>
      h mode ⟨c, rest, hreceived, hc.trans (congrArg some mode.ack_eq)⟩ ((t.accepts_iff mode).mp haccepts)

/-! ## The transaction of a request -/

/-- R82, R85: a transaction to a junction with its SET_MODE. -/
theorem State.transactionOf_junctionProbe (s : State) (j : JunctionId) :
    s.transactionOf (.junctionProbe j) =
      some ⟨.junctionProbe j, s.hlc.roundNumber, j, 7, .setMode, s.modePayload, (s.hlc.junction j).modeSeen, false⟩ := by
  simp [State.transactionOf, State.junctionTransaction]

theorem State.transactionOf_orderedProbe (s : State) (j : JunctionId) :
    s.transactionOf (.orderedProbe j) =
      some ⟨.orderedProbe j, s.hlc.roundNumber, j, 7, .setMode, s.modePayload, (s.hlc.junction j).modeSeen, false⟩ := by
  simp [State.transactionOf, State.junctionTransaction]

/-- R83: the data of a sequence's step. -/
def State.stepPayload (s : State) : SequenceStep → List Byte
  | .setMode => s.modePayload
  | .clear => [0]
  | .jstatus => []

/-- R82, R83: the transaction of a junction's next step. -/
theorem State.transactionOf_step {s : State} {j : JunctionId} {q : LinkSequence}
    (h : (s.hlc.junction j).sequence = some q) :
    s.transactionOf (.step j) = some ⟨.step j, s.hlc.roundNumber, j, 7, q.step.command, s.stepPayload q.step,
      (s.hlc.junction j).modeSeen, false⟩ := by
  obtain ⟨kind, step⟩ := q
  cases step <;> simp [State.transactionOf, State.junctionTransaction, h, SequenceStep.command, State.stepPayload]

/-- R89, R92: the transaction of a round member's or a stroke poll. -/
theorem State.transactionOf_poll {s : State} {r : LinkRequest} {i : Nat} {x : Head} (hr : r = .member i ∨ r = .stroke i)
    (hx : s.hlc.heads[i]? = some x) :
    s.transactionOf r = some ⟨r, s.hlc.roundNumber, x.junction, x.port, x.pollCommand, [],
      (s.hlc.junction x.junction).modeSeen, false⟩ := by
  have hpoll : ¬ (x.pollCommand = .trigger ∨ x.pollCommand = .reference) := by
    unfold Head.pollCommand
    split <;> decide
  obtain rfl | rfl := hr <;>
    simp only [State.transactionOf, hx, Option.map_some, State.headTransaction, if_neg hpoll]

/-! ## The end of a transaction -/

section TransactionEnds
variable {s : State} {t : Transaction} (outcome : TxOutcome) (data : List Byte)

theorem State.transactionEnds_of_step {j : JunctionId} (hstale : t.stale = false) (hr : t.request = .step j) :
    s.transactionEnds t outcome data =
      (State.housekeepingStep { s with hlc := { s.hlc with line := .free } } t j outcome data).schedule := by
  rw [State.transactionEnds, hstale, hr]
  rfl

theorem State.transactionEnds_of_junctionProbe {j : JunctionId} (hstale : t.stale = false)
    (hr : t.request = .orderedProbe j ∨ t.request = .junctionProbe j) :
    s.transactionEnds t outcome data =
      (State.junctionProbed { s with hlc := { s.hlc with line := .free } } t j outcome).schedule := by
  obtain hr | hr := hr <;> (rw [State.transactionEnds, hstale, hr]; rfl)

theorem State.transactionEnds_of_headProbe {i : Nat} (hstale : t.stale = false) (hr : t.request = .headProbe i) :
    s.transactionEnds t outcome data =
      (State.headProbeEnds { s with hlc := { s.hlc with line := .free } } i t outcome data).schedule := by
  rw [State.transactionEnds, hstale, hr]
  rfl

theorem State.transactionEnds_of_head {i : Nat} (hstale : t.stale = false)
    (hr : t.request = .member i ∨ t.request = .stroke i ∨ t.request = .scannerStatus i ∨
      (∃ ask, t.request = .scanner i ask)) :
    s.transactionEnds t outcome data =
      (State.headEnds { s with hlc := { s.hlc with line := .free } } i t outcome data).schedule := by
  obtain hr | hr | hr | ⟨ask, hr⟩ := hr <;> (rw [State.transactionEnds, hstale, hr]; rfl)

/-- Log 17: a scanner's transaction begun before the head table was rebuilt is answered as failed. -/
theorem State.transactionEnds_of_stale_scanner {i : Nat} {ask : ScannerAsk} (hstale : t.stale = true)
    (hr : t.request = .scanner i ask) :
    s.transactionEnds t outcome data =
      (State.answerScanner { s with hlc := { s.hlc with line := .free } } .failed).schedule := by
  rw [State.transactionEnds, hstale, if_pos rfl, State.staleEnds, hr]
  rfl

/-- Log 17: every other transaction begun before the head table was rebuilt only frees the line. -/
theorem State.transactionEnds_of_stale (hstale : t.stale = true) (hr : ∀ i ask, t.request ≠ .scanner i ask) :
    s.transactionEnds t outcome data = State.schedule { s with hlc := { s.hlc with line := .free } } := by
  rw [State.transactionEnds, hstale, if_pos rfl, State.staleEnds]
  split
  next i ask h => exact absurd h (hr i ask)
  next => rfl

end TransactionEnds

theorem exec_characterTimeout {s : State} {t : Transaction} (h : s.hlc.line = .busy t) :
    exec .characterTimeout s = .next (s.transactionEnds t .timeout []) := by
  change execCharacterTimeout s = _
  rw [execCharacterTimeout, h]

theorem exec_quietIntervalEnd_of_some {s : State} {r : LinkRequest} {t : Transaction} (h : s.hlc.line = .quiet r)
    (ht : s.transactionOf r = some t) :
    exec .quietIntervalEnd s = .next { s with hlc := { s.hlc with line := .busy t } } := by
  change execQuietIntervalEnd s = _
  rw [execQuietIntervalEnd, h]
  dsimp only
  rw [ht]
  rfl

theorem exec_quietIntervalEnd_of_none {s : State} {r : LinkRequest} (h : s.hlc.line = .quiet r)
    (ht : s.transactionOf r = none) :
    exec .quietIntervalEnd s = .next (State.schedule { s with hlc := { s.hlc with line := .free } }) := by
  change execQuietIntervalEnd s = _
  rw [execQuietIntervalEnd, h]
  dsimp only
  rw [ht]
  rfl

/-- Settles O28. -/
theorem linkTransactionsBegin : Obligations.LinkTransactionsBegin := by
  refine ⟨fun s r h => ⟨fun t => exec_quietIntervalEnd_of_some h, exec_quietIntervalEnd_of_none h⟩, fun s t h => ?_,
    fun s j => ⟨s.transactionOf_junctionProbe j, s.transactionOf_orderedProbe j, fun _ => State.transactionOf_step,
      fun _ => State.transactionOf_step, fun _ => State.transactionOf_step⟩,
    fun s i x hx => ⟨State.transactionOf_poll (.inl rfl) hx, State.transactionOf_poll (.inr rfl) hx, ?_⟩,
    Transaction.sends_cases, fun b => ⟨rfl, charGood_sentChar b⟩, rfl, charAnswer_iff⟩
  · rw [exec_characterTimeout h]
    exact ⟨fun hstale => ⟨fun j hr => congrArg _ (State.transactionEnds_of_step _ _ hstale hr),
        fun j hr => congrArg _ (State.transactionEnds_of_junctionProbe _ _ hstale hr),
        fun i hr => congrArg _ (State.transactionEnds_of_headProbe _ _ hstale hr),
        fun i hr => congrArg _ (State.transactionEnds_of_head _ _ hstale hr)⟩,
      fun hstale => ⟨fun i ask hr => congrArg _ (State.transactionEnds_of_stale_scanner _ _ hstale hr),
        fun hr => congrArg _ (State.transactionEnds_of_stale _ _ hstale hr)⟩⟩
  · simp only [State.transactionOf, hx, Option.map_some, State.headTransaction, ScannerAsk.command]
    simp

end Sys2Proof.Machine

/-! PROOF. The outcome of a transaction (R79), the check codes (R173), and the ends of the link's transactions (R83 to R85, R90). -/
namespace Sys2Proof.Machine

/-! ## The check codes -/

/-- A step taken a number of times, the number counted down or counted along. -/
theorem foldl_range_const {α : Type} (step : α → α) (n : Nat) (x : α) :
    (List.range n).foldl (fun x _ => step x) x = step^[n] x := by
  induction n with
  | zero => rfl
  | succ n ih => rw [List.range_succ, List.foldl_append, ih, Function.iterate_succ_apply']; rfl

theorem crc16Bits_eq_iterate (n : Nat) (c : Half) : crc16Bits n c = crc16Bit^[n] c := by
  induction n generalizing c with
  | zero => rfl
  | succ n ih => rw [crc16Bits, ih, Function.iterate_succ_apply]

theorem crc8Bits_eq_iterate (n : Nat) (c : Byte) : crc8Bits n c = crc8Bit^[n] c := by
  induction n generalizing c with
  | zero => rfl
  | succ n ih => rw [crc8Bits, ih, Function.iterate_succ_apply]

/-- R173: one bit of the CRC-16, by its top bit. -/
theorem crc16Bit_eq (c : Half) : crc16Bit c = if c.getLsbD 15 = true then (c <<< 1) ^^^ 0x1021 else c <<< 1 := by
  rw [crc16Bit, BitVec.msb_eq_getLsbD_last]
  rfl

/-- R173: one bit of the CRC-8, by its top bit. -/
theorem crc8Bit_eq (c : Byte) : crc8Bit c = if c.getLsbD 7 = true then (c <<< 1) ^^^ 0x07 else c <<< 1 := by
  rw [crc8Bit, BitVec.msb_eq_getLsbD_last]
  rfl

theorem crc16_append_singleton (bs : List Byte) (b : Byte) :
    crc16 (bs ++ [b]) = (List.range 8).foldl
      (fun (c : Half) _ => if c.getLsbD 15 = true then (c <<< 1) ^^^ 0x1021 else c <<< 1)
      (crc16 bs ^^^ (b.zeroExtend 16 <<< 8)) := by
  simp only [← crc16Bit_eq]
  rw [foldl_range_const, ← crc16Bits_eq_iterate, crc16, List.foldl_append]
  rfl

theorem crc8_append_singleton (bs : List Byte) (b : Byte) :
    crc8 (bs ++ [b]) = (List.range 8).foldl
      (fun (c : Byte) _ => if c.getLsbD 7 = true then (c <<< 1) ^^^ 0x07 else c <<< 1) (crc8 bs ^^^ b) := by
  simp only [← crc8Bit_eq]
  rw [foldl_range_const, ← crc8Bits_eq_iterate, crc8, List.foldl_append]
  rfl

/-- R173: the check value of the CRC-16 over "123456789". -/
theorem crc16_digits : crc16 [0x31, 0x32, 0x33, 0x34, 0x35, 0x36, 0x37, 0x38, 0x39] = 0x29B1 := by decide +kernel

/-- R173: the check value of the CRC-8 over the same string. -/
theorem crc8_digits : crc8 [0x31, 0x32, 0x33, 0x34, 0x35, 0x36, 0x37, 0x38, 0x39] = 0xF4 := by decide +kernel

/-! ## The outcome of a transaction -/

/-- R79: the characters of a read, with the check in checked mode. -/
def LinkMode.wanted (mode : LinkMode) (n : Nat) : Nat := if mode = .checked then n + 1 else n

theorem LinkMode.le_wanted (mode : LinkMode) (n : Nat) : n ≤ mode.wanted n := by
  unfold LinkMode.wanted
  split <;> omega

section Judge
variable {t : Transaction} {c : LinkChar} {rest : List LinkChar} {mode : LinkMode}

/-- R79: an ACK in a mode that is not accepted. -/
theorem Transaction.judge_of_wrong_mode (hc : charAnswer c = some mode.ack) (h : ¬ t.accepts mode = true) :
    t.judge (c :: rest) = (.modeMismatch, []) := by
  cases mode <;> simp only [Transaction.judge, hc, LinkMode.ack, if_neg h]

/-- R79: an ACK in a mode that is accepted. -/
theorem Transaction.judge_of_accepted (hc : charAnswer c = some mode.ack) (h : t.accepts mode = true) :
    t.judge (c :: rest) = t.afterAck mode rest := by
  cases mode <;> simp only [Transaction.judge, hc, LinkMode.ack, if_pos h]

/-- R79: after the ACK of a write nothing more comes. -/
theorem Transaction.afterAck_of_write (h : t.command.readLength = 0) : t.afterAck mode rest = (.good, []) := if_pos h

/-- R79: what follows the ACK of a read. -/
theorem Transaction.afterAck_of_read (h : 0 < t.command.readLength) :
    let n := t.command.readLength
    let wanted := rest.take (mode.wanted n)
    let data := (rest.take n).map (·.data)
    t.afterAck mode rest =
      if rest.length < mode.wanted n then (.timeout, [])
      else if (!wanted.all charGood) = true then (.charError, [])
      else if mode = .checked ∧ (wanted.drop n).map (·.data) ≠ [t.check data] then (.charError, [])
      else (.good, data) := by
  intro n wanted data
  have htake : (wanted.take n).map (·.data) = data := by
    rw [List.take_take, Nat.min_eq_left (mode.le_wanted n)]
  rw [← htake]
  exact if_neg (Nat.ne_of_gt h)

theorem Transaction.afterAck_of_short (h : 0 < t.command.readLength)
    (hshort : rest.length < mode.wanted t.command.readLength) : t.afterAck mode rest = (.timeout, []) :=
  (Transaction.afterAck_of_read h).trans (if_pos hshort)

theorem Transaction.afterAck_of_bad (h : 0 < t.command.readLength)
    (hlength : mode.wanted t.command.readLength ≤ rest.length)
    (hbad : ∃ x ∈ rest.take (mode.wanted t.command.readLength), charGood x = false) :
    t.afterAck mode rest = (.charError, []) := by
  refine (Transaction.afterAck_of_read h).trans ((if_neg (Nat.not_lt.mpr hlength)).trans (if_pos ?_))
  obtain ⟨x, hx, hgood⟩ := hbad
  rw [Bool.not_eq_true', List.all_eq_false]
  exact ⟨x, hx, by simp [hgood]⟩

theorem Transaction.afterAck_of_good (h : 0 < t.command.readLength)
    (hlength : mode.wanted t.command.readLength ≤ rest.length)
    (hgood : ∀ x ∈ rest.take (mode.wanted t.command.readLength), charGood x = true) :
    let n := t.command.readLength
    let data := (rest.take n).map (·.data)
    t.afterAck mode rest =
      if mode = .checked ∧ ((rest.take (mode.wanted n)).drop n).map (·.data) ≠ [t.check data] then (.charError, [])
      else (.good, data) :=
  (Transaction.afterAck_of_read h).trans ((if_neg (Nat.not_lt.mpr hlength)).trans
    (if_neg (by simp [List.all_eq_true.mpr hgood])))

theorem Transaction.afterAck_of_plain (h : 0 < t.command.readLength) (hlength : t.command.readLength ≤ rest.length)
    (hgood : ∀ x ∈ rest.take t.command.readLength, charGood x = true) :
    t.afterAck .plain rest = (.good, (rest.take t.command.readLength).map (·.data)) :=
  (Transaction.afterAck_of_good (mode := .plain) h hlength hgood).trans (if_neg fun hchecked => nomatch hchecked.1)

theorem Transaction.afterAck_of_checked (h : 0 < t.command.readLength)
    (hgood : ∀ x ∈ rest.take (t.command.readLength + 1), charGood x = true) {check : LinkChar}
    (hcheck : rest[t.command.readLength]? = some check) :
    let data := (rest.take t.command.readLength).map (·.data)
    t.afterAck .checked rest = if check.data = t.check data then (.good, data) else (.charError, []) := by
  intro data
  obtain ⟨hlength, hget⟩ := List.getElem?_eq_some_iff.mp hcheck
  have hlast : (rest.take (t.command.readLength + 1)).drop t.command.readLength = [check] := by
    rw [List.take_succ_eq_append_getElem hlength, hget, List.drop_append_of_le_length (by simp; omega),
      List.drop_eq_nil_of_le (by simp), List.nil_append]
  refine (Transaction.afterAck_of_good (mode := .checked) h hlength hgood).trans ?_
  have hdrop : ((rest.take (LinkMode.checked.wanted t.command.readLength)).drop t.command.readLength).map (·.data) =
      [check.data] := congrArg (List.map (·.data)) hlast
  rw [hdrop]
  by_cases h : check.data = t.check data
  · rw [if_pos h, if_neg (by simp [h, data])]
  · rw [if_neg h, if_pos ⟨rfl, by simpa [data] using h⟩]

end Judge

/-- R79: the outcome of a transaction, row by row. -/
theorem Transaction.judge_cases (t : Transaction) (c : LinkChar) (rest : List LinkChar) (mode : LinkMode)
    (hc : charAnswer c = some mode.ack) :
    (t.command ≠ .setMode → t.expected ≠ some mode → t.judge (c :: rest) = (.modeMismatch, [])) ∧
    (t.command = .setMode ∨ t.expected = some mode →
      let n := t.command.readLength
      let all := if mode = .checked then n + 1 else n
      let data := (rest.take n).map (·.data)
      (n = 0 → t.judge (c :: rest) = (.good, [])) ∧
      (0 < n → rest.length < all → t.judge (c :: rest) = (.timeout, [])) ∧
      (0 < n → all ≤ rest.length → (∃ x ∈ rest.take all, charGood x = false) →
        t.judge (c :: rest) = (.charError, [])) ∧
      (0 < n → (∀ x ∈ rest.take all, charGood x = true) →
        (∀ check, mode = .checked → rest[n]? = some check →
          t.judge (c :: rest) =
            if check.data = t.check data then (.good, data) else (.charError, [])) ∧
        (mode = .plain → n ≤ rest.length → t.judge (c :: rest) = (.good, data)))) := by
  refine ⟨fun hcommand hexpected => Transaction.judge_of_wrong_mode hc fun h => ?_, fun h => ?_⟩
  · exact ((t.accepts_iff mode).mp h).elim hcommand hexpected
  · rw [Transaction.judge_of_accepted hc ((t.accepts_iff mode).mpr h)]
    refine ⟨Transaction.afterAck_of_write, Transaction.afterAck_of_short, Transaction.afterAck_of_bad, fun hn hgood => ⟨?_, ?_⟩⟩
    · rintro check rfl hcheck
      exact Transaction.afterAck_of_checked hn hgood hcheck
    · rintro rfl hlength
      exact Transaction.afterAck_of_plain hn hlength hgood

/-! ## The ends of transactions -/

/-- R79: what an end of a transaction does where the request is one of its kind. -/
theorem State.receive_of_busy {s : State} {p : LinkRequest → Bool} {received : List LinkChar} {t : Transaction}
    {outcome : TxOutcome} {data : List Byte} (hline : s.hlc.line = .busy t) (hp : p t.request = true)
    (hjudge : t.judge received = (outcome, data)) : s.receive p received = s.transactionEnds t outcome data := by
  rw [State.receive, hline]
  dsimp only
  rw [if_pos hp, hjudge]

section Ends
variable {s : State} {t : Transaction} {received : List LinkChar} {outcome : TxOutcome} {data : List Byte}
  (hline : s.hlc.line = .busy t) (hjudge : t.judge received = (outcome, data))
include hline hjudge

theorem exec_housekeepingEnd_of_step {j : JunctionId} (hr : t.request = .step j) :
    exec (.housekeepingEnd received) s = .next (s.transactionEnds t outcome data) :=
  congrArg Host.Outcome.next (State.receive_of_busy hline (by rw [hr]) hjudge)

theorem exec_junctionProbeEnd_of_probe {j : JunctionId} (hr : t.request = .orderedProbe j ∨ t.request = .junctionProbe j) :
    exec (.junctionProbeEnd received) s = .next (s.transactionEnds t outcome data) :=
  congrArg Host.Outcome.next (State.receive_of_busy hline (by obtain hr | hr := hr <;> rw [hr]) hjudge)

theorem exec_headProbeEnd_of_probe {i : Nat} (hr : t.request = .headProbe i) :
    exec (.headProbeEnd received) s = .next (s.transactionEnds t outcome data) :=
  congrArg Host.Outcome.next (State.receive_of_busy hline (by rw [hr]) hjudge)

theorem exec_headTransactionEnd_of_head {i : Nat}
    (hr : t.request = .member i ∨ t.request = .stroke i ∨ t.request = .scannerStatus i ∨
      (∃ ask, t.request = .scanner i ask)) :
    exec (.headTransactionEnd received) s = .next (s.transactionEnds t outcome data) :=
  congrArg Host.Outcome.next
    (State.receive_of_busy hline (by obtain hr | hr | hr | ⟨ask, hr⟩ := hr <;> rw [hr]) hjudge)

end Ends

/-- Settles O29. -/
theorem linkTransactionsEnd : Obligations.LinkTransactionsEnd := by
  refine ⟨fun s t received outcome data hline hjudge => ⟨fun hstale => ⟨fun j hr => ?_, fun j hr => ?_, fun i hr => ?_,
      fun i hr => ?_⟩, fun hstale => ⟨fun j hr => ?_, fun j hr => ?_, fun i hr => ?_, fun i hr => ?_, fun i ask hr => ?_⟩⟩,
    fun t => ⟨rfl, fun c rest => ⟨fun hc => ?_, fun hc => ?_, fun hc => ?_, fun mode hmode => ?_⟩⟩, charGood_iff, rfl,
    fun t data => ?_, rfl, rfl, fun bs b => ⟨crc16_append_singleton bs b, crc8_append_singleton bs b⟩,
    crc16_digits, crc8_digits⟩
  · exact (exec_housekeepingEnd_of_step hline hjudge hr).trans
      (congrArg _ (State.transactionEnds_of_step _ _ hstale hr))
  · exact (exec_junctionProbeEnd_of_probe hline hjudge hr).trans
      (congrArg _ (State.transactionEnds_of_junctionProbe _ _ hstale hr))
  · exact (exec_headProbeEnd_of_probe hline hjudge hr).trans
      (congrArg _ (State.transactionEnds_of_headProbe _ _ hstale hr))
  · exact (exec_headTransactionEnd_of_head hline hjudge hr).trans
      (congrArg _ (State.transactionEnds_of_head _ _ hstale hr))
  · exact (exec_housekeepingEnd_of_step hline hjudge hr).trans
      (congrArg _ (State.transactionEnds_of_stale _ _ hstale (by simp [hr])))
  · exact (exec_junctionProbeEnd_of_probe hline hjudge hr).trans
      (congrArg _ (State.transactionEnds_of_stale _ _ hstale (by obtain hr | hr := hr <;> simp [hr])))
  · exact (exec_headProbeEnd_of_probe hline hjudge hr).trans
      (congrArg _ (State.transactionEnds_of_stale _ _ hstale (by simp [hr])))
  · exact (exec_headTransactionEnd_of_head hline hjudge (hr.imp_right fun h => h.imp_right .inl)).trans
      (congrArg _ (State.transactionEnds_of_stale _ _ hstale (by obtain hr | hr | hr := hr <;> simp [hr])))
  · exact (exec_headTransactionEnd_of_head hline hjudge (.inr (.inr (.inr ⟨ask, hr⟩)))).trans
      (congrArg _ (State.transactionEnds_of_stale_scanner _ _ hstale hr))
  · rw [Transaction.judge, hc]
  · rw [Transaction.judge, hc]
  · rw [Transaction.judge, hc]
  · refine t.judge_cases c rest mode ?_
    simp only [List.mem_cons, Prod.mk.injEq, List.not_mem_nil, or_false] at hmode
    obtain ⟨hc, rfl⟩ | ⟨hc, rfl⟩ := hmode <;> exact hc
  · rw [Transaction.check, t.select_eq]
    rfl

end Sys2Proof.Machine

/-! PROOF. The junctions' sequences, failures and probes (R81 to R85). -/
namespace Sys2Proof.Machine

/-! ## A junction's record -/

@[simp] theorem Hlc.junction_setJunction (h : Hlc) (j : JunctionId) (r : Junction) : (h.setJunction j r).junction j = r := by
  cases j <;> rfl

@[simp] theorem Hlc.setJunction_setJunction (h : Hlc) (j : JunctionId) (r q : Junction) :
    (h.setJunction j r).setJunction j q = h.setJunction j q := by
  cases j <;> rfl

@[simp] theorem Hlc.setJunction_housekeeping (h : Hlc) (j : JunctionId) (r : Junction) :
    (h.setJunction j r).housekeeping = h.housekeeping := by
  cases j <;> rfl

theorem Hlc.scheduling_iff (h : Hlc) :
    h.scheduling = true ↔ (h.runSeen = .running ∨ h.runSeen = .stopping) ∧ h.mapInForce = true := by
  simp [Hlc.scheduling]

/-- R82, R92: class 1 holds one step for each junction, while the scheduler runs. -/
theorem Hlc.queueStep_eq (h : Hlc) (j : JunctionId) : h.queueStep j =
    if (h.runSeen = .running ∨ h.runSeen = .stopping) ∧ h.mapInForce = true ∧ .step j ∉ h.housekeeping then
      { h with housekeeping := h.housekeeping ++ [.step j] } else h := by
  unfold Hlc.queueStep
  refine if_congr ?_ rfl rfl
  rw [Bool.and_eq_true, Hlc.scheduling_iff, and_assoc]
  simp

/-- R82: the next step of a sequence, of a junction's record just replaced. -/
theorem Hlc.nextStep_setJunction (h : Hlc) (j : JunctionId) (r : Junction) (kind : SequenceKind) (step : SequenceStep) :
    (h.setJunction j r).nextStep j kind step = (h.setJunction j { r with sequence := some ⟨kind, step⟩ }).queueStep j := by
  rw [Hlc.nextStep, Hlc.junction_setJunction, Hlc.setJunction_setJunction]

theorem Hlc.beginSequence_setJunction (h : Hlc) (j : JunctionId) (r : Junction) (state : JunctionState)
    (kind : SequenceKind) :
    (h.setJunction j r).beginSequence j state kind =
      (h.setJunction j { r with state := state, sequence := some ⟨kind, kind.first⟩ }).queueStep j := by
  rw [Hlc.beginSequence, Hlc.junction_setJunction, Hlc.setJunction_setJunction]

/-! ## A step that ends -/

section HousekeepingStep
variable {s : State} {t : Transaction} {j : JunctionId} {q : LinkSequence} {data : List Byte}
  (hq : (s.hlc.junction j).sequence = some q)
include hq

theorem State.housekeepingStep_of_failed {outcome : TxOutcome} (h : outcome ≠ .good) :
    s.housekeepingStep t j outcome data = s.junctionFails j outcome.code (outcome == .modeMismatch) := by
  rw [State.housekeepingStep, hq]
  exact if_pos h

/-- Log 17: a step of a sequence begun again since, with another command than the present step's. -/
theorem State.housekeepingStep_of_other (h : t.command ≠ q.step.command) : s.housekeepingStep t j .good data = s := by
  rw [State.housekeepingStep, hq]
  exact (if_neg (not_not_intro rfl)).trans (if_pos h)

/-- R83: a step that ends GOOD, by the step. -/
theorem State.housekeepingStep_of_good (h : t.command = q.step.command) :
    s.housekeepingStep t j .good data =
      match q.step with
      | .setMode =>
        let r := { s.hlc.junction j with modeSeen := some (modeOfPayload t.payload), sequence := some q }
        { s with hlc := (s.hlc.setJunction j r).nextStep j q.kind .clear }
      | .clear =>
        match q.kind with
        | .recover => { s with hlc := s.hlc.junctionReady j }
        | .sync => { s with hlc := s.hlc.nextStep j q.kind .jstatus }
      | .jstatus =>
        if some (statusMode data) ≠ (s.hlc.junction j).modeSeen then s.junctionFails j 6 true
        else if (fieldAt data 0 1).testBit 1 = true then s.junctionFails j 6 false
        else { s with hlc := s.hlc.junctionReady j } := by
  rw [State.housekeepingStep, hq]
  exact (if_neg (not_not_intro rfl)).trans (if_neg (not_not_intro h))

theorem State.housekeepingStep_of_setMode (hstep : q.step = .setMode) (h : t.command = .setMode) :
    s.housekeepingStep t j .good data =
      { s with hlc := Hlc.queueStep (s.hlc.setJunction j { s.hlc.junction j with
        modeSeen := some (modeOfPayload t.payload), sequence := some ⟨q.kind, .clear⟩ }) j } := by
  rw [State.housekeepingStep_of_good hq (by rw [hstep]; exact h), hstep]
  dsimp only
  rw [Hlc.nextStep_setJunction]

theorem State.housekeepingStep_of_recover (hstep : q.step = .clear) (h : t.command = .clear) (hkind : q.kind = .recover) :
    s.housekeepingStep t j .good data = { s with hlc := s.hlc.junctionReady j } := by
  rw [State.housekeepingStep_of_good hq (by rw [hstep]; exact h), hstep, hkind]

theorem State.housekeepingStep_of_sync (hstep : q.step = .clear) (h : t.command = .clear) (hkind : q.kind = .sync) :
    s.housekeepingStep t j .good data = { s with hlc := s.hlc.nextStep j .sync .jstatus } := by
  rw [State.housekeepingStep_of_good hq (by rw [hstep]; exact h), hstep, hkind]

/-- R83: a JSTATUS that ends GOOD. -/
theorem State.housekeepingStep_of_jstatus (hstep : q.step = .jstatus) (h : t.command = .jstatus) :
    s.housekeepingStep t j .good data =
      if some (statusMode data) ≠ (s.hlc.junction j).modeSeen then s.junctionFails j 6 true
      else if (fieldAt data 0 1).testBit 1 = true then s.junctionFails j 6 false
      else { s with hlc := s.hlc.junctionReady j } := by
  rw [State.housekeepingStep_of_good hq (by rw [hstep]; exact h), hstep]

end HousekeepingStep

/-! ## Failures -/

section JunctionFails
variable {s : State} {j : JunctionId} (code : Nat)

/-- R83: the third failure makes the junction DOWN. -/
theorem State.junctionFails_third (wrongMode : Bool) (h : 2 ≤ (s.hlc.junction j).failures) :
    s.junctionFails j code wrongMode = s.junctionDown j code := if_pos (by omega)

/-- R83, R84: an earlier failure begins the sequence again. -/
theorem State.junctionFails_early (wrongMode : Bool) (h : (s.hlc.junction j).failures < 2) :
    let r := s.hlc.junction j
    let kind := if wrongMode = true then .sync else (r.sequence.map (·.kind)).getD .recover
    let state := if wrongMode = true then .resync else r.state
    s.junctionFails j code wrongMode = { s with
      hlc := (s.hlc.setJunction j ⟨state, r.failures + 1, r.modeSeen, some ⟨kind, kind.first⟩, r.downSince⟩).queueStep j } := by
  intro r kind state
  refine (if_neg (by omega)).trans ?_
  dsimp only [State.modHlc]
  rw [Hlc.beginSequence_setJunction]

theorem State.junctionFails_wrong_mode (h : (s.hlc.junction j).failures < 2) :
    let r := s.hlc.junction j
    s.junctionFails j code true = { s with
      hlc := (s.hlc.setJunction j
        ⟨.resync, r.failures + 1, r.modeSeen, some ⟨.sync, .setMode⟩, r.downSince⟩).queueStep j } :=
  State.junctionFails_early code true h

theorem State.junctionFails_again {q : LinkSequence} (h : (s.hlc.junction j).failures < 2)
    (hq : (s.hlc.junction j).sequence = some q) :
    let r := s.hlc.junction j
    s.junctionFails j code false = { s with
      hlc := (s.hlc.setJunction j ⟨r.state, r.failures + 1, r.modeSeen,
        some ⟨q.kind, if q.kind = .sync then .setMode else .clear⟩, r.downSince⟩).queueStep j } := by
  intro r
  have hfirst : q.kind.first = if q.kind = .sync then .setMode else .clear := by cases q.kind <;> rfl
  rw [State.junctionFails_early code false h, hq, ← hfirst]
  rfl

end JunctionFails

/-! ## What head transactions and probes tell of a junction -/

section HeadJunction
variable {s : State} {j : JunctionId} {outcome : TxOutcome}

theorem State.headJunction_of_kept (h : (s.hlc.junction j).state ≠ .ready ∨ outcome = .good ∨ outcome = .nakEmpty) :
    s.headJunction j outcome = s := by
  unfold State.headJunction
  split
  next => rfl
  next hready => obtain rfl | rfl := h.resolve_left hready <;> rfl

theorem State.headJunction_of_latched (hready : (s.hlc.junction j).state = .ready)
    (h : outcome = .timeout ∨ outcome = .charError ∨ outcome = .nakLatched) :
    s.headJunction j outcome = { s with hlc := Hlc.queueStep (s.hlc.setJunction j { s.hlc.junction j with
      state := .latched, sequence := some ⟨.recover, .clear⟩ }) j } := by
  refine (if_neg (not_not_intro hready)).trans ?_
  obtain rfl | rfl | rfl := h <;> rfl

theorem State.headJunction_of_mismatch (hready : (s.hlc.junction j).state = .ready) :
    s.headJunction j .modeMismatch = s.junctionFails j TxOutcome.modeMismatch.code true :=
  if_neg (not_not_intro hready)

end HeadJunction

section JunctionProbed
variable {s : State} {t : Transaction} {j : JunctionId} {outcome : TxOutcome}

theorem State.junctionProbed_of_kept (h : (s.hlc.junction j).state ≠ .down ∨ outcome ≠ .good) :
    s.junctionProbed t j outcome = s :=
  if_neg fun ⟨hdown, hgood⟩ => h.elim (· hdown) (· hgood)

theorem State.junctionProbed_of_restored {since : Word} (hdown : (s.hlc.junction j).state = .down)
    (hsince : (s.hlc.junction j).downSince = some since) :
    s.junctionProbed t j .good = State.postNote
      { s with hlc := s.hlc.setJunction j ⟨.ready, 0, some (modeOfPayload t.payload), none, none⟩ }
      .junctionRestored j.code (s.rif.runTime - since) := by
  refine (if_pos ⟨hdown, rfl⟩).trans ?_
  rw [hsince]
  rfl

end JunctionProbed

/-- Settles O30. -/
theorem junctionSequences : Obligations.JunctionSequences := by
  refine ⟨?_, fun s j code wrongMode => ⟨State.junctionFails_third code wrongMode, ?_, ?_⟩,
    fun s j outcome => ⟨State.headJunction_of_kept, fun hready => ⟨State.headJunction_of_latched hready, ?_⟩⟩,
    fun s t j outcome => ⟨State.junctionProbed_of_kept, ?_⟩, Hlc.queueStep_eq⟩
  · intro s t j q data hq r put ready stepCommand mode shown
    have hcommand : q.step.command = stepCommand := by
      simp only [stepCommand]
      cases q.step <;> rfl
    refine ⟨fun outcome => State.housekeepingStep_of_failed hq, fun h => State.housekeepingStep_of_other hq (hcommand ▸ h),
      State.housekeepingStep_of_setMode hq, State.housekeepingStep_of_recover hq, State.housekeepingStep_of_sync hq,
      fun hstep h => ?_⟩
    have hjstatus := State.housekeepingStep_of_jstatus (data := data) hq hstep h
    exact ⟨fun hmode => hjstatus.trans (if_pos hmode.symm),
      fun hmode hlatch => hjstatus.trans ((if_neg (not_not_intro hmode.symm)).trans (if_pos hlatch)),
      fun hmode hlatch => hjstatus.trans
        ((if_neg (not_not_intro hmode.symm)).trans (if_neg (Bool.eq_false_iff.mp hlatch)))⟩
  · rintro h rfl
    exact State.junctionFails_wrong_mode code h
  · rintro q h rfl hq
    exact State.junctionFails_again code h hq
  · rintro rfl
    exact State.headJunction_of_mismatch hready
  · rintro since hdown rfl hsince
    exact State.junctionProbed_of_restored hdown hsince

end Sys2Proof.Machine

/-! PROOF. The charges of a head (R88 to R90), and what the end of its transaction hands on (R84, R91, R93 to R95). -/
namespace Sys2Proof.Machine

/-! ## Charges, confirmation and probes -/

/-- R88: the state after a charge, by the table. -/
theorem chargedState_eq {counter : Nat} (h : counter ≤ 16) :
    chargedState .active counter = (if 8 ≤ counter then (.suspect, some .headSuspect) else (.active, none)) ∧
    chargedState .suspect counter = (if counter = 16 then (.dropped, some .headDropped)
      else if counter < 4 then (.active, none) else (.suspect, none)) ∧
    chargedState .unconfirmed counter =
      (if counter = 16 then (.dropped, some .headDropped) else (.unconfirmed, none)) ∧
    chargedState .dropped counter = (.dropped, none) ∧ chargedState .mismatch counter = (.mismatch, none) := by
  have hfull : (16 ≤ counter) = (counter = 16) := propext (by omega)
  simp only [chargedState, hfull, and_self]

theorem not_eq_true_of_eq_false {b : Bool} (h : b = false) : (!b) = true := by
  rw [h]
  rfl

theorem not_ne_true_of_eq_true {b : Bool} (h : b = true) : ¬ (!b) = true := by
  rw [h]
  decide

section StatusData
variable {s : State} {i : Nat} {x : Head} {data : List Byte}

theorem statusKindOk_iff : statusKindOk x data = true ↔ fieldAt data 0 1 = x.kind.code := beq_iff_eq

/-- R89: what a confirming STATUS read that ended GOOD does. -/
theorem State.confirmHead_of_other_kind (h : fieldAt data 0 1 ≠ x.kind.code) :
    s.confirmHead i x data = s.setHead i (x.counter - 1) .mismatch (some .headMismatch) (fieldAt data 0 1) :=
  if_pos (by simpa [statusKindOk] using h)

theorem State.confirmHead_of_kind (h : fieldAt data 0 1 = x.kind.code) :
    s.confirmHead i x data =
      if (!(fieldAt data 1 1).testBit 0) = true then s.setHead i (x.counter - 1) .unconfirmed none 0
      else if x.counter - 1 < 8 then s.setHead i (x.counter - 1) .active none 0
      else s.setHead i (x.counter - 1) .suspect (some .headSuspect) (x.counter - 1) :=
  if_neg (by simp [statusKindOk_iff.mpr h])

/-- R90: what a probe of a DROPPED head that ended GOOD does. -/
theorem State.probeHead_of_other_kind (h : fieldAt data 0 1 ≠ x.kind.code) :
    s.probeHead i x .good data = s.setHead i x.counter .mismatch (some .headMismatch) (fieldAt data 0 1) :=
  if_pos (by simpa [statusKindOk] using h)

theorem State.probeHead_of_kind (h : fieldAt data 0 1 = x.kind.code) :
    s.probeHead i x .good data =
      if x.counter - 4 < 8 then s.setHead i (x.counter - 4) .active (some .headReadmitted) (x.counter - 4)
      else s.setHead i (x.counter - 4) .dropped none 0 :=
  if_neg (by simp [statusKindOk_iff.mpr h])

theorem State.probeHead_of_failed {outcome : TxOutcome}
    (h : outcome = .timeout ∨ outcome = .charError ∨ outcome = .nakEmpty) :
    s.probeHead i x outcome data = s.setHead i (min 16 (x.counter + 1)) .dropped none 0 := by
  obtain rfl | rfl | rfl := h <;> rfl

end StatusData

/-! ## The end of a head transaction -/

section HeadEnds
variable {s : State} {i : Nat} {x : Head} {t : Transaction} {outcome : TxOutcome} {data : List Byte}
  (hx : s.hlc.heads[i]? = some x)
include hx

theorem State.headEnds_eq : s.headEnds i t outcome data =
    if outcome = .nakLatched ∨ outcome = .modeMismatch then (s.headJunction t.junction outcome).requeue t
    else (((((s.headJunction t.junction outcome).settleHead i x t outcome data).keepReading i t outcome data).handResult i x
      t outcome data)).announceHead i x.state := by
  rw [State.headEnds, hx]

theorem State.headProbeEnds_eq : s.headProbeEnds i t outcome data =
    if outcome = .nakLatched ∨ outcome = .modeMismatch then (s.headJunction t.junction outcome).requeue t
    else
      let probed := (s.headJunction t.junction outcome).judgeProbe i x t outcome data
      (if outcome = .good then probed else probed.handFailed i x).announceHead i x.state := by
  rw [State.headProbeEnds, hx]

end HeadEnds

/-! ## What a transaction hands on -/

theorem Hlc.headState_of_head {h : Hlc} {i : Nat} {x : Head} (hx : h.heads[i]? = some x) : h.headState i = some x.state := by
  rw [Hlc.headState, hx, Option.map_some]

theorem State.deliver_of_head {s : State} {i : Nat} {x : Head} (hx : s.hlc.heads[i]? = some x) (round : Nat)
    (outcome : DeliveryOutcome) : s.deliver round i outcome = s.hand (.delivery ⟨round, i, outcome, x.state⟩) := by
  rw [State.deliver, Hlc.headState_of_head hx]

section HandResult
variable {s : State} {i : Nat} {x now : Head} {t : Transaction} {outcome : TxOutcome} {data : List Byte}
  (hnow : s.hlc.heads[i]? = some now)
include hnow

/-- R93: a round member's result. -/
theorem State.handResult_of_member (hr : t.request = .member i) :
    s.handResult i x t outcome data = s.hand (.delivery ⟨t.round, i,
      if t.command = .status then .notPolled
      else if outcome = .good then .reading (readingOf data).1 (readingOf data).2 else .failed, now.state⟩) := by
  rw [State.handResult, hr]
  exact State.deliver_of_head hnow _ _

/-- R94: a stroke poll's result. -/
theorem State.handResult_of_stroke {side : Side} (hr : t.request = .stroke i) (hside : x.side = some side) :
    s.handResult i x t outcome data =
      if outcome ≠ .good then s.hand (.strokePoll side .failed now.state)
      else if t.command = .reading then
        s.hand (.strokePoll side (.reading (readingOf data).1 (readingOf data).2) now.state)
      else s := by
  rw [State.handResult, hr, hside, Hlc.headState_of_head hnow]

theorem State.handFailed_of_levelling (hkind : x.kind = .sonic ∨ x.kind = .slope) :
    s.handFailed i x = s.hand (.headFailedToLvc i now.state) := by
  obtain hkind | hkind := hkind <;> rw [State.handFailed, Hlc.headState_of_head hnow, hkind]

theorem State.handFailed_of_stroke {side : Side} (hkind : x.kind = .stroke) (hside : x.side = some side) :
    s.handFailed i x = s.hand (.strokePoll side .failed now.state) := by
  rw [State.handFailed, Hlc.headState_of_head hnow, hkind, hside]

theorem State.handFailed_of_scanner (hkind : x.kind = .scanner) :
    s.handFailed i x = s.hand (.scannerAnswer .statusFailed (some now.state)) := by
  rw [State.handFailed, Hlc.headState_of_head hnow, hkind]

end HandResult

section ScannerResult
variable {s : State} {i : Nat} {x : Head} {t : Transaction} {outcome : TxOutcome} {data : List Byte}

theorem State.handResult_of_scannerStatus (hr : t.request = .scannerStatus i) :
    s.handResult i x t outcome data = if outcome = .good then s else s.handFailed i x := by
  rw [State.handResult, hr]

theorem State.handResult_of_scanner {ask : ScannerAsk} (hr : t.request = .scanner i ask) :
    s.handResult i x t outcome data = s.answerScanner
      (if outcome = .good then .completed ask (if ask = .line then pointsOf data else []) else .failed) := by
  rw [State.handResult, hr]

end ScannerResult

/-! ## A request that stays waiting -/

/-- R84: an index is put in its place. -/
theorem insertIndex_of_split {i : Nat} {below above : List Nat} (hbelow : ∀ k ∈ below, k < i) (habove : ∀ k ∈ above, i ≤ k) :
    insertIndex i (below ++ above) = below ++ i :: above := by
  have hlow : ∀ k ∈ below, decide (k < i) = true := fun k hk => decide_eq_true (hbelow k hk)
  unfold insertIndex
  rw [List.takeWhile_append_of_pos hlow, List.dropWhile_append_of_pos hlow]
  cases above with
  | nil => simp
  | cons k above =>
    have hk : ¬ k < i := Nat.not_lt.mpr (habove k (by simp))
    simp [hk]

section Requeue
variable {s : State} {t : Transaction} {i : Nat}

theorem State.requeue_of_member (hr : t.request = .member i) :
    s.requeue t =
      if (s.hlc.scheduling && s.hlc.roundInProgress && s.hlc.roundNumber == t.round) = true then
        { s with hlc := { s.hlc with members := insertIndex i s.hlc.members } }
      else s.deliver t.round i .notPolled := by
  rw [State.requeue, hr]
  rfl

theorem roundOpen_iff (h : Hlc) (t : Transaction) :
    (h.scheduling && h.roundInProgress && h.roundNumber == t.round) = true ↔
      h.scheduling = true ∧ h.roundInProgress = true ∧ h.roundNumber = t.round := by
  simp [and_assoc]

theorem State.requeue_of_stroke (hr : t.request = .stroke i) :
    s.requeue t =
      if (s.hlc.scheduling && !s.hlc.strokes.contains i) = true then
        { s with hlc := { s.hlc with strokes := i :: s.hlc.strokes } }
      else s := by
  rw [State.requeue, hr]
  rfl

theorem State.requeue_of_scannerStatus (hr : t.request = .scannerStatus i) :
    s.requeue t =
      if s.hlc.scheduling = true then { s with hlc := { s.hlc with scanner := t.request :: s.hlc.scanner } } else s := by
  rw [State.requeue, hr]
  rfl

theorem State.requeue_of_scanner {ask : ScannerAsk} (hr : t.request = .scanner i ask) :
    s.requeue t =
      if s.hlc.scheduling = true then { s with hlc := { s.hlc with scanner := t.request :: s.hlc.scanner } }
      else s.answerScanner .notIssued := by
  rw [State.requeue, hr]
  rfl

theorem State.requeue_of_headProbe (hr : t.request = .headProbe i) :
    s.requeue t =
      if s.hlc.scheduling = true then { s with hlc := { s.hlc with probes := t.request :: s.hlc.probes } } else s := by
  rw [State.requeue, hr]
  rfl

end Requeue

/-! ## A head that changes its state -/

/-- R95: a request of the scanner. -/
def LinkRequest.isScanner : LinkRequest → Bool
  | .scanner _ _ => true
  | _ => false

/-- R95: the answer to scanner requests that are not issued. -/
def State.notIssued (s : State) (n : Nat) : List Waiting :=
  List.replicate n ⟨false, .scannerAnswer .notIssued s.hlc.scannerState⟩

/-- R92, R95: each scanner request among those dropped is answered once. -/
theorem State.refuseScanner_eq (s : State) (requests : List LinkRequest) :
    s.refuseScanner requests =
      { s with inbox := s.inbox ++ s.notIssued (requests.countP LinkRequest.isScanner) } := by
  have hanswers : (requests.filterMap fun r =>
      match r with
      | .scanner _ _ => some (Handoff.scannerAnswer .notIssued s.hlc.scannerState)
      | _ => none) = List.replicate (requests.countP LinkRequest.isScanner)
        (.scannerAnswer .notIssued s.hlc.scannerState) := by
    induction requests with
    | nil => rfl
    | cons r rest ih =>
      cases r <;> simp [LinkRequest.isScanner, ih, List.countP_cons, List.replicate_succ]
  refine (congrArg (s.handAll false) hanswers).trans ?_
  rw [State.handAll, List.map_replicate]
  rfl

/-- R92: a chosen request is taken back where it satisfies a test. -/
theorem Hlc.unchoose_eq (h : Hlc) (p : LinkRequest → Bool) :
    h.unchoose p = { h with line := match h.line with
      | .quiet r => if p r then .free else .quiet r
      | l => l } := by
  unfold Hlc.unchoose
  cases hl : h.line with
  | free => dsimp only; rw [← hl]
  | busy t => dsimp only; rw [← hl]
  | quiet r =>
    dsimp only
    split
    next => rfl
    next => rw [← hl]

section DropHead
variable {s : State} {i : Nat} {x : Head} (hx : s.hlc.heads[i]? = some x)
include hx

/-- R92, log 17: a head that becomes DROPPED or MISMATCH loses its requests. -/
theorem State.dropHead_eq (keepProbe : Bool) :
    let asked := (s.hlc.chosen ++ s.hlc.scanner).countP fun r => r.isScanner && r.ofHead i
    let member := s.hlc.members.contains i || s.hlc.chosen.contains (.member i)
    s.dropHead i keepProbe = { s with
      hlc := { s.hlc with
        members := s.hlc.members.filter (· != i), strokes := s.hlc.strokes.filter (· != i)
        scanner := s.hlc.scanner.filter fun r => !r.ofHead i
        probes := if keepProbe then s.hlc.probes else s.hlc.probes.filter (· != .headProbe i)
        line := match s.hlc.line with
          | .quiet r => if r.ofHead i || (!keepProbe && r == .headProbe i) then .free else .quiet r
          | l => l }
      inbox := s.inbox ++ s.notIssued asked ++
        if member then [⟨false, .delivery ⟨s.hlc.roundNumber, i, .notPolled, x.state⟩⟩] else [] } := by
  intro asked member
  have hasked : ((s.hlc.chosen ++ s.hlc.scanner).filter (LinkRequest.ofHead i)).countP LinkRequest.isScanner = asked :=
    List.countP_filter ..
  unfold State.dropHead
  simp only [State.refuseScanner_eq, hasked]
  split
  next hm =>
    have hdeliver := State.deliver_of_head (s := { s with inbox := s.inbox ++ s.notIssued asked }) hx s.hlc.roundNumber
      .notPolled
    rw [hdeliver]
    simp only [State.modHlc, State.hand, State.modInbox, Hlc.unchoose_eq, List.append_assoc]
  next hm =>
    simp only [State.modHlc, Hlc.unchoose_eq, List.append_nil]

/-- R91: what a change of state hands on. -/
theorem State.announceHead_of_same {old : HeadState} (h : x.state = old) : s.announceHead i old = s := by
  rw [State.announceHead, hx]
  exact if_pos h

theorem State.announceHead_of_change {old : HeadState} (h : x.state ≠ old) :
    let u : State := { s with inbox := s.inbox ++ (x.stateHand i).map (Waiting.mk false) }
    s.announceHead i old = if x.closed = true then u.dropHead i (x.state == .dropped) else u := by
  rw [State.announceHead, hx]
  exact if_neg h

theorem State.announceHead_of_dropped {old : HeadState} (h : x.state ≠ old) (hdropped : x.state = .dropped) :
    s.announceHead i old =
      State.dropHead { s with inbox := s.inbox ++ (x.stateHand i).map (Waiting.mk false) } i true :=
  (State.announceHead_of_change hx h).trans ((if_pos (by simp [Head.closed, hdropped])).trans (by rw [hdropped]; rfl))

theorem State.announceHead_of_mismatch {old : HeadState} (h : x.state ≠ old) (hmismatch : x.state = .mismatch) :
    s.announceHead i old =
      State.dropHead { s with inbox := s.inbox ++ (x.stateHand i).map (Waiting.mk false) } i false :=
  (State.announceHead_of_change hx h).trans ((if_pos (by simp [Head.closed, hmismatch])).trans (by rw [hmismatch]; rfl))

theorem State.announceHead_of_open {old : HeadState} (h : x.state ≠ old) (hdropped : x.state ≠ .dropped)
    (hmismatch : x.state ≠ .mismatch) :
    s.announceHead i old = { s with inbox := s.inbox ++ (x.stateHand i).map (Waiting.mk false) } :=
  (State.announceHead_of_change hx h).trans (if_neg (by simp [Head.closed, hdropped, hmismatch]))

end DropHead

/-- R92: the scanner requests of a head, and no other request, are answered when it is dropped. -/
theorem LinkRequest.isScanner_and_ofHead (i : Nat) (r : LinkRequest) :
    (r.isScanner && r.ofHead i) = match r with | .scanner k _ => k == i | _ => false := by
  cases r <;> rfl

/-! ## The statement -/

/-- R84, R88 to R90: how the end of a head transaction is judged. -/
theorem State.headTransaction_ends {s : State} {i : Nat} {x : Head} (t : Transaction) (outcome : TxOutcome)
    (data : List Byte) (hx : s.hlc.heads[i]? = some x) :
    let u := s.headJunction t.junction outcome
    (outcome = .nakLatched ∨ outcome = .modeMismatch → s.headEnds i t outcome data = u.requeue t ∧
      s.headProbeEnds i t outcome data = u.requeue t) ∧
    (outcome ≠ .nakLatched → outcome ≠ .modeMismatch →
      let settled := u.settleHead i x t outcome data
      let probed := if x.state = .dropped then u.probeHead i x outcome data else settled
      s.headEnds i t outcome data =
        ((settled.keepReading i t outcome data).handResult i x t outcome data).announceHead i x.state ∧
      (outcome = .good → s.headProbeEnds i t outcome data = probed.announceHead i x.state) ∧
      (outcome ≠ .good → s.headProbeEnds i t outcome data = (probed.handFailed i x).announceHead i x.state)) := by
  have hends := State.headEnds_eq (t := t) (outcome := outcome) (data := data) hx
  have hprobe := State.headProbeEnds_eq (t := t) (outcome := outcome) (data := data) hx
  refine ⟨fun h => ⟨hends.trans (if_pos h), hprobe.trans (if_pos h)⟩, fun h1 h2 => ?_⟩
  have hkept : ¬ (outcome = .nakLatched ∨ outcome = .modeMismatch) := not_or.mpr ⟨h1, h2⟩
  exact ⟨hends.trans (if_neg hkept),
    fun hgood => (hprobe.trans (if_neg hkept)).trans (congrArg (State.announceHead · i x.state) (if_pos hgood)),
    fun hgood => (hprobe.trans (if_neg hkept)).trans (congrArg (State.announceHead · i x.state) (if_neg hgood))⟩

/-- R84, R92, R94: where a request that has not been served waits. -/
theorem State.requeue_cases (s : State) (t : Transaction) :
    let put (h : Hlc) : State := { s with hlc := h }
    (∀ i, t.request = .member i →
      let inRound := s.hlc.scheduling = true ∧ s.hlc.roundInProgress = true ∧ s.hlc.roundNumber = t.round
      (∀ below above, inRound → s.hlc.members = below ++ above → (∀ k ∈ below, k < i) → (∀ k ∈ above, i ≤ k) →
        s.requeue t = put { s.hlc with members := below ++ i :: above }) ∧
      (¬ inRound → s.requeue t = s.deliver t.round i .notPolled)) ∧
    (∀ i, t.request = .stroke i →
      (s.hlc.scheduling = true → i ∉ s.hlc.strokes →
        s.requeue t = put { s.hlc with strokes := i :: s.hlc.strokes }) ∧
      (s.hlc.scheduling = false ∨ i ∈ s.hlc.strokes → s.requeue t = s)) ∧
    (∀ i, t.request = .scannerStatus i ∨ (∃ ask, t.request = .scanner i ask) →
      (s.hlc.scheduling = true → s.requeue t = put { s.hlc with scanner := t.request :: s.hlc.scanner })) ∧
    (∀ i, t.request = .scannerStatus i → s.hlc.scheduling = false → s.requeue t = s) ∧
    (∀ i ask, t.request = .scanner i ask → s.hlc.scheduling = false → s.requeue t = s.answerScanner .notIssued) ∧
    (∀ i, t.request = .headProbe i →
      (s.hlc.scheduling = true → s.requeue t = put { s.hlc with probes := t.request :: s.hlc.probes }) ∧
      (s.hlc.scheduling = false → s.requeue t = s)) := by
  intro put
  refine ⟨fun i hr => ?_, fun i hr => ⟨fun h hi => (State.requeue_of_stroke hr).trans (if_pos ?_), fun h =>
      (State.requeue_of_stroke hr).trans (if_neg ?_)⟩, fun i hr h => ?_,
    fun i hr h => (State.requeue_of_scannerStatus hr).trans (if_neg (Bool.eq_false_iff.mp h)),
    fun i ask hr h => (State.requeue_of_scanner hr).trans (if_neg (Bool.eq_false_iff.mp h)),
    fun i hr => ⟨fun h => (State.requeue_of_headProbe hr).trans (if_pos h),
      fun h => (State.requeue_of_headProbe hr).trans (if_neg (Bool.eq_false_iff.mp h))⟩⟩
  · refine ⟨fun below above hround hmembers hbelow habove => ?_, fun hround =>
      (State.requeue_of_member hr).trans (if_neg fun h => hround ((roundOpen_iff ..).mp h))⟩
    refine ((State.requeue_of_member hr).trans (if_pos ((roundOpen_iff ..).mpr hround))).trans ?_
    rw [hmembers, insertIndex_of_split hbelow habove]
  · simp [h, hi]
  · obtain h | h := h <;> simp [h]
  · obtain hr | ⟨ask, hr⟩ := hr
    · exact (State.requeue_of_scannerStatus hr).trans (if_pos h)
    · exact (State.requeue_of_scanner hr).trans (if_pos h)

/-- Settles O31. -/
theorem headCharges : Obligations.HeadCharges := by
  refine ⟨fun counter => ⟨rfl, rfl, rfl, rfl, rfl, rfl⟩, fun counter => chargedState_eq, fun s i x data => ?_,
    fun s i counter value state => ⟨rfl, fun note => rfl⟩, fun s i x t outcome data =>
      State.headTransaction_ends t outcome data, fun s i x t outcome data now hnow => ?_, State.requeue_cases,
    fun s round i outcome answer => ⟨rfl, fun x hx => State.deliver_of_head hx round outcome⟩, fun s i old x hx => ?_⟩
  · refine ⟨State.confirmHead_of_other_kind, fun h hready =>
        (State.confirmHead_of_kind h).trans (if_pos (not_eq_true_of_eq_false hready)),
      fun h hready hc => (State.confirmHead_of_kind h).trans
        ((if_neg (not_ne_true_of_eq_true hready)).trans (if_pos hc)),
      fun h hready hc => (State.confirmHead_of_kind h).trans
        ((if_neg (not_ne_true_of_eq_true hready)).trans (if_neg (Nat.not_lt.mpr hc))),
      State.probeHead_of_other_kind, fun h hc => (State.probeHead_of_kind h).trans (if_pos hc),
      fun h hc => (State.probeHead_of_kind h).trans (if_neg (Nat.not_lt.mpr hc)), fun outcome => State.probeHead_of_failed⟩
  · intro value status kept
    refine ⟨fun h => if_pos h.symm, fun h => if_neg fun h' => h h'.symm, fun hr hcommand => ?_, fun hr hcommand => ?_,
      fun side hr hside => ⟨fun hgood => ?_, fun h => ?_, fun hgood hcommand => ?_⟩,
      fun hr => ⟨fun hgood => (State.handResult_of_scannerStatus hr).trans (if_pos hgood),
        fun hgood => (State.handResult_of_scannerStatus hr).trans (if_neg hgood)⟩,
      fun ask hr => ⟨fun hgood => ?_, fun hgood => ?_⟩, State.handFailed_of_levelling hnow,
      fun side => State.handFailed_of_stroke hnow, State.handFailed_of_scanner hnow⟩
    · rw [State.handResult_of_member hnow hr, if_neg hcommand]
      rfl
    · rw [State.handResult_of_member hnow hr, if_pos hcommand]
    · exact (State.handResult_of_stroke hnow hr hside).trans (if_pos hgood)
    · exact (State.handResult_of_stroke hnow hr hside).trans ((if_neg (not_not_intro h.1)).trans (if_pos h.2))
    · exact (State.handResult_of_stroke hnow hr hside).trans ((if_neg (not_not_intro hgood)).trans
        (if_neg (by simp [hcommand])))
    · rw [State.handResult_of_scanner hr, if_neg hgood]
      rfl
    · rw [State.handResult_of_scanner hr, if_pos hgood]
      rfl
  · exact ⟨State.announceHead_of_same hx, fun h => ⟨State.announceHead_of_dropped hx h,
      State.announceHead_of_mismatch hx h, State.announceHead_of_open hx h⟩, fun keepProbe => by
        have hdrop := State.dropHead_eq hx keepProbe
        simp only [LinkRequest.isScanner_and_ofHead] at hdrop
        exact hdrop⟩

end Sys2Proof.Machine

/-! PROOF. The link's timers, rounds and scanner requests, and the scheduler (R88, R91 to R95). -/
namespace Sys2Proof.Machine

/-! ## Time -/

@[simp] theorem State.runTo_settingNat (s : State) (expiry : Word) (i : SettingId) :
    (s.runTo expiry).settingNat i = s.settingNat i := by
  simp [State.settingNat, State.setting]

/-! ## Rounds -/

/-- R93: what is handed on of members that are not polled. -/
def State.notPolled (s : State) (members : List Nat) : List Handoff :=
  members.filterMap fun i => (s.hlc.headState i).map fun st => .delivery ⟨s.hlc.roundNumber, i, .notPolled, st⟩

theorem State.deliver_notPolled (s : State) (i : Nat) :
    s.deliver s.hlc.roundNumber i .notPolled =
      { s with inbox := s.inbox ++ (s.notPolled [i]).map (Waiting.mk false) } := by
  unfold State.deliver
  cases h : s.hlc.headState i with
  | none => simp [State.notPolled, h]
  | some st => simp [State.notPolled, h, State.hand, State.modInbox]

/-- R93: members handed as not polled, in their order. -/
theorem State.foldl_deliver_notPolled (s : State) (members : List Nat) :
    members.foldl (fun s i => s.deliver s.hlc.roundNumber i .notPolled) s =
      { s with inbox := s.inbox ++ (s.notPolled members).map (Waiting.mk false) } := by
  induction members generalizing s with
  | nil => simp [State.notPolled]
  | cons i rest ih =>
    have hcons : s.notPolled (i :: rest) = s.notPolled [i] ++ s.notPolled rest := List.filterMap_append (l := [i])
    rw [List.foldl_cons, State.deliver_notPolled, ih, hcons, List.map_append, ← List.append_assoc]
    rfl

theorem State.notPolled_waiting (s : State) (members : List Nat) :
    (s.notPolled members).map (Waiting.mk false) = members.filterMap fun i =>
      (s.hlc.headState i).map fun st => ⟨false, .delivery ⟨s.hlc.roundNumber, i, .notPolled, st⟩⟩ := by
  rw [State.notPolled, List.map_filterMap]
  simp only [Option.map_map, Function.comp_def]

theorem Hlc.mem_chosen_iff (h : Hlc) (r : LinkRequest) : r ∈ h.chosen ↔ h.line = .quiet r := by
  unfold Hlc.chosen
  cases h.line <;> simp [eq_comm]

/-- R93: the head of a round member's request. -/
def LinkRequest.memberOf : LinkRequest → Option Nat
  | .member i => some i
  | _ => none

/-- R93: the members not yet issued, a chosen one first. -/
def Hlc.membersWaiting (h : Hlc) : List Nat := h.chosen.filterMap LinkRequest.memberOf ++ h.members

theorem Hlc.membersWaiting_eq (h : Hlc) :
    h.membersWaiting = (match h.line with | .quiet (.member i) => [i] | _ => []) ++ h.members := by
  unfold Hlc.membersWaiting Hlc.chosen
  cases h.line with
  | quiet r => cases r <;> rfl
  | _ => rfl

/-- R93: the line once a chosen round member is taken back. -/
theorem Line.unchoose_member (l : Line) :
    (match l with
      | .quiet r => if r.memberOf.isSome then Line.free else .quiet r
      | l => l) = match l with | .quiet (.member _) => .free | l => l := by
  cases l with
  | quiet r => cases r <;> rfl
  | _ => rfl

theorem State.endRound_def (s : State) :
    s.endRound = (s.hlc.membersWaiting.foldl (fun s i => s.deliver s.hlc.roundNumber i .notPolled) s).modHlc fun h =>
      Hlc.unchoose { h with members := [], roundInProgress := false } fun r => r.memberOf.isSome := by
  have htest : (fun r : LinkRequest => r.memberOf.isSome) =
      fun r => match r with | .member _ => true | _ => false := by
    funext r
    cases r <;> rfl
  rw [htest]
  rfl

/-- R93: the round in progress ended. -/
theorem State.endRound_eq (s : State) :
    s.endRound = { s with
      hlc := { s.hlc with
        members := [], roundInProgress := false
        line := match s.hlc.line with | .quiet (.member _) => .free | l => l }
      inbox := s.inbox ++ (s.notPolled s.hlc.membersWaiting).map (Waiting.mk false) } := by
  rw [State.endRound_def, State.foldl_deliver_notPolled, ← Line.unchoose_member, State.modHlc, Hlc.unchoose_eq] <;> rfl

/-- R93: a new round begins. -/
theorem State.beginRound_eq (s : State) :
    let closed := s.hlc.indicesOf fun x => x.levelling && x.closed
    let u : State := { s with hlc := { s.hlc with
      roundNumber := s.hlc.roundNumber + 1, roundInProgress := true
      members := s.hlc.indicesOf fun x => x.levelling && !x.closed } }
    s.beginRound = { u with inbox := s.inbox ++ (u.notPolled closed).map (Waiting.mk false) } :=
  State.foldl_deliver_notPolled _ _

theorem Hlc.roundWanted_iff (h : Hlc) :
    h.roundWanted = true ↔ h.sideModes.left ≠ .off ∨ h.sideModes.right ≠ .off ∨ (∃ x ∈ h.heads, x.kind = .stroke) ∨
      (∃ x ∈ h.heads, x.kind = .scanner) ∧ h.recordsMode ≠ .off := by
  simp [Hlc.roundWanted, or_assoc]

/-! ## Stroke polls and probes -/

theorem Hlc.mem_indicesOf_iff (h : Hlc) (p : Head → Bool) (i : Nat) :
    i ∈ h.indicesOf p ↔ ∃ x, h.heads[i]? = some x ∧ p x = true := by
  simp only [Hlc.indicesOf, List.mem_filter, List.mem_range, Option.any_eq_true]
  constructor
  · exact fun h => h.2
  · rintro ⟨x, hx, hp⟩
    obtain ⟨hi, -⟩ := List.getElem?_eq_some_iff.mp hx
    exact ⟨hi, x, hx, hp⟩

/-- R94: the stroke polls queued at an expiry. -/
theorem Hlc.strokePolls_eq (h : Hlc) :
    ((h.indicesOf fun x => x.kind == .stroke && !x.closed).filter fun i =>
        !h.strokes.contains i && !h.chosen.contains (.stroke i)) =
      (List.range h.heads.length).filter fun i =>
        ((h.heads[i]?).any fun x => x.kind == .stroke && x.state != .dropped && x.state != .mismatch) &&
        !h.strokes.contains i && h.line != .quiet (.stroke i) := by
  rw [Hlc.indicesOf, List.filter_filter]
  refine List.filter_congr fun i _ => ?_
  have hopen : (fun x : Head => x.kind == .stroke && !x.closed) =
      fun x => x.kind == .stroke && x.state != .dropped && x.state != .mismatch := by
    funext x
    simp [Head.closed, bne, Bool.and_assoc]
  have hchosen : h.chosen.contains (.stroke i) = (h.line == .quiet (.stroke i)) := by
    rw [Bool.eq_iff_iff, List.contains_iff_mem, Hlc.mem_chosen_iff, beq_iff_eq]
  rw [hopen, hchosen, Bool.and_comm, Bool.and_assoc]
  rfl

theorem Hlc.mem_newProbes_junction_iff (h : Hlc) (j : JunctionId) :
    .junctionProbe j ∈ h.newProbes ↔ (h.junction j).state = .down ∧ h.line ≠ .quiet (.junctionProbe j) ∧
      h.line ≠ .quiet (.orderedProbe j) ∧ .junctionProbe j ∉ h.probes ∧ .orderedProbe j ∉ h.probes ∧
      .junctionProbe j ∉ h.housekeeping ∧ .orderedProbe j ∉ h.housekeeping := by
  have hall : j ∈ allJunctions := by cases j <;> decide
  simp only [Hlc.newProbes, List.mem_append, List.mem_map, List.mem_filter, LinkRequest.junctionProbe.injEq,
    exists_eq_right, reduceCtorEq, and_false, exists_false, or_false, hall, true_and, Bool.and_eq_true, beq_iff_eq,
    Bool.not_eq_true', List.contains_eq_mem, decide_eq_false_iff_not, not_or, Hlc.mem_chosen_iff]
  tauto

theorem Hlc.mem_newProbes_head_iff (h : Hlc) (i : Nat) :
    .headProbe i ∈ h.newProbes ↔ h.headState i = some .dropped ∧ h.line ≠ .quiet (.headProbe i) ∧
      .headProbe i ∉ h.probes ∧ .headProbe i ∉ h.housekeeping := by
  have hdropped : i ∈ (h.indicesOf fun x => x.state == .dropped) ↔ h.headState i = some .dropped := by
    simp [Hlc.mem_indicesOf_iff, Hlc.headState]
  simp only [Hlc.newProbes, List.mem_append, List.mem_map, List.mem_filter, LinkRequest.headProbe.injEq,
    exists_eq_right, reduceCtorEq, and_false, exists_false, false_or, hdropped,
    Bool.not_eq_true', List.contains_eq_mem, decide_eq_false_iff_not, not_or, Hlc.mem_chosen_iff]
  tauto

/-- R92: the probes of junctions in their order, then those of heads in theirs. -/
theorem Hlc.newProbes_sorted (h : Hlc) :
    ∃ (junctions : List JunctionId) (heads : List Nat),
      h.newProbes = junctions.map LinkRequest.junctionProbe ++ heads.map LinkRequest.headProbe ∧
      junctions.Sublist [.left, .right, .centre] ∧ heads.Pairwise (· < ·) :=
  ⟨_, _, rfl, List.filter_sublist, (List.pairwise_lt_range.filter _).filter _⟩

/-! ## The expiries -/

section Expiries
variable {s : State} {expiry : Word}

theorem exec_roundTimerExpiry (h : s.hlc.roundTimer = some expiry) :
    let t := s.runTo expiry
    let timer : Timer := some (t.rif.runTime + BitVec.ofNat 32 (s.settingNat Setting.roundPeriod))
    let u := State.endRound { t with hlc := { s.hlc with roundTimer := timer } }
    exec .roundTimerExpiry s = .next (if u.hlc.roundWanted = true then u.beginRound else u).schedule := by
  intro t
  have hhlc : t.hlc = s.hlc := by simp [t]
  change execRoundTimerExpiry s = _
  rw [execRoundTimerExpiry, h, ← s.runTo_settingNat expiry, ← hhlc]
  rfl

theorem exec_strokeTimerExpiry (h : s.hlc.strokeTimer = some expiry) :
    let t := s.runTo expiry
    exec .strokeTimerExpiry s = .next (State.schedule { t with hlc := { s.hlc with
      strokeTimer := some (t.rif.runTime + BitVec.ofNat 32 100)
      strokes := s.hlc.strokes ++ (s.hlc.indicesOf fun x => x.kind == .stroke && !x.closed).filter fun i =>
        !s.hlc.strokes.contains i && !s.hlc.chosen.contains (.stroke i) } }) := by
  intro t
  have hhlc : t.hlc = s.hlc := by simp [t]
  change execStrokeTimerExpiry s = _
  rw [execStrokeTimerExpiry, h, ← hhlc]
  rfl

theorem exec_probeTimerExpiry (h : s.hlc.probeTimer = some expiry) :
    let t := s.runTo expiry
    exec .probeTimerExpiry s = .next (State.schedule { t with hlc := { s.hlc with
      probeTimer := some (t.rif.runTime + BitVec.ofNat 32 (s.settingNat Setting.probeInterval))
      probes := s.hlc.probes ++ s.hlc.newProbes } }) := by
  intro t
  have hhlc : t.hlc = s.hlc := by simp [t]
  change execProbeTimerExpiry s = _
  rw [execProbeTimerExpiry, h, ← s.runTo_settingNat expiry, ← hhlc]
  rfl

end Expiries

/-! ## Scanner requests and modes -/

section AskScanner
variable {s : State} {ask : ScannerAsk}

/-- R95, log 44: a scanner request that is answered at once. -/
theorem State.askScanner_of_refused (h : s.hlc.scheduling = false ∨ s.hlc.scannerState = none ∨
    s.hlc.scannerState = some .dropped ∨ s.hlc.scannerState = some .mismatch) :
    s.askScanner ask = s.answerScanner .notIssued := by
  unfold State.askScanner
  split
  next hstate =>
    obtain h | h | h | h := h
    · exact if_neg (Bool.eq_false_iff.mp h)
    all_goals exact nomatch h.symm.trans hstate
  next hstate =>
    obtain h | h | h | h := h
    · exact if_neg (Bool.eq_false_iff.mp h)
    all_goals exact nomatch h.symm.trans hstate
  next hstate =>
    obtain h | h | h | h := h
    · exact if_neg (Bool.eq_false_iff.mp h)
    all_goals exact nomatch h.symm.trans hstate
  next => rfl

variable {i : Nat} (hi : s.hlc.scannerIndex = some i) (hscheduling : s.hlc.scheduling = true)
include hi hscheduling

theorem State.askScanner_of_up (h : s.hlc.scannerState = some .active ∨ s.hlc.scannerState = some .suspect) :
    s.askScanner ask = { s with hlc := { s.hlc with scanner := s.hlc.scanner ++ [.scanner i ask] } } := by
  obtain h | h := h <;> (rw [State.askScanner, hi, h]; exact if_pos hscheduling)

/-- R95: an UNCONFIRMED scanner is asked for its STATUS first. -/
theorem State.askScanner_of_unconfirmed (h : s.hlc.scannerState = some .unconfirmed) :
    s.askScanner ask = { s with hlc := { s.hlc with scanner := s.hlc.scanner ++
      (if (s.hlc.chosen ++ s.hlc.scanner).contains (.scannerStatus i) then [] else [.scannerStatus i]) ++
        [.scanner i ask] } } := by
  rw [State.askScanner, hi, h]
  exact if_pos hscheduling

end AskScanner

theorem exec_scannerRequest {s : State} {rest : List Waiting} {ask : ScannerAsk}
    (h : s.FirstWaiting (fun h => ∃ x, h = .scannerRequest x) (.scannerRequest ask) rest) :
    exec .scannerRequest s = .next (State.askScanner { s with inbox := rest } ask).schedule := by
  change execScannerRequest s = _
  rw [execScannerRequest, h.take]
  intro h
  cases h <;> simp

section ModeHandoff
variable {s : State} {rest : List Waiting}

theorem exec_modeHandoffAtHlc_of_side {side : Side} {mode : SideMode}
    (h : s.FirstWaiting (fun h => (∃ x y, h = .sideModeToHlc x y) ∨ ∃ x, h = .recordsModeToHlc x)
      (.sideModeToHlc side mode) rest) :
    exec .modeHandoffAtHlc s = .next
      { s with inbox := rest, hlc := { s.hlc with sideModes := s.hlc.sideModes.set side mode } } := by
  change execModeHandoffAtHlc s = _
  rw [execModeHandoffAtHlc, h.take]
  · rfl
  · intro h
    cases h <;> simp

theorem exec_modeHandoffAtHlc_of_records {mode : RecordsMode}
    (h : s.FirstWaiting (fun h => (∃ x y, h = .sideModeToHlc x y) ∨ ∃ x, h = .recordsModeToHlc x)
      (.recordsModeToHlc mode) rest) :
    exec .modeHandoffAtHlc s = .next { s with inbox := rest, hlc := { s.hlc with recordsMode := mode } } := by
  change execModeHandoffAtHlc s = _
  rw [execModeHandoffAtHlc, h.take]
  · rfl
  · intro h
    cases h <;> simp

end ModeHandoff

/-! ## The scheduler -/

/-- R92: which requests may be chosen. -/
theorem Hlc.pick_eq (h : Hlc) : h.pick =
    (h.housekeeping ++ h.members.map LinkRequest.member ++ h.strokes.map LinkRequest.stroke ++ h.scanner.take 1 ++
      h.probes).find? fun r : LinkRequest =>
      match r with
      | .step _ | .orderedProbe _ | .junctionProbe _ => true
      | .member i | .stroke i | .scannerStatus i | .scanner i _ | .headProbe i =>
        (h.heads[i]?).any fun x => (h.junction x.junction).state == .ready || (h.junction x.junction).state == .down := by
  have hchoosable (i : Nat) : h.choosable i =
      (h.heads[i]?).any fun x => (h.junction x.junction).state == .ready || (h.junction x.junction).state == .down := by
    unfold Hlc.choosable
    cases h.heads[i]? <;> rfl
  refine congrArg (List.find? · h.waiting) (funext fun r => ?_)
  cases r <;> first | rfl | exact hchoosable _

theorem Hlc.headDown_iff (h : Hlc) (i : Nat) :
    h.headDown i = true ↔ ∃ x, h.heads[i]? = some x ∧ (h.junction x.junction).state = .down := by
  unfold Hlc.headDown
  cases h.heads[i]? <;> simp

theorem Hlc.unissuable_iff (h : Hlc) (i : Nat) :
    h.unissuable i = true ↔ ¬ (h.headState i = some .active ∨ h.headState i = some .suspect) := by
  simp [Hlc.unissuable, not_or]

section Schedule
variable {s : State} {r : LinkRequest} (hfree : s.hlc.line = .free) (hpick : s.hlc.pick = some r)
include hfree hpick

/-- R92: the request chosen is put on the line. -/
theorem State.schedule_issued (h : State.resolve { s with hlc := s.hlc.remove r } r = none) :
    s.schedule = State.settleProbe { s with hlc := { s.hlc.remove r with line := .quiet r } } :=
  State.schedule_chosen hfree hpick h

theorem State.schedule_of_resolved {t : State} (h : State.resolve { s with hlc := s.hlc.remove r } r = some t) :
    s.schedule = t.schedule := State.schedule_resolved hfree hpick h

end Schedule

/-- R92: the head requests, which a junction DOWN resolves. -/
theorem State.resolve_of_head {u : State} {r : LinkRequest} {i : Nat}
    (hr : r = .member i ∨ r = .stroke i ∨ r = .scannerStatus i ∨ r = .headProbe i) :
    u.resolve r = if u.hlc.headDown i = true then some (u.miss r i) else none := by
  obtain rfl | rfl | rfl | rfl := hr <;> rfl

/-- R92: what the scheduler does with a free line. -/
theorem State.schedule_cases {s : State} {r : LinkRequest} (hfree : s.hlc.line = .free) (hpick : s.hlc.pick = some r) :
    let u : State := { s with hlc := s.hlc.remove r }
    let issued : State := State.settleProbe { u with hlc := { u.hlc with line := .quiet r } }
    let down (i : Nat) : Prop := ∃ x, s.hlc.heads[i]? = some x ∧ (s.hlc.junction x.junction).state = .down
    let up (i : Nat) : Prop := s.hlc.headState i = some .active ∨ s.hlc.headState i = some .suspect
    ((∃ j, r = .step j ∨ r = .orderedProbe j ∨ r = .junctionProbe j) → s.schedule = issued) ∧
    (∀ i, r = .member i ∨ r = .stroke i ∨ r = .scannerStatus i ∨ r = .headProbe i →
      (down i → s.schedule = (u.miss r i).schedule) ∧ (¬ down i → s.schedule = issued)) ∧
    (∀ i ask, r = .scanner i ask →
      (¬ up i → s.schedule = (u.answerScanner .notIssued).schedule) ∧
      (up i → down i → s.schedule = (u.miss r i).schedule) ∧ (up i → ¬ down i → s.schedule = issued)) := by
  intro u issued down up
  have hdown (i : Nat) : u.hlc.headDown i = true ↔ down i := s.hlc.headDown_iff i
  have hup (i : Nat) : u.hlc.unissuable i = true ↔ ¬ up i := s.hlc.unissuable_iff i
  refine ⟨?_, fun i hr => ⟨fun h => State.schedule_of_resolved hfree hpick ?_, fun h =>
    State.schedule_issued hfree hpick ?_⟩, ?_⟩
  · rintro ⟨j, rfl | rfl | rfl⟩ <;> exact State.schedule_issued hfree hpick rfl
  · exact (State.resolve_of_head hr).trans (if_pos ((hdown i).mpr h))
  · exact (State.resolve_of_head hr).trans (if_neg fun hd => h ((hdown i).mp hd))
  · rintro i ask rfl
    refine ⟨fun h => State.schedule_of_resolved hfree hpick (if_pos ((hup i).mpr h)),
      fun h hd => State.schedule_of_resolved hfree hpick ((if_neg ?_).trans (if_pos ((hdown i).mpr hd))),
      fun h hd => State.schedule_issued hfree hpick ((if_neg ?_).trans (if_neg fun hd' => hd ((hdown i).mp hd')))⟩
    · exact fun hn => (hup i).mp hn h
    · exact fun hn => (hup i).mp hn h

/-! ## Missed requests and the probe timer -/

@[simp] theorem State.setHead_roundNumber (s : State) (i counter : Nat) (state : HeadState) (note : Option NoteKind)
    (value : Nat) : (s.setHead i counter state note value).hlc.roundNumber = s.hlc.roundNumber := by
  cases note <;> simp [State.setHead, Hlc.modHead]

section Miss
variable {s : State} {i : Nat} {x : Head} (hx : s.hlc.heads[i]? = some x)
include hx

/-- R88, R91: a request that is missed charges its head and hands its failure on. -/
theorem State.miss_eq (r : LinkRequest) :
    let charged := s.chargeHead i x .timeout
    s.miss r i = State.announceHead (match r, x.side, charged.hlc.headState i with
      | .member _, _, _ => charged.deliver charged.hlc.roundNumber i .failed
      | .stroke _, some side, some st => charged.hand (.strokePoll side .failed st)
      | .scanner _ _, _, _ => charged.answerScanner .failed
      | .scannerStatus _, _, _ | .headProbe _, _, _ => charged.handFailed i x
      | _, _, _ => charged) i x.state := by
  rw [State.miss, hx] <;> rfl

theorem State.miss_member {now : Head} (hnow : (s.chargeHead i x .timeout).hlc.heads[i]? = some now) :
    s.miss (.member i) i =
      ((s.chargeHead i x .timeout).hand (.delivery ⟨s.hlc.roundNumber, i, .failed, now.state⟩)).announceHead i x.state := by
  have hround : (s.chargeHead i x .timeout).hlc.roundNumber = s.hlc.roundNumber := State.setHead_roundNumber ..
  rw [State.miss_eq hx, ← hround, ← State.deliver_of_head hnow]

theorem State.miss_stroke {now : Head} (hnow : (s.chargeHead i x .timeout).hlc.heads[i]? = some now) {side : Side}
    (hside : x.side = some side) :
    s.miss (.stroke i) i =
      ((s.chargeHead i x .timeout).hand (.strokePoll side .failed now.state)).announceHead i x.state := by
  rw [State.miss_eq hx, hside, Hlc.headState_of_head hnow]

end Miss

/-- R92: the probe timer runs exactly while there is something to probe. -/
theorem Hlc.probing_iff (h : Hlc) :
    h.probing = true ↔ h.scheduling = true ∧
      ((∃ j, (h.junction j).state = .down) ∨ ∃ x ∈ h.heads, x.state = .dropped) := by
  have hany : (∃ j, (h.junction j).state = .down) ↔ ∃ j ∈ allJunctions, (h.junction j).state = .down :=
    exists_congr fun j => by cases j <;> simp [allJunctions]
  rw [hany]
  simp [Hlc.probing]

theorem State.settleProbe_eq (s : State) : s.settleProbe = { s with hlc := { s.hlc with
    probeTimer := if s.hlc.probing = true then
      s.hlc.probeTimer <|> s.startTimer (s.settingNat Setting.probeInterval) else none } } := rfl

theorem State.settleProbe_of_idle {s : State} (h : ¬ s.hlc.probing = true) :
    s.settleProbe = { s with hlc := { s.hlc with probeTimer := none } } := by
  rw [State.settleProbe_eq, if_neg h]

theorem State.settleProbe_of_running {s : State} (h : s.hlc.probing = true) (htimer : s.hlc.probeTimer ≠ none) :
    s.settleProbe = s := by
  obtain ⟨expiry, hexpiry⟩ := Option.ne_none_iff_exists'.mp htimer
  have hkept : (s.hlc.probeTimer <|> s.startTimer (s.settingNat Setting.probeInterval)) = s.hlc.probeTimer := by
    rw [hexpiry]
    rfl
  rw [State.settleProbe_eq, if_pos h, hkept]

theorem State.settleProbe_of_started {s : State} (h : s.hlc.probing = true) (htimer : s.hlc.probeTimer = none) :
    s.settleProbe = { s with hlc := { s.hlc with
      probeTimer := some (s.rif.runTime + BitVec.ofNat 32 (s.settingNat Setting.probeInterval)) } } := by
  rw [State.settleProbe_eq, if_pos h, htimer]
  rfl

/-- Settles O32. -/
theorem linkTimersAndRequests : Obligations.LinkTimersAndRequests := by
  refine ⟨fun s expiry => ?_, fun s => ?_, fun h => ⟨h.mem_newProbes_junction_iff, h.mem_newProbes_head_iff,
      h.newProbes_sorted, h.roundWanted_iff, h.scheduling_iff⟩, fun s => ⟨_, s.beginRound_eq, rfl⟩,
    fun s rest ask hfirst => ?_, fun s rest => ⟨fun side mode => exec_modeHandoffAtHlc_of_side,
      fun mode => exec_modeHandoffAtHlc_of_records⟩, Hlc.pick_eq,
    fun s => ⟨State.schedule_idle, fun r => State.schedule_cases⟩, fun h r => rfl, fun s i x hx => ?_, fun s => ?_⟩
  · refine ⟨fun h => ?_, fun h => ?_, exec_probeTimerExpiry⟩
    · exact (exec_roundTimerExpiry h).trans (congrArg Host.Outcome.next (apply_ite State.schedule _ _ _))
    · rw [exec_strokeTimerExpiry h, Hlc.strokePolls_eq]
  · intro waiting
    rw [State.endRound_eq, State.notPolled_waiting, Hlc.membersWaiting_eq] <;> rfl
  · intro u refused
    rw [exec_scannerRequest hfirst]
    refine ⟨fun h => congrArg (fun v => Host.Outcome.next (State.schedule v)) (State.askScanner_of_refused h),
      fun i hi hscheduling => ⟨fun h => congrArg (fun v => Host.Outcome.next (State.schedule v))
        (State.askScanner_of_up hi hscheduling h), fun h => ?_⟩⟩
    intro behind
    have hask := State.askScanner_of_unconfirmed (s := u) (ask := ask) hi hscheduling h
    have hbehind : (s.hlc.chosen ++ s.hlc.scanner).contains (.scannerStatus i) = true ↔ behind := by
      simp only [List.contains_iff_mem, List.mem_append, Hlc.mem_chosen_iff, behind]
      exact or_comm
    refine ⟨fun h => ?_, fun h => ?_⟩
    · rw [hask, if_pos (hbehind.mpr h), List.append_nil]
    · rw [hask, if_neg fun hc => h (hbehind.mp hc), List.append_assoc]
      rfl
  · intro c charged now hnow
    exact ⟨State.miss_member hx hnow, fun side => State.miss_stroke hx hnow, State.miss_eq hx _, State.miss_eq hx _,
      fun ask => State.miss_eq hx _⟩
  · intro probing
    exact ⟨fun h => State.settleProbe_of_idle fun hp => h ((Hlc.probing_iff _).mp hp),
      fun h => State.settleProbe_of_running ((Hlc.probing_iff _).mpr h),
      fun h => State.settleProbe_of_started ((Hlc.probing_iff _).mpr h)⟩

end Sys2Proof.Machine

/-! PROOF. Head tables, runs of the link and the clearing of its faults (R82, R86, R87, R90 to R94). -/
namespace Sys2Proof.Machine

/-! ## Requests dropped, transactions gone stale, tables handed on -/

/-- R92: every waiting request is dropped. -/
theorem State.dropWaiting_eq (s : State) :
    s.dropWaiting = { s with
      hlc := { s.hlc with
        housekeeping := [], members := [], strokes := [], scanner := [], probes := [], roundInProgress := false
        line := match s.hlc.line with | .quiet _ => .free | l => l }
      inbox := s.inbox ++ s.notIssued ((s.hlc.chosen ++ s.hlc.scanner).countP LinkRequest.isScanner) ++
        (s.notPolled s.hlc.membersWaiting).map (Waiting.mk false) } := by
  have hline : (Hlc.unchoose { s.hlc with line := match s.hlc.line with | .quiet (.member _) => .free | l => l }
      fun _ => true).line = match s.hlc.line with | .quiet _ => .free | l => l := by
    rw [Hlc.unchoose_eq]
    cases s.hlc.line with
    | quiet r => cases r <;> rfl
    | _ => rfl
  rw [← hline, State.dropWaiting, State.refuseScanner_eq, State.endRound_eq, State.modHlc, Hlc.unchoose_eq,
    Hlc.unchoose_eq] <;> rfl

theorem State.makeStale_of_not_busy {s : State} (h : ∀ t, s.hlc.line ≠ .busy t) : s.makeStale = s := by
  unfold State.makeStale
  split
  next t ht => exact absurd ht (h t)
  next => rfl

section MakeStale
variable {s : State} {t : Transaction} (ht : s.hlc.line = .busy t)
include ht

/-- Log 17: a round member's transaction goes stale and is handed as not polled. -/
theorem State.makeStale_of_member {i : Nat} {st : HeadState} (hr : t.request = .member i) (hstale : t.stale = false)
    (hst : s.hlc.headState i = some st) :
    s.makeStale = { s with
      hlc := { s.hlc with line := .busy { t with stale := true } }
      inbox := s.inbox ++ [⟨false, .delivery ⟨t.round, i, .notPolled, st⟩⟩] } := by
  rw [State.makeStale, ht]
  dsimp only
  rw [hr, hstale]
  dsimp only
  rw [State.deliver, hst]
  rfl

theorem State.makeStale_of_other (h : t.stale = true ∨ ∀ i, t.request ≠ .member i) :
    s.makeStale = { s with hlc := { s.hlc with line := .busy { t with stale := true } } } := by
  rw [State.makeStale, ht]
  dsimp only
  split
  next i hr hstale =>
    exact h.elim (fun h => nomatch hstale.symm.trans h) fun h => absurd hr (h i)
  next => rfl

end MakeStale

/-! ## Heads and junctions brought into use -/

/-- R87: what an UNCONFIRMED head's change of state hands on. -/
theorem Head.unconfirm_hands (x : Head) (i : Nat) :
    (if x.unconfirm.state = x.state then [] else x.unconfirm.stateHand i).map (Waiting.mk false) =
      if (x.state != .mismatch && x.state != .unconfirmed) = true then
        (match x.kind, x.side with
          | .sonic, _ | .slope, _ => [⟨false, .headStateToLvc i .unconfirmed⟩]
          | .stroke, some side => [⟨false, .strokeState side .unconfirmed⟩]
          | .stroke, none => []
          | .scanner, _ => [⟨false, .scannerState (some .unconfirmed)⟩])
      else [] := by
  obtain ⟨junction, port, kind, side, position, state, counter, reading, status⟩ := x
  cases state <;> simp [Head.unconfirm]
  all_goals
    cases kind <;> cases side <;> rfl

theorem State.unconfirmHeads_eq (s : State) :
    s.unconfirmHeads = { s with
      hlc := { s.hlc with heads := s.hlc.heads.map Head.unconfirm }
      inbox := s.inbox ++ (List.range s.hlc.heads.length).flatMap fun i =>
        match s.hlc.heads[i]? with
        | some x => (if x.unconfirm.state = x.state then [] else x.unconfirm.stateHand i).map (Waiting.mk false)
        | none => [] } := by
  have hhands : ((List.range s.hlc.heads.length).flatMap fun i =>
      match s.hlc.heads[i]? with
      | some x => if x.unconfirm.state = x.state then [] else x.unconfirm.stateHand i
      | none => []).map (Waiting.mk false) =
      (List.range s.hlc.heads.length).flatMap fun i =>
        match s.hlc.heads[i]? with
        | some x => (if x.unconfirm.state = x.state then [] else x.unconfirm.stateHand i).map (Waiting.mk false)
        | none => [] := by
    rw [List.map_flatMap]
    refine congrArg (List.flatMap · _) (funext fun i => ?_)
    cases s.hlc.heads[i]? <;> rfl
  rw [← hhands]
  rfl

/-- R82: the record a junction is given at a resynchronisation. -/
def Hlc.resyncRecord (h : Hlc) (j : JunctionId) : Junction :=
  if (h.heads.any fun x => x.junction == j) = true then ⟨.resync, 0, none, some ⟨.sync, .setMode⟩, none⟩ else .reset

/-- R82: the first step a junction queues at a resynchronisation. -/
def Hlc.resyncSteps (h : Hlc) (j : JunctionId) : List LinkRequest :=
  if ((h.heads.any fun x => x.junction == j) && h.scheduling && !h.housekeeping.contains (.step j)) = true then [.step j]
  else []

@[simp] theorem Hlc.setJunction_scheduling (h : Hlc) (j : JunctionId) (r : Junction) :
    (h.setJunction j r).scheduling = h.scheduling := by
  cases j <;> rfl

theorem Hlc.queueStep_append (h : Hlc) (j : JunctionId) :
    h.queueStep j = { h with housekeeping := h.housekeeping ++
      if (h.scheduling && !h.housekeeping.contains (.step j)) = true then [.step j] else [] } := by
  unfold Hlc.queueStep
  by_cases hq : (h.scheduling && !h.housekeeping.contains (.step j)) = true
  · rw [if_pos hq, if_pos hq]
  · rw [if_neg hq, if_neg hq, List.append_nil]

theorem Hlc.resyncJunction_eq (h : Hlc) (j : JunctionId) :
    h.resyncJunction j =
      { h.setJunction j (h.resyncRecord j) with housekeeping := h.housekeeping ++ h.resyncSteps j } := by
  unfold Hlc.resyncJunction Hlc.resyncRecord Hlc.resyncSteps
  cases hnamed : h.heads.any fun x => x.junction == j with
  | false =>
    rw [if_neg Bool.false_ne_true, if_neg Bool.false_ne_true, Bool.false_and, Bool.false_and, if_neg Bool.false_ne_true,
      List.append_nil, ← Hlc.setJunction_housekeeping h j .reset]
  | true =>
    rw [if_pos rfl, if_pos rfl, Bool.true_and, Hlc.queueStep_append, Hlc.setJunction_scheduling,
      Hlc.setJunction_housekeeping]

/-- R82: a junction's own resynchronisation does not touch another's. -/
theorem Hlc.resyncRecord_resyncJunction (h : Hlc) (j k : JunctionId) :
    (h.resyncJunction j).resyncRecord k = h.resyncRecord k := by
  rw [Hlc.resyncJunction_eq]
  cases j <;> rfl

theorem Hlc.resyncSteps_resyncJunction {h : Hlc} {j k : JunctionId} (hjk : k ≠ j) :
    (h.resyncJunction j).resyncSteps k = h.resyncSteps k := by
  have hcontains : (h.housekeeping ++ h.resyncSteps j).contains (.step k) = h.housekeeping.contains (.step k) := by
    unfold Hlc.resyncSteps
    split
    next => simp [hjk]
    next => rw [List.append_nil]
  rw [Hlc.resyncJunction_eq]
  unfold Hlc.resyncSteps at hcontains ⊢
  simp only [hcontains]
  cases j <;> rfl

/-- R82, log 44: the junctions' first steps in the order LEFT, RIGHT, CENTRE. -/
theorem Hlc.resync_eq (h : Hlc) :
    h.resync = { h with
      junctions := ⟨h.resyncRecord .left, h.resyncRecord .right, h.resyncRecord .centre⟩
      housekeeping := h.housekeeping ++ (h.resyncSteps .left ++ h.resyncSteps .right ++ h.resyncSteps .centre) } := by
  change ((h.resyncJunction .left).resyncJunction .right).resyncJunction .centre = _
  rw [Hlc.resyncJunction_eq _ .centre, Hlc.resyncRecord_resyncJunction, Hlc.resyncRecord_resyncJunction,
    Hlc.resyncSteps_resyncJunction (by decide), Hlc.resyncSteps_resyncJunction (by decide),
    Hlc.resyncJunction_eq _ .right, Hlc.resyncRecord_resyncJunction, Hlc.resyncSteps_resyncJunction (by decide),
    Hlc.resyncJunction_eq _ .left]
  simp only [Hlc.setJunction, List.append_assoc]

theorem Hlc.resyncSteps_eq (h : Hlc) :
    h.resyncSteps .left ++ h.resyncSteps .right ++ h.resyncSteps .centre =
      ([.left, .right, .centre].filter fun j =>
        (h.heads.any fun x => x.junction == j) && h.scheduling && !h.housekeeping.contains (.step j)).map
          LinkRequest.step := by
  simp only [Hlc.resyncSteps, List.filter_cons, List.filter_nil, List.append_assoc]
  (repeat' split) <;> rfl

/-- R92 to R94: a timer that runs goes on, and one that does not starts. -/
theorem Timer.orElse_some (timer : Timer) (expiry : Word) : (timer <|> some expiry) = some (timer.getD expiry) := by
  cases timer <;> rfl

theorem State.startScheduler_of_running {s : State} (h : s.hlc.scheduling = true) :
    let after (ms : Nat) : Word := s.rif.runTime + BitVec.ofNat 32 ms
    s.startScheduler = State.schedule { s with hlc := { s.hlc.resync with
      roundTimer := some (s.hlc.roundTimer.getD (after (s.settingNat Setting.roundPeriod)))
      strokeTimer := if s.hlc.heads.any fun x => x.kind == .stroke then
        some (s.hlc.strokeTimer.getD (after 100)) else none } } := by
  refine (if_pos h).trans (congrArg State.schedule ?_)
  change State.runTimers { s with hlc := s.hlc.resync } = _
  rw [← Timer.orElse_some, ← Timer.orElse_some, Hlc.resync_eq]
  rfl

/-! ## The hand-offs -/

theorem exec_headMapNewlyInForce {s : State} {rest : List Waiting} {items : List HeadItem}
    (h : s.FirstWaiting (fun h => (∃ x, h = .headMapInForce x) ∨ h = .headMapWithdrawn) (.headMapInForce items) rest) :
    exec .headMapNewlyInForce s = .next (State.rebuildHeads { s with inbox := rest } items) := by
  change execHeadMapNewlyInForce s = _
  rw [execHeadMapNewlyInForce, h.take]
  intro h
  cases h <;> simp

theorem exec_headMapWithdrawn {s : State} {rest : List Waiting}
    (h : s.FirstWaiting (fun h => (∃ x, h = .headMapInForce x) ∨ h = .headMapWithdrawn) .headMapWithdrawn rest) :
    exec .headMapWithdrawn s = .next (State.withdrawHeads { s with inbox := rest }) := by
  change execHeadMapWithdrawn s = _
  rw [execHeadMapWithdrawn, h.take]
  intro h
  cases h <;> simp

theorem exec_runStatusAtHlc {s : State} {rest : List Waiting} {status : RunStatus}
    (h : s.FirstWaiting (fun h => ∃ x, h = .runStatus .hlc x) (.runStatus .hlc status) rest) :
    exec .runStatusAtHlc s = .next (State.linkRun { s with inbox := rest } status) := by
  change execRunStatusAtHlc s = _
  rw [execRunStatusAtHlc, h.take]
  intro h
  cases h with
  | runStatus f x => cases f <;> simp
  | _ => simp

/-! ## CLEAR_FAULT -/

section ClearFaultJunction
variable {s : State} {o : Order} (ho : s.clearFaultOf 3 = some o)
include ho

/-- R86: CLEAR_FAULT of a junction. -/
theorem exec_clearFaultJunction :
    let r := s.hlc.junction o.junction
    exec .clearFaultJunction s = .next (
      if r.state = .down then
        (if s.hlc.scheduling = true then
          State.schedule { s with hlc := { s.hlc with
            housekeeping := s.hlc.housekeeping ++ [.orderedProbe o.junction]
            probeTimer := some (s.rif.runTime + BitVec.ofNat 32 (s.settingNat Setting.probeInterval)) } }
        else s).finishDone (BitVec.ofNat 32 r.failures) false false false
      else s.finishRefused .notFaulted) := by
  change execClearFaultJunction s = _
  rw [execClearFaultJunction, ho]
  rfl

end ClearFaultJunction

section ClearFaultHead
variable {s : State} {o : Order} (ho : s.clearFaultOf 2 = some o)
include ho

theorem exec_clearFaultHead_of_none (h : s.hlc.heads[o.subject.toNat]? = none) :
    exec .clearFaultHead s = .next (s.finishRefused .notFaulted) := by
  change execClearFaultHead s = _
  rw [execClearFaultHead, ho]
  dsimp only
  rw [h]

variable {x : Head} (hx : s.hlc.heads[o.subject.toNat]? = some x)
include hx

/-- R90: CLEAR_FAULT of a head, by its state. -/
theorem exec_clearFaultHead_of_some :
    exec .clearFaultHead s = .next (
      match x.state with
      | .suspect | .dropped => s.clearHead o.subject.toNat x
      | .active | .unconfirmed => s.finishRefused .notFaulted
      | .mismatch => s.finishRefused .wrongState) := by
  change execClearFaultHead s = _
  rw [execClearFaultHead, ho]
  dsimp only
  rw [hx] <;> rfl

theorem exec_clearFaultHead_of_not_faulted (h : x.state = .active ∨ x.state = .unconfirmed) :
    exec .clearFaultHead s = .next (s.finishRefused .notFaulted) := by
  obtain h | h := h <;> rw [exec_clearFaultHead_of_some ho hx, h]

theorem exec_clearFaultHead_of_mismatch (h : x.state = .mismatch) :
    exec .clearFaultHead s = .next (s.finishRefused .wrongState) := by
  rw [exec_clearFaultHead_of_some ho hx, h]

theorem exec_clearFaultHead_of_faulted (h : x.state = .suspect ∨ x.state = .dropped) :
    exec .clearFaultHead s = .next (s.clearHead o.subject.toNat x) := by
  obtain h | h := h <;> rw [exec_clearFaultHead_of_some ho hx, h]

end ClearFaultHead

/-- R90: a SUSPECT or DROPPED head is cleared, and a probe of it that waits is taken back. -/
theorem State.clearHead_eq (s : State) (i : Nat) (x : Head) :
    let u : State := { s with hlc := { s.hlc with
      heads := s.hlc.heads.modify i fun x => { x with counter := 0, state := .unconfirmed }
      probes := s.hlc.probes.filter (· != .headProbe i)
      line := if s.hlc.line = .quiet (.headProbe i) then .free else s.hlc.line } }
    s.clearHead i x =
      ((u.announceHead i x.state).schedule).finishDone (BitVec.ofNat 32 x.counter) false false false := by
  have hline : (match s.hlc.line with
      | .quiet r => if (r == .headProbe i) = true then Line.free else .quiet r
      | l => l) = if s.hlc.line = .quiet (.headProbe i) then .free else s.hlc.line := by
    cases s.hlc.line <;> simp
  rw [← hline, State.clearHead, State.modHlc, Hlc.unchoose_eq] <;> rfl

/-- Settles O33. -/
theorem headTableRunsAndFaultClears : Obligations.HeadTableRunsAndFaultClears := by
  refine ⟨fun s rest => ⟨fun items => exec_headMapNewlyInForce, exec_headMapWithdrawn, fun status h => ?_⟩,
    fun s => ?_, fun s => ⟨State.makeStale_of_not_busy, fun t ht => ⟨fun i st => State.makeStale_of_member ht,
      State.makeStale_of_other ht⟩⟩, fun s => rfl, fun s => ⟨fun h => if_neg (Bool.eq_false_iff.mp h),
      State.startScheduler_of_running⟩, fun s => ?_, fun h => ?_, fun s o ho => ?_, fun s o ho =>
      ⟨exec_clearFaultHead_of_none ho, fun x hx => ⟨exec_clearFaultHead_of_not_faulted ho hx,
        exec_clearFaultHead_of_mismatch ho hx, fun h => ?_⟩⟩⟩
  · rw [exec_runStatusAtHlc h]
    refine ⟨?_, ?_, ?_⟩
    · rintro rfl
      rfl
    · rintro (rfl | rfl) <;> rfl
    · rintro rfl
      rfl
  · intro chosen asked members
    rw [State.dropWaiting_eq, State.notPolled_waiting] <;> rfl
  · intro lost
    rw [State.unconfirmHeads_eq]
    simp only [Head.unconfirm_hands] <;> rfl
  · intro named put
    rw [Hlc.resync_eq, Hlc.resyncSteps_eq]
    rfl
  · have hexec := exec_clearFaultJunction ho
    exact ⟨fun h => hexec.trans (congrArg Host.Outcome.next (if_neg h)),
      fun h hscheduling => hexec.trans (congrArg Host.Outcome.next
        ((if_pos h).trans (congrArg (State.finishDone · _ false false false) (if_pos hscheduling)))),
      fun h hscheduling => hexec.trans (congrArg Host.Outcome.next ((if_pos h).trans
        (congrArg (State.finishDone · _ false false false) (if_neg (Bool.eq_false_iff.mp hscheduling)))))⟩
  · rw [exec_clearFaultHead_of_faulted ho hx h, State.clearHead_eq]

end Sys2Proof.Machine

/-! PROOF. The Geometry Unit: stroke heads, bolt-on widths, the live zone set and the window (R97 to R104). -/
namespace Sys2Proof.Machine

/-! ## The record -/

/-- R97: the width status is GOOD while both sides' STROKE heads are ACTIVE. -/
theorem widthOf_eq_good_iff (seen : PerSide (Option HeadState)) :
    widthOf seen = .good ↔ seen.left = some .active ∧ seen.right = some .active := by
  unfold widthOf
  split <;> simp [*]

/-- R102: the window is the points that lie whole within the screed. -/
theorem window_iff {left right : Nat} (hleft : left ≤ 7040) (i : Nat) :
    windowFirst left ≤ i ∧ i < windowFirst left + windowCount left right ↔
      7040 - left ≤ 220 * i ∧ 220 * (i + 1) ≤ 7040 + right := by
  unfold windowCount windowFirst
  omega

/-- R103: a geometry change event. -/
theorem State.geometryEvent_eq (s : State) :
    let fresh := s.geu.refresh (s.settingNat Setting.liveStroke)
    let record := { fresh with sequence := fresh.sequence + 1 }
    s.geometryEvent = { s with
      geu := { s.geu with geometry := record }
      inbox := s.inbox ++ [⟨false, .geometryToHtc record⟩, ⟨false, .geometryToFdc record⟩,
        ⟨false, .geometryToMru record⟩] } := rfl

/-! ## What GEU takes -/

/-- R97: a change of the width status, and nothing else, is a geometry change event. -/
theorem State.settleWidth_eq (s : State) :
    (if s.geu.widthMoves = true then s.geometryEvent else s) =
      if widthOf s.geu.headSeen = s.geu.geometry.width then s else s.geometryEvent := by
  unfold Geu.widthMoves
  split <;> simp_all

/-- A first hand-off on a channel is the first on a narrower one that it belongs to. -/
theorem State.FirstWaiting.narrow {s : State} {channel narrower : Handoff → Prop} {h : Handoff} {rest : List Waiting}
    (hfirst : s.FirstWaiting channel h rest) (hn : ∀ h, narrower h → channel h) (hh : narrower h) :
    s.FirstWaiting narrower h rest := by
  obtain ⟨pre, afterPave, post, hinbox, hrest, -, hpre, hpave⟩ := hfirst
  exact ⟨pre, afterPave, post, hinbox, hrest, hh, fun x hx hnx => hpre x hx (hn _ hnx), hpave⟩

theorem exec_strokeHeadStateChange_of_first {s : State} {side : Side} {st : HeadState} {rest : List Waiting}
    (horder : strokeStateFirst side s.inbox = true)
    (hfirst : s.FirstWaiting (fun h => ∃ x, h = .strokeState side x) (.strokeState side st) rest) :
    exec (.strokeHeadStateChange side) s = .next (State.strokeHeadChanges { s with inbox := rest } side st) := by
  refine congrArg Host.Outcome.next ((if_pos horder).trans ?_)
  rw [hfirst.take]
  intro h
  cases h <;> simp

theorem filter_strokeOf_eq_nil {side : Side} {l : List Waiting} (h : ∀ x ∈ l, ¬ Handoff.strokeOf side x.handoff = true) :
    (l.map (·.handoff)).filter (Handoff.strokeOf side) = [] := by
  rw [List.filter_eq_nil_iff]
  intro h' hmem
  obtain ⟨x, hx, rfl⟩ := List.mem_map.mp hmem
  exact h x hx

theorem strokeStateFirst_of_first {side : Side} {st : HeadState} {pre post : List Waiting} {afterPave : Bool}
    (hpre : ∀ x ∈ pre, ¬ Handoff.strokeOf side x.handoff = true) :
    strokeStateFirst side (pre ++ ⟨afterPave, .strokeState side st⟩ :: post) = true := by
  have hside : Handoff.strokeOf side (.strokeState side st) = true := beq_self_eq_true side
  rw [strokeStateFirst, List.map_append, List.filter_append, filter_strokeOf_eq_nil hpre, List.nil_append, List.map_cons,
    List.filter_cons_of_pos hside]

/-- R104: the change of state that follows the poll of the same transaction. -/
theorem strokeStateFirst_of_poll {side : Side} {st : HeadState} {result : StrokeResult} {pre mid post : List Waiting}
    {pollAfter stateAfter : Bool} (hpre : ∀ x ∈ pre, ¬ Handoff.strokeOf side x.handoff = true)
    (hmid : ∀ x ∈ mid, ¬ Handoff.strokeOf side x.handoff = true) :
    strokeStateFirst side (pre ++ ⟨pollAfter, .strokePoll side result st⟩ ::
      (mid ++ ⟨stateAfter, .strokeState side st⟩ :: post)) = true := by
  have hpoll : Handoff.strokeOf side (.strokePoll side result st) = true := beq_self_eq_true side
  have hstate : Handoff.strokeOf side (.strokeState side st) = true := beq_self_eq_true side
  rw [strokeStateFirst, List.map_append, List.filter_append, filter_strokeOf_eq_nil hpre, List.nil_append, List.map_cons,
    List.filter_cons_of_pos hpoll, List.map_append, List.filter_append, filter_strokeOf_eq_nil hmid, List.nil_append,
    List.map_cons, List.filter_cons_of_pos hstate]
  exact beq_self_eq_true st

theorem exec_strokePollHandoff {s : State} {side : Side} {result : StrokeResult} {st : HeadState} {rest : List Waiting}
    (hfirst : s.FirstWaiting (fun h => Handoff.strokeOf side h = true) (.strokePoll side result st) rest) :
    exec (.strokePollHandoff side) s = .next (State.strokePolled { s with inbox := rest } side result st) := by
  change execStrokePollHandoff side s = _
  rw [execStrokePollHandoff, hfirst.take _ fun _ => Iff.rfl]

theorem strokeMoves_iff (old new step : Nat) : strokeMoves old new step = true ↔ step ≤ max (new - old) (old - new) := by
  simp only [strokeMoves, decide_eq_true_eq]
  omega

theorem strokeOf_eq (value : Half) : strokeOf value = (max 0 (min 2500 value.toInt)).toNat := by
  rw [strokeOf, clamp_eq_max_min (by decide)]

section StrokePolled
variable {s : State} {side : Side} {result : StrokeResult} {st : HeadState}

/-- R98: a poll that moves the stroke. -/
theorem State.strokePolled_of_moved {v : Nat} (h : (s.seeStrokeHead side (some st)).polledStroke side result = some v) :
    s.strokePolled side result st =
      ((s.seeStrokeHead side (some st)).modGeu fun g => { g with stroke := g.stroke.set side v }).geometryEvent := by
  rw [State.strokePolled, h]
  rfl

/-- R98: a poll that leaves the stroke. -/
theorem State.strokePolled_of_kept (h : (s.seeStrokeHead side (some st)).polledStroke side result = none) :
    s.strokePolled side result st =
      if widthOf (s.seeStrokeHead side (some st)).geu.headSeen = s.geu.geometry.width then s.seeStrokeHead side (some st)
      else (s.seeStrokeHead side (some st)).geometryEvent := by
  rw [State.strokePolled, h]
  exact State.settleWidth_eq _

end StrokePolled

section PolledStroke
variable {s : State} {side : Side}

theorem State.polledStroke_of_reading {value : Half} (hwidth : widthOf s.geu.headSeen = .good) :
    s.polledStroke side (.reading value .valid) =
      if s.settingNat Setting.geometryStep ≤
          max (strokeOf value - s.geu.stroke.get side) (s.geu.stroke.get side - strokeOf value) then
        some (strokeOf value) else none := by
  refine if_congr ?_ rfl rfl
  rw [strokeMoves_iff]
  exact and_iff_right hwidth

theorem State.polledStroke_of_none {result : StrokeResult}
    (h : widthOf s.geu.headSeen = .stale ∨ result = .failed ∨ ∃ value, result = .reading value .invalid) :
    s.polledStroke side result = none := by
  unfold State.polledStroke
  split
  next value =>
    obtain h | h | ⟨v, h⟩ := h
    · refine if_neg ?_
      rintro ⟨hgood, -⟩
      cases h.symm.trans hgood
    · cases h
    · cases h
  next => rfl

end PolledStroke

section Handoffs
variable {s : State} {rest : List Waiting}

theorem exec_headTableRebuildAtGeu {left right : Option HeadState}
    (h : s.FirstWaiting (fun h => (Handoff.strokeOf .left h || Handoff.strokeOf .right h) = true)
      (.rebuildToGeu left right) rest) :
    exec .headTableRebuildAtGeu s = .next (State.strokeHeadsRebuilt { s with inbox := rest } left right) := by
  change execHeadTableRebuildAtGeu s = _
  rw [execHeadTableRebuildAtGeu, h.take _ fun _ => Iff.rfl]

theorem exec_geometryPageHandoff_of_inForce {left right : Nat}
    (h : s.FirstWaiting (fun h => (∃ x y, h = .geometryInForce x y) ∨ h = .geometryWithdrawn)
      (.geometryInForce left right) rest) :
    exec .geometryPageHandoff s = .next (State.setBolts { s with inbox := rest } left right) := by
  change execGeometryPageHandoff s = _
  rw [execGeometryPageHandoff, h.take]
  intro h
  cases h <;> simp

theorem exec_geometryPageHandoff_of_withdrawn
    (h : s.FirstWaiting (fun h => (∃ x y, h = .geometryInForce x y) ∨ h = .geometryWithdrawn) .geometryWithdrawn rest) :
    exec .geometryPageHandoff s = .next (State.setBolts { s with inbox := rest } 0 0) := by
  change execGeometryPageHandoff s = _
  rw [execGeometryPageHandoff, h.take]
  intro h
  cases h <;> simp

theorem exec_liveStrokeHandoff (h : s.FirstWaiting (fun h => h = .liveStroke) .liveStroke rest) :
    let u : State := { s with inbox := rest }
    exec .liveStrokeHandoff s = .next
      (if liveSet s.geu.stroke s.geu.bolt (s.settingNat Setting.liveStroke) ≠ s.geu.geometry.live then u.geometryEvent
       else u) := by
  change execLiveStrokeHandoff s = _
  rw [execLiveStrokeHandoff, h.take]
  · rfl
  · intro h
    cases h <;> simp

end Handoffs

/-- R97, R98, R104: what GEU does with the hand-offs of a side's STROKE head. -/
theorem stroke_handoffs (s : State) (side : Side) (rest : List Waiting) :
    let seen (st : Option HeadState) : State :=
      { s with inbox := rest, geu := { s.geu with headSeen := s.geu.headSeen.set side st } }
    let settle (u : State) : State := if widthOf u.geu.headSeen = u.geu.geometry.width then u else u.geometryEvent
    let channel := fun h => Handoff.strokeOf side h = true
    (∀ st, s.FirstWaiting channel (.strokeState side st) rest →
      exec (.strokeHeadStateChange side) s = .next (settle (seen (some st)))) ∧
    (∀ st result pre mid post,
      s.inbox = pre ++ ⟨false, .strokePoll side result st⟩ :: (mid ++ ⟨false, .strokeState side st⟩ :: post) →
      rest = pre ++ ⟨false, .strokePoll side result st⟩ :: (mid ++ post) →
      (∀ x ∈ pre ++ mid, ¬ channel x.handoff) →
      exec (.strokeHeadStateChange side) s = .next (settle (seen (some st)))) ∧
    (∀ st result, s.FirstWaiting channel (.strokePoll side result st) rest →
      let u := seen (some st)
      let old := s.geu.stroke.get side
      (∀ value, result = .reading value .valid → widthOf u.geu.headSeen = .good →
        let new := (max 0 (min 2500 value.toInt)).toNat
        (s.settingNat Setting.geometryStep ≤ max (new - old) (old - new) → exec (.strokePollHandoff side) s = .next
          (State.geometryEvent { u with geu := { u.geu with stroke := s.geu.stroke.set side new } })) ∧
        (max (new - old) (old - new) < s.settingNat Setting.geometryStep →
          exec (.strokePollHandoff side) s = .next (settle u))) ∧
      (widthOf u.geu.headSeen = .stale ∨ result = .failed ∨ (∃ value, result = .reading value .invalid) →
        exec (.strokePollHandoff side) s = .next (settle u))) := by
  intro seen settle channel
  have hchannel : ∀ h, (∃ x, h = Handoff.strokeState side x) → channel h := by
    rintro _ ⟨x, rfl⟩
    exact beq_self_eq_true side
  have hsettle (st : HeadState) : State.strokeHeadChanges { s with inbox := rest } side st = settle (seen (some st)) :=
    State.settleWidth_eq _
  refine ⟨fun st hfirst => ?_, fun st result pre mid post hinbox hrest hfree => ?_, fun st result hfirst => ?_⟩
  · have horder : strokeStateFirst side s.inbox = true := by
      obtain ⟨pre, afterPave, post, hinbox, -, -, hpre, -⟩ := hfirst
      rw [hinbox]
      exact strokeStateFirst_of_first hpre
    rw [exec_strokeHeadStateChange_of_first horder (hfirst.narrow hchannel ⟨st, rfl⟩), hsettle]
  · have horder : strokeStateFirst side s.inbox = true := by
      rw [hinbox]
      exact strokeStateFirst_of_poll (fun x hx => hfree x (List.mem_append_left _ hx))
        fun x hx => hfree x (List.mem_append_right _ hx)
    have hfirst : s.FirstWaiting (fun h => ∃ x, h = .strokeState side x) (.strokeState side st) rest := by
      refine ⟨pre ++ ⟨false, .strokePoll side result st⟩ :: mid, false, post, by simp [hinbox], by simp [hrest],
        ⟨st, rfl⟩, fun x hx hstate => ?_, fun h => nomatch h⟩
      have hmem : x ∈ pre ++ mid ∨ x = ⟨false, .strokePoll side result st⟩ := by
        simp only [List.mem_append, List.mem_cons] at hx ⊢
        tauto
      obtain hmem | rfl := hmem
      · exact hfree x hmem (hchannel _ hstate)
      · exact nomatch hstate
    rw [exec_strokeHeadStateChange_of_first horder hfirst, hsettle]
  · intro u old
    have hexec := exec_strokePollHandoff hfirst
    refine ⟨?_, fun h => hexec.trans (congrArg _ (State.strokePolled_of_kept (State.polledStroke_of_none h)))⟩
    rintro value rfl hwidth new
    have hpolled := State.polledStroke_of_reading (s := u) (side := side) (value := value) hwidth
    rw [strokeOf_eq] at hpolled
    exact ⟨fun h => hexec.trans (congrArg _ (State.strokePolled_of_moved (hpolled.trans (if_pos h)))),
      fun h => hexec.trans (congrArg _
        (State.strokePolled_of_kept (hpolled.trans (if_neg (Nat.not_le.mpr h)))))⟩

/-- Settles O34. -/
theorem geometryFollowsStrokesAndPages : Obligations.GeometryFollowsStrokesAndPages := by
  refine ⟨stroke_handoffs, fun s rest => ⟨fun left right h => ?_, fun left right => exec_geometryPageHandoff_of_inForce,
      exec_geometryPageHandoff_of_withdrawn, fun h => ?_⟩, fun s => ?_⟩
  · exact (exec_headTableRebuildAtGeu h).trans (congrArg _ (State.settleWidth_eq _))
  · rw [exec_liveStrokeHandoff h, ite_not]
  · intro left right live
    exact ⟨_, s.geometryEvent_eq, rfl, rfl, rfl, rfl, widthOf_eq_good_iff _, fun hleft _ => window_iff hleft⟩

end Sys2Proof.Machine

/-! PROOF. Deliveries, heads and modes of the sides (R106, R109, R110, R122). -/
namespace Sys2Proof.Machine

/-! ## A delivery on a side -/

theorem Collection.complete_iff (c : Collection) (members : List Nat) :
    c.complete members = true ↔ ∀ i ∈ members, ∃ x ∈ c.deliveries, x.head = i := by
  simp [Collection.complete]

theorem fullCollection_iff (c : Collection) (d : Delivery) (members : List Nat) :
    (c.round == d.round && c.complete members) = true ↔
      c.round = d.round ∧ ∀ i ∈ members, ∃ x ∈ c.deliveries, x.head = i := by
  rw [Bool.and_eq_true, beq_iff_eq, Collection.complete_iff]

section DeliverSide
variable {s : State} {side : Side} {d : Delivery}

/-- R110: what is not delivered to a side. -/
theorem State.deliverSide_of_other (h : d.head ∉ s.lvc.members side ∨ d.round ≤ (s.lvc.sides.get side).roundBar) :
    s.deliverSide side d = s := by
  refine if_pos ?_
  rw [Bool.or_eq_true, decide_eq_true_eq]
  exact h.imp_left fun h => by simpa using h

variable (hmember : d.head ∈ s.lvc.members side) (hround : (s.lvc.sides.get side).roundBar < d.round)
include hmember hround

/-- R110: a delivery joins its round's collection, which it may complete. -/
theorem State.deliverSide_of_member :
    let cs := addDelivery (s.lvc.sides.get side).collections d
    s.deliverSide side d =
      match cs.find? fun c => c.round == d.round && c.complete (s.lvc.members side) with
      | some c =>
        (s.modSide side fun r => { r with collections := cs.filter fun x => x.round != d.round }).correction side c.deliveries
      | none => s.modSide side fun r => { r with collections := cs } := by
  refine if_neg ?_
  rw [Bool.or_eq_true, decide_eq_true_eq, not_or]
  exact ⟨by simpa using hmember, Nat.not_le.mpr hround⟩

theorem State.deliverSide_of_open
    (h : ∀ c ∈ addDelivery (s.lvc.sides.get side).collections d,
      ¬ (c.round = d.round ∧ ∀ i ∈ s.lvc.members side, ∃ x ∈ c.deliveries, x.head = i)) :
    s.deliverSide side d =
      s.modSide side fun r => { r with collections := addDelivery (s.lvc.sides.get side).collections d } := by
  have hfind : (addDelivery (s.lvc.sides.get side).collections d).find?
      (fun c => c.round == d.round && c.complete (s.lvc.members side)) = none :=
    List.find?_eq_none.mpr fun c hc hfull => h c hc ((fullCollection_iff ..).mp hfull)
  rw [State.deliverSide_of_member hmember hround, hfind]

theorem State.deliverSide_of_full {before after : List Collection} {c : Collection}
    (hcs : addDelivery (s.lvc.sides.get side).collections d = before ++ c :: after)
    (hbefore : ∀ x ∈ before, ¬ (x.round = d.round ∧ ∀ i ∈ s.lvc.members side, ∃ y ∈ x.deliveries, y.head = i))
    (hc : c.round = d.round ∧ ∀ i ∈ s.lvc.members side, ∃ x ∈ c.deliveries, x.head = i) :
    s.deliverSide side d = (s.modSide side fun r => { r with
      collections := (addDelivery (s.lvc.sides.get side).collections d).filter fun x => x.round != d.round }).correction
        side c.deliveries := by
  have hfind : (addDelivery (s.lvc.sides.get side).collections d).find?
      (fun c => c.round == d.round && c.complete (s.lvc.members side)) = some c := by
    refine List.find?_eq_some_iff_append.mpr ⟨(fullCollection_iff ..).mpr hc, before, after, hcs, fun x hx => ?_⟩
    rw [Bool.not_eq_true']
    exact Bool.eq_false_iff.mpr fun hfull => hbefore x hx ((fullCollection_iff ..).mp hfull)
  rw [State.deliverSide_of_member hmember hround, hfind]

end DeliverSide

/-! ## The hand-offs to LVC -/

/-- R91, R93, R122: the channel from HLC to LVC. -/
theorem Handoff.toLvc_iff (h : Handoff) :
    h.toLvc = true ↔ (∃ x, h = .delivery x) ∨ (∃ x y, h = .headStateToLvc x y) ∨
      (∃ x y, h = .headFailedToLvc x y) ∨ ∃ x, h = .rebuildToLvc x := by
  cases h <;> simp [Handoff.toLvc]

section ToLvc
variable {s : State} {rest : List Waiting}

theorem exec_roundMemberDelivery {d : Delivery} (h : s.FirstWaiting (fun h => (∃ x, h = Handoff.delivery x) ∨
      (∃ x y, h = .headStateToLvc x y) ∨ (∃ x y, h = .headFailedToLvc x y) ∨ ∃ x, h = .rebuildToLvc x) (.delivery d) rest) :
    exec .roundMemberDelivery s = .next ((State.deliverSide
      { s with inbox := rest, lvc := s.lvc.receiveRound d.round s.hlc.roundNumber } .left d).deliverSide .right d) := by
  change execRoundMemberDelivery s = _
  rw [execRoundMemberDelivery, h.take _ Handoff.toLvc_iff]
  rfl

theorem Lvc.receiveRound_eq (l : Lvc) (round present : Nat) :
    l.receiveRound round present =
      { l with highestRound := if round ≤ present then max l.highestRound round else l.highestRound } := by
  unfold Lvc.receiveRound
  split <;> rfl

theorem exec_headStateChangeAtLvc {i : Nat} {st : HeadState} {h : Handoff}
    (hh : h = .headStateToLvc i st ∨ h = .headFailedToLvc i st)
    (hfirst : s.FirstWaiting (fun h => (∃ x, h = Handoff.delivery x) ∨ (∃ x y, h = .headStateToLvc x y) ∨
      (∃ x y, h = .headFailedToLvc x y) ∨ ∃ x, h = .rebuildToLvc x) h rest) :
    exec .headStateChangeAtLvc s = .next { s with inbox := rest, lvc := { s.lvc with
      heads := s.lvc.heads.modify i fun x => { x with state := st } } } := by
  change execHeadStateChangeAtLvc s = _
  rw [execHeadStateChangeAtLvc, hfirst.take _ Handoff.toLvc_iff]
  obtain rfl | rfl := hh <;> rfl

theorem exec_headTableRebuildAtLvc {heads : List LvcHead}
    (h : s.FirstWaiting (fun h => (∃ x, h = Handoff.delivery x) ∨ (∃ x y, h = .headStateToLvc x y) ∨
      (∃ x y, h = .headFailedToLvc x y) ∨ ∃ x, h = .rebuildToLvc x) (.rebuildToLvc heads) rest) :
    exec .headTableRebuildAtLvc s = .next ((State.settleMembers { s with inbox := rest, lvc := { s.lvc with
      heads := heads, sides := ⟨s.lvc.sides.left.rebuilt, s.lvc.sides.right.rebuilt⟩ } } .left).settleMembers .right) := by
  change execHeadTableRebuildAtLvc s = _
  rw [execHeadTableRebuildAtLvc, h.take _ Handoff.toLvc_iff]
  rfl

theorem exec_sideModeHandoff {side : Side} {mode : SideMode}
    (h : s.FirstWaiting (fun h => ∃ x, h = .sideMode side x) (.sideMode side mode) rest) :
    exec (.sideModeHandoff side) s = .next (State.modSide { s with inbox := rest } side fun r => r.takeMode mode) := by
  change execSideModeHandoff side s = _
  rw [execSideModeHandoff, h.take]
  intro h
  cases h <;> simp

end ToLvc

/-- Settles O35. -/
theorem sidesFollowRoundsAndModes : Obligations.SidesFollowRoundsAndModes := by
  refine ⟨fun s rest => ⟨fun d h => ?_, fun i st h => ?_, fun heads => exec_headTableRebuildAtLvc,
    fun side mode h => ?_⟩, fun s side d => ⟨State.deliverSide_of_other, fun hmember hround =>
      ⟨State.deliverSide_of_open hmember hround, fun before c after => State.deliverSide_of_full hmember hround⟩⟩⟩
  · rw [exec_roundMemberDelivery h, Lvc.receiveRound_eq]
  · exact h.elim (exec_headStateChangeAtLvc (.inl rfl)) (exec_headStateChangeAtLvc (.inr rfl))
  · rw [exec_sideModeHandoff h]
    refine ⟨?_, ?_, ?_⟩
    · rintro rfl
      rfl
    · rintro rfl
      rfl
    · rintro (rfl | rfl) <;> rfl

end Sys2Proof.Machine

/-! PROOF. The corrections of a side: candidates, the mean without its outlier, averages and pulses (R110 to R118). -/
namespace Sys2Proof.Machine

/-! ## The candidates and their mean -/

/-- R111: a candidate is a VALID reading of an ACTIVE head inside the window. -/
theorem SideRecord.candidate_iff (r : SideRecord) (window : Int) (d : Delivery) (v : Int) :
    r.candidate window d = some v ↔
      ∃ reading, d.outcome = .reading reading .valid ∧ d.state = .active ∧ v = reading.toInt ∧
        ∀ a, r.lastAverage = some a →
          a.toInt - window ≤ reading.toInt + r.rebase.toInt ∧ reading.toInt + r.rebase.toInt ≤ a.toInt + window := by
  unfold SideRecord.candidate
  split
  next reading houtcome hstate =>
    have hreading (x : Half) : d.outcome = .reading x .valid ↔ x = reading := by
      rw [houtcome]
      simp [eq_comm]
    simp only [hreading, hstate, true_and, exists_eq_left]
    split
    next hnone => simp [hnone, eq_comm]
    next a ha =>
      simp only [ha, Option.some.injEq, forall_eq', Option.ite_none_right_eq_some]
      rw [and_comm, eq_comm]
  next hno =>
    refine ⟨nofun, ?_⟩
    rintro ⟨reading, houtcome, hstate, -⟩
    exact absurd hstate (hno reading houtcome)

theorem candidatesOf_eq (r : SideRecord) (window : Int) (members : List Nat) (ds : List Delivery) :
    candidatesOf r window members ds = members.filterMap fun i =>
      (ds.find? fun d => d.head == i).bind fun d => (r.candidate window d).map fun v => (i, v) := by
  refine congrArg (List.filterMap · members) (funext fun i => ?_)
  cases ds.find? fun d => d.head == i <;> rfl

theorem insertSorted_eq_orderedInsert (x : Int) (l : List Int) : insertSorted x l = l.orderedInsert (· ≤ ·) x := by
  induction l with
  | nil => rfl
  | cons y l ih => rw [insertSorted, List.orderedInsert, ih]

theorem foldr_insertSorted (vs : List Int) : vs.foldr insertSorted [] = vs.insertionSort (· ≤ ·) := by
  have hinsert : insertSorted = List.orderedInsert (· ≤ ·) := funext₂ fun x l => insertSorted_eq_orderedInsert x l
  rw [hinsert]
  rfl

theorem foldl_max_ge (l : List Nat) (a : Nat) : a ≤ l.foldl max a ∧ ∀ x ∈ l, x ≤ l.foldl max a := by
  induction l generalizing a with
  | nil => simp
  | cons y l ih =>
    obtain ⟨hacc, hmem⟩ := ih (max a y)
    rw [List.foldl_cons]
    refine ⟨by omega, fun x hx => ?_⟩
    obtain rfl | hx := List.mem_cons.mp hx
    · omega
    · exact hmem x hx

theorem foldl_max_mem (l : List Nat) (a : Nat) : l.foldl max a = a ∨ l.foldl max a ∈ l := by
  induction l generalizing a with
  | nil => exact .inl rfl
  | cons y l ih =>
    rw [List.foldl_cons]
    obtain h | h := ih (max a y)
    · rw [h]
      rcases max_choice a y with hmax | hmax <;> simp [hmax]
    · exact .inr (List.mem_cons_of_mem y h)

/-- The last place at which a list of numbers holds its greatest. -/
theorem last_greatest {ds : List Nat} (hne : ds ≠ []) :
    let k := ((List.range ds.length).filter fun i => ds.getD i 0 == ds.foldl max 0).getLastD 0
    k < ds.length ∧ (∀ i < ds.length, ds.getD i 0 ≤ ds.getD k 0) ∧
      ∀ i < ds.length, ds.getD i 0 = ds.getD k 0 → i ≤ k := by
  intro k
  have hplaces (i : Nat) : i ∈ (List.range ds.length).filter (fun i => ds.getD i 0 == ds.foldl max 0) ↔
      i < ds.length ∧ ds.getD i 0 = ds.foldl max 0 := by
    rw [List.mem_filter, List.mem_range, beq_iff_eq]
  have hsorted : ((List.range ds.length).filter fun i => ds.getD i 0 == ds.foldl max 0).Pairwise (· < ·) :=
    List.pairwise_lt_range.filter _
  have hex : ∃ i, i ∈ (List.range ds.length).filter fun i => ds.getD i 0 == ds.foldl max 0 := by
    simp only [hplaces]
    obtain h | h := foldl_max_mem ds 0
    · obtain ⟨x, l, rfl⟩ := List.exists_cons_of_ne_nil hne
      refine ⟨0, Nat.succ_pos _, ?_⟩
      have := (foldl_max_ge (x :: l) 0).2 x (by simp)
      rw [List.getD_cons_zero]
      omega
    · obtain ⟨i, hi, hget⟩ := List.getElem_of_mem h
      exact ⟨i, hi, by rw [List.getD_eq_getElem _ _ hi, hget]⟩
  revert k hsorted hplaces hex
  generalize ((List.range ds.length).filter fun i => ds.getD i 0 == ds.foldl max 0) = places
  intro k hplaces hsorted hex
  obtain ⟨i₀, hi₀⟩ := hex
  have hnil : places ≠ [] := List.ne_nil_of_mem hi₀
  have hk : k = places.getLast hnil := List.getLastD_eq_getLast?.trans (by rw [List.getLast?_eq_getLast_of_ne_nil hnil]; rfl)
  obtain ⟨hlt, hval⟩ := (hplaces k).mp (hk ▸ List.getLast_mem hnil)
  refine ⟨hlt, fun i hi => ?_, fun i hi heq => ?_⟩
  · rw [hval, List.getD_eq_getElem _ _ hi]
    exact (foldl_max_ge ds 0).2 _ (List.getElem_mem hi)
  · have hmem : i ∈ places := (hplaces i).mpr ⟨hi, heq.trans hval⟩
    rw [hk]
    exact (hsorted.imp le_of_lt).rel_getLast hmem

/-- R112: with 4 or 5 readings the one farthest from the median, the latest of those in set order, is left out. -/
theorem meanReading_of_many {vs : List Int} (h : vs.length = 4 ∨ vs.length = 5) :
    ∃ k, k < vs.length ∧ meanReading vs = (vs.eraseIdx k).sum.tdiv (vs.length - 1) ∧
      ∃ sorted : List Int, sorted.Perm vs ∧ sorted.Pairwise (· ≤ ·) ∧
        let twiceMedian := if vs.length = 4 then sorted.getD 1 0 + sorted.getD 2 0 else 2 * sorted.getD 2 0
        let far (i : Nat) : Nat := (2 * vs.getD i 0 - twiceMedian).natAbs
        (∀ i < vs.length, far i ≤ far k) ∧ ∀ i < vs.length, far i = far k → i ≤ k := by
  have hpos : 0 < vs.length := by omega
  have hne : vs.map (doubleDistance (doubleMedian vs)) ≠ [] := by
    intro hnil
    rw [List.map_eq_nil_iff.mp hnil] at hpos
    exact absurd hpos (lt_irrefl 0)
  obtain ⟨hk, hmax, hlast⟩ := last_greatest hne
  change outlierAt vs < _ at hk
  change ∀ i < _, _ ≤ (vs.map (doubleDistance (doubleMedian vs))).getD (outlierAt vs) 0 at hmax
  change ∀ i < _, _ = (vs.map (doubleDistance (doubleMedian vs))).getD (outlierAt vs) 0 → i ≤ outlierAt vs at hlast
  rw [List.length_map] at hk hmax hlast
  have hget (i : Nat) (hi : i < vs.length) :
      (vs.map (doubleDistance (doubleMedian vs))).getD i 0 = doubleDistance (doubleMedian vs) (vs.getD i 0) := by
    rw [List.getD_eq_getElem _ _ (by simpa using hi), List.getElem_map, List.getD_eq_getElem _ _ hi]
  have hmean : meanReading vs = (vs.eraseIdx (outlierAt vs)).sum.tdiv (vs.length - 1) := by
    rw [meanReading, keptReadings, if_pos (by omega), List.length_eraseIdx_of_lt hk, Nat.cast_sub (by omega)]
    rfl
  refine ⟨outlierAt vs, hk, hmean, vs.insertionSort (· ≤ ·), List.perm_insertionSort _ vs,
    List.pairwise_insertionSort _ vs, ?_⟩
  rw [← foldr_insertSorted]
  exact ⟨fun i hi => (hget i hi).symm.le.trans ((hmax i hi).trans (hget _ hk).le),
    fun i hi heq => hlast i hi ((hget i hi).trans (heq.trans (hget _ hk).symm))⟩

/-! ## The valve -/

section GivePulse
variable {s : State} {side : Side} {p : Pulse}

/-- R118: the valve state of a pulse. -/
def Direction.pulsing : Direction → ValveState
  | .up => .pulsingUp
  | .down => .pulsingDown

theorem State.startPulse_eq (s : State) (side : Side) (p : Pulse) :
    s.startPulse side p = s.modSide side fun r => { r with
      valve := p.direction.pulsing, pulseEnd := some (s.rif.runTime + BitVec.ofNat 32 p.width), waiting := none } := by
  unfold State.startPulse Direction.pulsing
  rfl

theorem State.givePulse_of_same (h : (s.sideRecord side).valve = .idle ∨ (s.sideRecord side).valve = p.direction.pulsing) :
    s.givePulse side p = s.startPulse side p := by
  unfold State.givePulse
  obtain h | h := h
  · rw [h]
  · rw [h]
    cases p.direction <;> rfl

theorem State.givePulse_of_reverse (hidle : (s.sideRecord side).valve ≠ .idle)
    (hpulsing : (s.sideRecord side).valve ≠ p.direction.pulsing) (hgap : (s.sideRecord side).valve ≠ .reversalGap) :
    s.givePulse side p = s.beginGap side p := by
  unfold State.givePulse
  revert hpulsing
  cases hv : (s.sideRecord side).valve <;> cases p.direction <;> simp_all [Direction.pulsing]

theorem State.givePulse_of_gap (h : (s.sideRecord side).valve = .reversalGap) :
    s.givePulse side p = s.modSide side fun r => { r with waiting := some p } := by
  unfold State.givePulse
  rw [h]

end GivePulse

/-! ## Corrections -/

@[simp] theorem PerSide.get_set_same {α : Type} (p : PerSide α) (side : Side) (v : α) : (p.set side v).get side = v := by
  cases side <;> rfl

@[simp] theorem PerSide.set_set {α : Type} (p : PerSide α) (side : Side) (v w : α) :
    (p.set side v).set side w = p.set side w := by
  cases side <;> rfl

section Settled
variable (s : State) (side : Side) (status : ReferenceStatus) (value : Nat)

/-- R116: settling the reference leaves the side's mode. -/
@[simp] theorem State.settleReference_modeSeen :
    ((s.settleReference side status value).lvc.sides.get side).modeSeen = (s.lvc.sides.get side).modeSeen := by
  by_cases h : (s.lvc.sides.get side).status = status
  · rw [State.settleReference_of_eq value h]
  · rw [State.settleReference_of_ne value h]
    simp

@[simp] theorem State.settleReference_setting (i : SettingId) :
    (s.settleReference side status value).setting i = s.setting i := by
  simp [State.setting]

@[simp] theorem State.settleReference_settingNat (i : SettingId) :
    (s.settleReference side status value).settingNat i = s.settingNat i := by
  simp [State.settingNat]

end Settled

theorem State.correction_of_grade {s : State} {side : Side} {ds : List Delivery}
    (hmode : (s.lvc.sides.get side).modeSeen ≠ .off) (hkind : (s.lvc.sides.get side).kind = .grade) :
    s.correction side ds = s.gradeCorrection side ds := by
  refine (if_neg hmode).trans ?_
  rw [State.sideRecord, hkind]

theorem State.correction_of_slope {s : State} {side : Side} {d : Delivery} {more : List Delivery}
    (hmode : (s.lvc.sides.get side).modeSeen ≠ .off) (hkind : (s.lvc.sides.get side).kind = .slope) :
    s.correction side (d :: more) = s.slopeCorrection side d := by
  refine (if_neg hmode).trans ?_
  rw [State.sideRecord, hkind]

theorem State.duePulse_none (s : State) (side : Side) : s.duePulse side none = s := rfl

theorem State.duePulse_some {s : State} {side : Side} (p : Pulse) (hmode : (s.lvc.sides.get side).modeSeen = .auto) :
    s.duePulse side (some p) = s.givePulse side p := if_pos hmode

/-- R117: a due pulse is given in AUTO. -/
theorem State.duePulse_cases {s : State} {side : Side} {mode : SideMode} (hmode : (s.lvc.sides.get side).modeSeen = mode)
    {small : Prop} [Decidable small] (p : Pulse) :
    (small ∨ mode ≠ .auto → s.duePulse side (if small then none else some p) = s) ∧
    (¬ small → mode = .auto → s.duePulse side (if small then none else some p) = s.givePulse side p) := by
  refine ⟨fun h => ?_, fun h hauto => ?_⟩
  · by_cases hsmall : small
    · rw [if_pos hsmall, State.duePulse_none]
    · exact State.duePulse_of_not_auto (fun hauto => h.resolve_left hsmall (hmode.symm.trans hauto)) _
  · rw [if_neg h]
    exact State.duePulse_some p (hmode.trans hauto)

/-- R113: the rebase offset and the average after a correction that found enough heads. -/
theorem SideRecord.corrected_eq (r : SideRecord) (set : List Nat) (mean : Int) :
    let rebase := match r.lastAverage with
      | some a => if set = r.inUse then r.rebase else to32 (a.toInt - mean)
      | none => r.rebase
    r.corrected set mean =
      { r with inUse := set, rebase := rebase, lastAverage := some (to32 (mean + rebase.toInt)) } := by
  have hrebase : r.rebased set mean = match r.lastAverage with
      | some a => if set = r.inUse then r.rebase else to32 (a.toInt - mean)
      | none => r.rebase := by
    unfold SideRecord.rebased
    cases r.lastAverage <;> rfl
  intro rebase
  rw [SideRecord.corrected, hrebase]

theorem State.setting_gradeSetting (s : State) (side : Side) :
    s.setting (gradeSetting side) = s.setting (if side = .left then 0 else 1) := by
  cases side <;> rfl

/-- R114: the pulse due from an error. -/
theorem State.gradePulse_eq (s : State) (e : Int) :
    s.gradePulse e = if e.natAbs ≤ s.settingNat Setting.gradeDeadband then none
      else some ⟨if 0 < e then .up else .down, min (s.settingNat Setting.pulseMax) (s.settingNat Setting.pulseMin +
        (e.natAbs - s.settingNat Setting.gradeDeadband) * s.settingNat Setting.gradeGain)⟩ := rfl

/-- R114: the pulse due depends on the settings alone. -/
theorem State.gradePulse_congr {s u : State} (h : ∀ i, u.settingNat i = s.settingNat i) (e : Int) :
    u.gradePulse e = s.gradePulse e := by
  unfold State.gradePulse
  rw [h, h, h, h]

/-- R115: the pulse due from a deviation. -/
theorem State.slopePulse_eq (s : State) (side : Side) (x : Int) :
    s.slopePulse side x = if x.natAbs ≤ s.settingNat Setting.slopeDeadband then none
      else some ⟨if decide (0 < x) = decide (side = .left) then .up else .down,
        min (s.settingNat Setting.pulseMax) (s.settingNat Setting.pulseMin +
          (x.natAbs - s.settingNat Setting.slopeDeadband) * s.settingNat Setting.slopeGain)⟩ := by
  have hdirection : slopeDirection side x = if decide (0 < x) = decide (side = .left) then .up else .down := by
    cases side <;> by_cases hx : 0 < x <;> simp [slopeDirection, hx]
  rw [← hdirection]
  rfl

section GradeCorrection
variable {s : State} {side : Side} {ds : List Delivery}

/-- R111: too few candidates. -/
theorem State.gradeCorrection_of_few
    (h : (candidatesOf (s.sideRecord side) (s.setting Setting.sonicWindow) (s.lvc.members side) ds).length <
      s.settingNat Setting.minHeads) :
    s.gradeCorrection side ds = s.settleReference side .lost
      (candidatesOf (s.sideRecord side) (s.setting Setting.sonicWindow) (s.lvc.members side) ds).length := if_pos h

/-- R112 to R114: enough candidates: the average is kept and a pulse may be due. -/
theorem State.gradeCorrection_of_enough {found : List (Nat × Int)}
    (hfound : candidatesOf (s.sideRecord side) (s.setting Setting.sonicWindow) (s.lvc.members side) ds = found)
    (h : s.settingNat Setting.minHeads ≤ found.length) :
    let t := s.settleReference side .ok found.length
    let now := t.lvc.sides.get side
    let r := now.corrected (found.map (·.1)) (meanReading (found.map (·.2)))
    let u : State := { t with lvc := { t.lvc with sides := t.lvc.sides.set side r } }
    let e := now.zero.toInt + s.setting (gradeSetting side) - (r.lastAverage.getD 0).toInt
    s.gradeCorrection side ds = u.duePulse side (s.gradePulse e) := by
  intro t now r u e
  have hu : u.sideRecord side = r := PerSide.get_set_same ..
  have hsps : u.sps = s.sps := by simp [u, t]
  have hsetting (i : SettingId) : u.setting i = s.setting i := congrArg (fun p : Sps => p.entries[i].value) hsps
  have hpulse (e : Int) : u.gradePulse e = s.gradePulse e :=
    State.gradePulse_congr (fun i => congrArg Int.toNat (hsetting i)) e
  have hcorrection : s.gradeCorrection side ds = u.duePulse side (u.gradePulse
      ((u.sideRecord side).zero.toInt + u.setting (gradeSetting side) - ((u.sideRecord side).lastAverage.getD 0).toInt)) := by
    unfold State.gradeCorrection
    rw [hfound]
    exact if_neg (Nat.not_lt.mpr h)
  rw [hcorrection, hu, hsetting, hpulse]
  rfl

end GradeCorrection

section SlopeCorrection
variable {s : State} {side : Side} {d : Delivery}

theorem State.slopeCorrection_of_lost (h : d.state ≠ .active ∨ ∀ v, d.outcome ≠ .reading v .valid) :
    s.slopeCorrection side d = s.settleReference side .lost d.state.code := by
  unfold State.slopeCorrection
  split
  next v houtcome hstate => exact absurd houtcome (h.resolve_left (not_not_intro hstate) v)
  next => rfl

theorem State.slopeCorrection_of_reading {v : Half} (hstate : d.state = .active) (houtcome : d.outcome = .reading v .valid) :
    s.slopeCorrection side d =
      (s.settleReference side .ok 1).duePulse side (s.slopePulse side (v.toInt - s.setting Setting.slopeSet)) := by
  have hpulse (x : Int) : (s.settleReference side .ok 1).slopePulse side x = s.slopePulse side x := by
    unfold State.slopePulse
    rw [State.settleReference_settingNat, State.settleReference_settingNat, State.settleReference_settingNat,
      State.settleReference_settingNat]
  unfold State.slopeCorrection
  rw [hstate, houtcome]
  dsimp only
  rw [State.settleReference_setting, hpulse]

end SlopeCorrection

/-- Settles O36. -/
theorem correctionsMakeAveragesAndPulses : Obligations.CorrectionsMakeAveragesAndPulses := by
  refine ⟨fun s side ds => ⟨fun h => if_pos h, fun hmode hkind => ?_, ?_⟩, fun s side status value =>
      ⟨State.settleReference_of_eq value, fun h => ?_⟩, SideRecord.candidate_iff,
    fun vs => ⟨fun h => ?_, meanReading_of_many⟩, fun s side p => ⟨fun h => ?_, fun hidle hpulsing hgap => ?_,
      State.givePulse_of_gap⟩⟩
  · intro found
    rw [State.correction_of_grade hmode hkind]
    have hfound : candidatesOf (s.sideRecord side) (s.setting Setting.sonicWindow) (s.lvc.members side) ds = found :=
      candidatesOf_eq ..
    refine ⟨fun h => ?_, fun h => ?_⟩
    · rw [State.gradeCorrection_of_few (by rw [hfound]; exact h), hfound]
    · intro t now mean rebase average u e width
      have hcorrection : s.gradeCorrection side ds = State.duePulse
          { t with lvc := { t.lvc with sides := t.lvc.sides.set side (now.corrected (found.map (·.1)) mean) } } side
          (s.gradePulse (now.zero.toInt + s.setting (gradeSetting side) -
            ((now.corrected (found.map (·.1)) mean).lastAverage.getD 0).toInt)) :=
        State.gradeCorrection_of_enough hfound h
      rw [SideRecord.corrected_eq, State.setting_gradeSetting, State.gradePulse_eq] at hcorrection
      have hu : (u.lvc.sides.get side).modeSeen = (s.lvc.sides.get side).modeSeen := by
        simp only [u, now, t, PerSide.get_set_same, State.settleReference_modeSeen]
      obtain ⟨hkept, hgiven⟩ := State.duePulse_cases (s := u) (side := side) hu
        (small := e.natAbs ≤ s.settingNat Setting.gradeDeadband) ⟨if 0 < e then .up else .down, width⟩
      exact ⟨fun h => hcorrection.trans (hkept h), fun h hauto => hcorrection.trans (hgiven (Nat.not_le.mpr h) hauto)⟩
  · rintro d more hmode hkind rfl
    rw [State.correction_of_slope hmode hkind]
    refine ⟨State.slopeCorrection_of_lost, fun v hstate houtcome => ?_⟩
    intro t x width
    rw [State.slopeCorrection_of_reading hstate houtcome, State.slopePulse_eq]
    obtain ⟨hkept, hgiven⟩ := State.duePulse_cases (s := t) (side := side) (State.settleReference_modeSeen s side .ok 1)
      (small := x.natAbs ≤ s.settingNat Setting.slopeDeadband)
      ⟨if decide (0 < x) = decide (side = .left) then .up else .down, width⟩
    exact ⟨hkept, fun h => hgiven (Nat.not_le.mpr h)⟩
  · rw [State.settleReference_of_ne value h]
    cases side <;> rfl
  · rw [meanReading, keptReadings, if_neg (Nat.not_le.mpr h)]
  · rw [State.givePulse_of_same h, State.startPulse_eq]
    rfl
  · exact State.givePulse_of_reverse hidle hpulsing hgap

end Sys2Proof.Machine

/-! PROOF. The pulse end time (R119) and CAPTURE (R120). -/
namespace Sys2Proof.Machine

/-! ## PULSE_END -/

theorem exec_pulseEnd {s : State} {side : Side} {expiry : Word} (h : (s.lvc.sides.get side).pulseEnd = some expiry) :
    exec (.pulseEnd side) s = .next ((s.runTo expiry).pulseEnds side) := by
  change execPulseEnd side s = _
  rw [execPulseEnd, State.sideRecord, h]

/-- R119: a gap with a pulse waiting ends by starting it. -/
theorem State.pulseEnds_of_waiting {s : State} {side : Side} {p : Pulse}
    (hgap : (s.lvc.sides.get side).valve = .reversalGap) (hwaiting : (s.lvc.sides.get side).waiting = some p) :
    s.pulseEnds side = s.startPulse side p := by
  rw [State.pulseEnds, State.sideRecord, hgap, hwaiting]

/-- R119: a pulse, and a gap with nothing waiting, just end. -/
theorem State.pulseEnds_of_ended {s : State} {side : Side}
    (h : (s.lvc.sides.get side).valve ≠ .reversalGap ∨ (s.lvc.sides.get side).waiting = none) :
    s.pulseEnds side = s.modSide side SideRecord.endPulse := by
  unfold State.pulseEnds
  split
  next p hgap hwaiting =>
    obtain h | h := h
    · exact absurd hgap h
    · exact nomatch h.symm.trans hwaiting
  next => rfl

theorem State.modSide_runTo (s : State) (expiry : Word) (side : Side) (f : SideRecord → SideRecord) :
    (s.runTo expiry).modSide side f =
      { s.runTo expiry with lvc := { s.lvc with sides := s.lvc.sides.set side (f (s.lvc.sides.get side)) } } := by
  have hlvc : (s.runTo expiry).lvc = s.lvc := by simp
  rw [← hlvc]
  rfl

/-- Settles O37. -/
theorem pulseEnd : Obligations.PulseEnd := by
  intro s side expiry hexpiry t r put
  have hlvc : t.lvc = s.lvc := by simp [t]
  have hexec := exec_pulseEnd hexpiry
  refine ⟨fun h => ⟨_, hexec, ?_, ?_⟩, fun p hgap hwaiting => ?_, fun hgap hwaiting => ?_⟩
  · rw [State.pulseEnds_of_ended (.inl (by rw [hlvc]; obtain h | h := h <;> (rw [h]; decide))), State.modSide_runTo]
    rfl
  · rw [State.pulseEnds_of_ended (.inl (by rw [hlvc]; obtain h | h := h <;> (rw [h]; decide))), State.modSide_runTo]
    simp [State.upOutput, State.downOutput, SideRecord.endPulse]
  · rw [hexec, State.pulseEnds_of_waiting (by rwa [hlvc]) (by rwa [hlvc]), State.startPulse_eq, State.modSide_runTo]
    rfl
  · rw [hexec, State.pulseEnds_of_ended (.inr (by rwa [hlvc])), State.modSide_runTo]
    rfl

/-! ## CAPTURE -/

theorem SideRecord.capturable_iff (r : SideRecord) :
    r.capturable = true ↔ r.kind = .grade ∧ r.status = .ok ∧ r.lastAverage ≠ none := by
  simp [SideRecord.capturable, Option.isSome_iff_ne_none, and_assoc]

/-- R120: CAPTURE's check and what it does. -/
theorem exec_capture {s : State} {o : Order} (ho : s.orderOf .capture = some o) :
    let r := s.sideRecord o.side
    exec .capture s = .next (
      if (!r.capturable) = true then s.finishRefused .wrongState
      else (s.modSide o.side fun r =>
        { r with rebase := 0, lastAverage := some r.lastMean, zero := r.lastMean }).finishDone r.lastMean
        false false false) := by
  change execCapture s = _
  rw [execCapture, ho]

/-- R120: the side after a CAPTURE of a mean. -/
theorem State.captured_eq {s : State} {side : Side} {d : Word} (h : (s.lvc.sides.get side).lastMean = d) :
    let r : SideRecord := { s.lvc.sides.get side with rebase := 0, lastAverage := some d, zero := d }
    (s.modSide side fun r => { r with rebase := 0, lastAverage := some r.lastMean, zero := r.lastMean }) =
      { s with lvc := { s.lvc with sides := s.lvc.sides.set side r } } := by
  subst h
  rfl

/-- Settles O38. -/
theorem capture : Obligations.Capture := by
  intro s o ho side r
  have hexec := exec_capture ho
  refine ⟨fun h => hexec.trans (congrArg Host.Outcome.next (if_pos ?_)), fun a hkind hstatus ha => ?_⟩
  · rw [Bool.not_eq_true', Bool.eq_false_iff, ne_eq, SideRecord.capturable_iff]
    rintro ⟨hkind, hstatus, haverage⟩
    exact h.elim (· hkind) fun h => h.elim (· hstatus) haverage
  · have hcapturable : r.capturable = true := (SideRecord.capturable_iff r).mpr ⟨hkind, hstatus, by simp [ha]⟩
    have hmean : r.lastMean = to32 (a.toInt - r.rebase.toInt) := by rw [SideRecord.lastMean, ha, Option.getD_some]
    intro d
    refine hexec.trans (congrArg Host.Outcome.next ((if_neg (not_ne_true_of_eq_true hcapturable)).trans ?_))
    exact congrArg₂ (State.finishDone · · false false false) (State.captured_eq hmean) hmean

end Sys2Proof.Machine

/-! PROOF. Temperature and current samples, the confirm and max-on timers, and the faults of zones (R125, R126, R129 to
R132). -/
namespace Sys2Proof.Machine

/-! ## Zones -/

theorem Zone.closed_iff (z : Zone) : z.closed = true ↔ z.state = .closing ∨ z.state = .on := by simp [Zone.closed]

theorem Zone.welded_iff (z : Zone) : z.welded = true ↔ z.state = .fault ∧ z.faultKind = some .welded := by
  simp [Zone.welded]

theorem Zone.not_welded_iff (z : Zone) : (!z.welded) = true ↔ ¬ (z.state = .fault ∧ z.faultKind = some .welded) := by
  rw [← z.welded_iff]
  cases z.welded <;> decide

theorem mainClass_iff (sect : Section) : mainClass sect = true ↔ sect = .mainL ∨ sect = .mainR := by
  cases sect <;> simp [mainClass]

/-- R127: the contactor commanded open; open since is kept where it was open already. -/
theorem Zone.release_eq (now : Word) (state : ZoneState) : (fun z : Zone => z.release now state) = fun z =>
    { z with
      openSince := if z.state = .closing ∨ z.state = .on then now else z.openSince
      confirmTimer := none, maxOnTimer := none, state := state } := by
  funext z
  simp only [Zone.release, Zone.closed_iff]

/-! ## What a sample shows (R125, R132) -/

section Sample
variable {z : Zone} {now : Word} {current : Nat}

theorem Zone.currentFault_of_overcurrent (hclosed : z.state = .closing ∨ z.state = .on) (hhigh : 1300 < current) :
    z.currentFault now current = some .overcurrent :=
  (if_pos (z.closed_iff.mpr hclosed)).trans (if_pos hhigh)

theorem Zone.currentFault_of_welded (hopen : ¬ (z.state = .closing ∨ z.state = .on)) (hflows : 100 ≤ current)
    (hlong : 200 ≤ (now - z.openSince).toNat) (hfresh : ¬ (z.state = .fault ∧ z.faultKind = some .welded)) :
    z.currentFault now current = some .welded := by
  exact (if_neg (z.closed_iff.not.mpr hopen)).trans (if_pos ⟨hflows, hlong, z.not_welded_iff.mpr hfresh⟩)

theorem Zone.currentFault_of_neither (hhigh : ¬ ((z.state = .closing ∨ z.state = .on) ∧ 1300 < current))
    (hwelds : ¬ (¬ (z.state = .closing ∨ z.state = .on) ∧ 100 ≤ current ∧ 200 ≤ (now - z.openSince).toNat ∧
      ¬ (z.state = .fault ∧ z.faultKind = some .welded))) : z.currentFault now current = none := by
  unfold Zone.currentFault
  by_cases hclosed : z.state = .closing ∨ z.state = .on
  · rw [if_pos (z.closed_iff.mpr hclosed), if_neg fun h => hhigh ⟨hclosed, h⟩]
  · rw [if_neg (z.closed_iff.not.mpr hclosed), if_neg]
    rintro ⟨hflows, hlong, hfresh⟩
    refine hwelds ⟨hclosed, hflows, hlong, z.not_welded_iff.mp hfresh⟩

theorem Zone.sensorFault_iff (z : Zone) (temperature : Int) : z.sensorFault temperature = true ↔
    (4000 < temperature ∨ temperature < -400) ∧ z.state ≠ .disabled ∧ z.state ≠ .fault := by
  simp [Zone.sensorFault, and_assoc]

end Sample

section Judge
variable {s : State} {i : Nat} {z : Zone} {temperature : Int} {current : Nat}

theorem State.judgeSample_of_fault {kind : ZoneFault} (h : z.currentFault s.now current = some kind) :
    s.judgeSample i z temperature current = s.enterFault i kind := by
  unfold State.judgeSample
  rw [h]

theorem State.judgeSample_of_sensor (h : z.currentFault s.now current = none) (hsensor : z.sensorFault temperature = true) :
    s.judgeSample i z temperature current = s.enterFault i .sensor := by
  unfold State.judgeSample
  rw [h]
  exact if_pos hsensor

theorem State.judgeSample_of_sound (h : z.currentFault s.now current = none) (hsensor : ¬ z.sensorFault temperature = true) :
    s.judgeSample i z temperature current = s.temperatureMoves i z temperature := by
  unfold State.judgeSample
  rw [h]
  exact if_neg hsensor

/-- R129: a zone in IDLE below the setpoint by more than the hysteresis waits for power. -/
theorem State.temperatureMoves_of_low (hidle : z.state = .idle)
    (hlow : temperature < s.setpoint z.sect - s.setting Setting.hysteresis) :
    s.temperatureMoves i z temperature = (s.waitZone i).attempt := by
  simp only [State.temperatureMoves, hidle, if_pos hlow]

/-- R129: a zone in WAITING or ON at the setpoint is IDLE. -/
theorem State.temperatureMoves_of_reached (hstate : z.state = .waiting ∨ z.state = .on)
    (hreached : s.setpoint z.sect ≤ temperature) : s.temperatureMoves i z temperature = (s.leaveZone i .idle).attempt := by
  rcases hstate with hstate | hstate <;> simp only [State.temperatureMoves, hstate, if_pos hreached]

/-- R129: any other sample moves no zone. -/
theorem State.temperatureMoves_of_stays
    (h : z.state = .idle ∧ ¬ temperature < s.setpoint z.sect - s.setting Setting.hysteresis ∨
      (z.state = .waiting ∨ z.state = .on) ∧ temperature < s.setpoint z.sect ∨
      z.state = .disabled ∨ z.state = .locked ∨ z.state = .closing ∨ z.state = .fault) :
    s.temperatureMoves i z temperature = s := by
  rcases h with ⟨hidle, hwarm⟩ | ⟨hstate | hstate, hcold⟩ | hstate | hstate | hstate | hstate
  · simp only [State.temperatureMoves, hidle, if_neg hwarm]
  · simp only [State.temperatureMoves, hstate, if_neg (Int.not_le.mpr hcold)]
  · simp only [State.temperatureMoves, hstate, if_neg (Int.not_le.mpr hcold)]
  all_goals simp only [State.temperatureMoves, hstate]

end Judge

theorem State.setpoint_eq (s : State) (sect : Section) : s.setpoint sect =
    s.setting (if sect = .mainL ∨ sect = .mainR then 12 else 13) -
      if s.htc.levelSeen = .hold then s.setting Setting.holdOffset else 0 := by
  simp only [State.setpoint, mainClass_iff]

/-! ## Commands -/

theorem Htc.converting_iff (h : Htc) : h.converting = true ↔ h.runSeen = .running ∨ h.runSeen = .stopping := by
  simp [Htc.converting]

section Sampled
variable {s : State} {k : Fin 24} {z : Zone} (hz : s.htc.zones[k.val]? = some z)
include hz

theorem exec_zoneSample_of_still (temperature : Int) (current : Nat) (hstill : ¬ s.htc.converting = true) :
    exec (.zoneSample k temperature current) s = .next s := by
  change execZoneSample k temperature current s = _
  rw [execZoneSample, hz]
  exact congrArg Host.Outcome.next (if_neg hstill)

theorem exec_zoneSample_of_converting (temperature : Int) (current : Nat) (hconverts : s.htc.converting = true) :
    exec (.zoneSample k temperature current) s = .next
      ((s.modZone k fun z => { z with temperature := some temperature, current := some current }).judgeSample k z
        temperature current) := by
  change execZoneSample k temperature current s = _
  rw [execZoneSample, hz]
  exact congrArg Host.Outcome.next (if_pos hconverts)

/-- R125, R129, R132: a sample while the converter runs is stored, then checked. -/
theorem exec_zoneSample_eq (temperature : Int) (current : Nat)
    (hruns : s.htc.runSeen = .running ∨ s.htc.runSeen = .stopping) {t : State}
    (hjudge : (s.modZone k fun z => { z with temperature := some temperature, current := some current }).judgeSample k z
      temperature current = t) : exec (.zoneSample k temperature current) s = .next t :=
  (exec_zoneSample_of_converting hz _ _ (s.htc.converting_iff.mpr hruns)).trans (congrArg _ hjudge)

theorem exec_confirmTimerExpiry_of_some {expiry : Word} (current : Nat) (htimer : z.confirmTimer = some expiry) :
    exec (.confirmTimerExpiry k current) s = .next ((s.runTo expiry).confirmEnds k current) := by
  have hbind : (s.htc.zones[k.val]?).bind (·.confirmTimer) = some expiry := by rw [hz]; exact htimer
  change execConfirmTimerExpiry k current s = _
  rw [execConfirmTimerExpiry, hbind]

theorem exec_maxOnExpiry_of_on {expiry : Word} (hon : z.state = .on) (htimer : z.maxOnTimer = some expiry) :
    exec (.maxOnExpiry k) s = .next ((s.runTo expiry).rotate k z) := by
  change execMaxOnExpiry k s = _
  simp only [execMaxOnExpiry, hz, hon, htimer]

end Sampled

/-- R130: a current that confirms the closing makes the zone ON. -/
theorem State.confirmEnds_of_flows (s : State) (i : Nat) {current : Nat} (h : 500 ≤ current) :
    s.confirmEnds i current =
      s.modZone i fun z => { z with current := some current, confirmTimer := none, state := .on } := by
  refine (if_pos h).trans ?_
  simp only [State.modZone, State.modHtc, Htc.modZone, List.modify_modify_eq]
  rfl

theorem State.confirmEnds_of_open (s : State) (i : Nat) {current : Nat} (h : current < 500) : s.confirmEnds i current =
    (s.modZone i fun z => { z with current := some current, confirmTimer := none }).enterFault i .openElement :=
  if_neg (Nat.not_le.mpr h)

theorem State.belowSetpoint_iff (s : State) (z : Zone) :
    s.belowSetpoint z = true ↔ ∀ x, z.temperature = some x → x < s.setpoint z.sect := by
  unfold State.belowSetpoint
  cases z.temperature <;> simp

/-- R127: a zone leaves its state for one with the contactor open. -/
theorem State.leaveZone_eq (s : State) (i : Nat) (state : ZoneState) : s.leaveZone i state = { s with
    htc := { s.htc with
      zones := s.htc.zones.modify i fun z => { z with
        openSince := if z.state = .closing ∨ z.state = .on then s.rif.runTime else z.openSince
        confirmTimer := none, maxOnTimer := none, state := state }
      waiting := s.htc.waiting.filter (· != i) } } := by
  rw [← Zone.release_eq]
  rfl

/-- Settles O40. -/
theorem zoneSamplesAndTimers : Obligations.ZoneSamplesAndTimers := by
  refine ⟨fun s k z temperature current hz => ⟨fun hrun hstop => ?_, fun hruns => ?_⟩, fun s k z expiry current hz => ?_,
    fun s k z expiry hz hon htimer => ?_, State.setpoint_eq, State.leaveZone_eq, fun s i kind => rfl⟩
  · exact exec_zoneSample_of_still hz _ _ fun h => (s.htc.converting_iff.mp h).elim hrun hstop
  · intro stored closed tooHigh welds fails setpoint low
    refine ⟨fun ⟨hclosed, hhigh⟩ => ?_, fun ⟨hopen, hflows, hlong, hfresh⟩ => ?_, fun hhigh hwelds => ?_⟩
    · exact exec_zoneSample_eq hz _ _ hruns (State.judgeSample_of_fault (Zone.currentFault_of_overcurrent hclosed hhigh))
    · exact exec_zoneSample_eq hz _ _ hruns
        (State.judgeSample_of_fault (Zone.currentFault_of_welded hopen hflows hlong hfresh))
    · have hsound : z.currentFault stored.now current = none := Zone.currentFault_of_neither hhigh hwelds
      refine ⟨fun hfails => ?_, fun hfails => ?_⟩
      · exact exec_zoneSample_eq hz _ _ hruns (State.judgeSample_of_sensor hsound ((z.sensorFault_iff _).mpr hfails))
      · have hmoves : stored.judgeSample k z temperature current = stored.temperatureMoves k z temperature :=
          State.judgeSample_of_sound hsound ((z.sensorFault_iff _).not.mpr hfails)
        refine ⟨fun hidle hlow => ?_, fun hstate hreached => ?_, fun hstays => ?_⟩
        · exact exec_zoneSample_eq hz _ _ hruns (hmoves.trans (State.temperatureMoves_of_low hidle hlow))
        · exact exec_zoneSample_eq hz _ _ hruns (hmoves.trans (State.temperatureMoves_of_reached hstate hreached))
        · exact exec_zoneSample_eq hz _ _ hruns (hmoves.trans (State.temperatureMoves_of_stays hstays))
  · intro t read htimer
    have hexec := exec_confirmTimerExpiry_of_some hz current htimer
    exact ⟨fun hflows => hexec.trans (congrArg _ (State.confirmEnds_of_flows _ _ hflows)),
      fun hopen => hexec.trans (congrArg _ (State.confirmEnds_of_open _ _ hopen))⟩
  · intro t
    have hexec := exec_maxOnExpiry_of_on hz hon htimer
    refine ⟨fun hbelow => ?_, fun x hx hreached => ?_⟩
    · exact hexec.trans (congrArg _ (if_pos ((t.belowSetpoint_iff z).mpr hbelow)))
    · refine hexec.trans (congrArg _ (if_neg fun h => ?_))
      exact Int.not_lt.mpr hreached ((t.belowSetpoint_iff z).mp h x hx)

end Sys2Proof.Machine

/-! PROOF. The power arbiter: the time rules, the grant attempt and the grant (R136 to R138). -/
namespace Sys2Proof.Machine

/-! ## The time rules (R137) -/

/-- R137: of closings in order the last comes latest. -/
theorem all_le_of_getLast? {l : List Nat} (hsorted : l.Pairwise (· ≤ ·)) {last : Nat} (hlast : l.getLast? = some last) :
    ∀ x ∈ l, x ≤ last := by
  obtain ⟨before, rfl⟩ := List.getLast?_eq_some_iff.mp hlast
  intro x hx
  rcases List.mem_append.mp hx with hx | hx
  · exact (List.pairwise_append.mp hsorted).2.2 x hx last (List.mem_singleton_self last)
  · exact (List.mem_singleton.mp hx).le

/-- R137: of closings in order the first comes earliest. -/
theorem headD_le {l : List Nat} (hsorted : l.Pairwise (· ≤ ·)) : ∀ x ∈ l, l.headD 0 ≤ x := by
  cases l with
  | nil => simp
  | cons first rest =>
    intro x hx
    rcases List.mem_cons.mp hx with rfl | hx
    · exact Nat.le_refl _
    · exact (List.pairwise_cons.mp hsorted).1 x hx

/-- R137, rule 4: fewer than four closings fell in a span that reaches from the first to now or not. -/
theorem countP_recent_lt_iff {l : List Nat} (hsorted : l.Pairwise (· ≤ ·)) {now : Nat} (hfour : l.length = 4) :
    l.countP (fun x => decide (now < x + 2000)) < 4 ↔ l.headD 0 + 2000 ≤ now := by
  have hall : l.countP (fun x => decide (now < x + 2000)) = 4 ↔ ∀ x ∈ l, now < x + 2000 := by
    rw [← hfour, List.countP_eq_length]
    simp
  have hmost : l.countP (fun x => decide (now < x + 2000)) ≤ 4 := hfour ▸ List.countP_le_length
  have hhead : l.headD 0 ∈ l := by
    cases l with
    | nil => cases hfour
    | cons first rest => exact List.mem_cons_self
  have hfirst : (∀ x ∈ l, now < x + 2000) ↔ now < l.headD 0 + 2000 :=
    ⟨fun h => h _ hhead, fun h x hx => Nat.lt_of_lt_of_le h (Nat.add_le_add_right (headD_le hsorted x hx) _)⟩
  rw [hfirst] at hall
  omega

/-- R137: the earliest moment has come when all three time rules are met. -/
theorem ClosingHistory.earliest_le_iff (c : ClosingHistory) (sect : Section) (now : Nat) (hlength : c.latest.length ≤ 4)
    (hsorted : c.latest.Pairwise (· ≤ ·)) : c.earliest sect ≤ now ↔
      (∀ x ∈ c.latest, x + 100 ≤ now) ∧ (∀ x, c.bySection.toList[sect.code]? = some (some x) → x + 500 ≤ now) ∧
      c.latest.countP (fun x => decide (now < x + 2000)) < 4 := by
  unfold ClosingHistory.earliest
  rw [Nat.max_le, Nat.max_le]
  refine and_congr ?_ (and_congr ?_ ?_)
  · cases hlast : c.latest.getLast? with
    | none => simp [List.getLast?_eq_none_iff.mp hlast]
    | some last =>
      exact ⟨fun h x hx => Nat.le_trans (Nat.add_le_add_right (all_le_of_getLast? hsorted hlast x hx) _) h,
        fun h => h last (List.mem_of_getLast? hlast)⟩
  · split
    next x hx => rw [hx]; simp
    next hnone => exact ⟨fun _ x hx => absurd hx (hnone x), fun _ => Nat.zero_le _⟩
  · split
    next hfew => exact ⟨fun _ => Nat.lt_of_le_of_lt List.countP_le_length hfew, fun _ => Nat.zero_le _⟩
    next hfew => exact (countP_recent_lt_iff hsorted (by omega)).symm

/-! ## Attempts and grants -/

section Zones
variable {h : Htc} {i : Nat} {z : Zone} (hz : h.zones[i]? = some z)
include hz

theorem Htc.grantable_iff :
    h.grantable i = true ↔ h.draw + z.rating ≤ h.available ∧ h.closings.earliest z.sect ≤ h.clock := by
  simp [Htc.grantable, hz, Htc.fits]

theorem Htc.moment_eq_some_iff (m : Nat) :
    h.moment i = some m ↔ h.draw + z.rating ≤ h.available ∧ m = h.closings.earliest z.sect := by
  simp [Htc.moment, hz, Htc.fits, eq_comm]

end Zones

/-- R137: no zone may be granted: the attempt sets the arbiter timer alone. -/
theorem State.attempt_of_none {s : State} (h : ∀ i ∈ s.htc.waiting, s.htc.grantable i = false) :
    s.attempt = s.modHtc Htc.setArbiter := by
  have hfind : s.htc.waiting.find? s.htc.grantable = none :=
    List.find?_eq_none.mpr fun i hi => Bool.eq_false_iff.mp (h i hi)
  unfold State.attempt
  rw [hfind]

/-- R137: the first zone of the list that may be granted is. -/
theorem State.attempt_of_first {s : State} {before after : List Nat} {i : Nat}
    (hlist : s.htc.waiting = before ++ i :: after) (hbefore : ∀ k ∈ before, s.htc.grantable k = false)
    (hi : s.htc.grantable i = true) : s.attempt = (s.grant i).modHtc Htc.setArbiter := by
  have hfind : s.htc.waiting.find? s.htc.grantable = some i :=
    List.find?_eq_some_iff_append.mpr ⟨hi, before, after, hlist, fun k hk => by simp [hbefore k hk]⟩
  unfold State.attempt
  rw [hfind]

/-- R138: a grant closes the contactor, records the closing and starts the zone's timers. -/
theorem State.grant_eq {s : State} {i : Nat} {z : Zone} (hz : s.htc.zones[i]? = some z) : s.grant i = { s with
    htc := { s.htc with
      waiting := s.htc.waiting.filter (· != i), closings := s.htc.closings.push z.sect s.htc.clock
      zones := s.htc.zones.modify i s.granted } } := by
  simp only [State.grant, State.modHtc, Htc.modZone, hz]
  rfl

/-- Settles O41. -/
theorem powerArbiterGrants : Obligations.PowerArbiterGrants := by
  refine ⟨fun s moment harbiter => ?_, fun s => ⟨State.attempt_of_none, fun _ _ _ => State.attempt_of_first⟩,
    fun h i z hz => ⟨Htc.grantable_iff hz, Htc.moment_eq_some_iff hz⟩,
    fun c sect now hlength _ => c.earliest_le_iff sect now hlength, fun s i z => State.grant_eq⟩
  change execArbiterTimerExpiry s = _
  rw [execArbiterTimerExpiry, harbiter]

end Sys2Proof.Machine

/-! PROOF. Whatever the command, a contactor closes by a grant alone, within the time rules and the power (R137, R138). -/
namespace Sys2Proof.Machine


theorem Htc.closesWell_refl (a : Htc) : a.closesWell a := .inl a.noClosing_refl

theorem Htc.closesWell_of_zones {a b : Htc} (hclosings : b.closings = a.closings) (hzones : b.zones = a.zones) :
    a.closesWell b := .inl (Htc.noClosing_of_zones hclosings hzones)

/-- R138: a zone that waits, opens or leaves brings at most the one grant of the attempt behind it. -/
theorem State.waitZone_attempt_closesWell (s : State) (i : Nat) : s.htc.closesWell (s.waitZone i).attempt.htc :=
  Htc.noClosing_closes (s.waitZone_noClosing i) (State.attempt_closesWell _)

theorem State.leaveZone_attempt_closesWell (s : State) (i : Nat) {state : ZoneState} (h : state ≠ .closing) :
    s.htc.closesWell (s.leaveZone i state).attempt.htc :=
  Htc.noClosing_closes (s.leaveZone_noClosing i state h) (State.attempt_closesWell _)

theorem State.temperatureMoves_closesWell (s : State) (i : Nat) (z : Zone) (temperature : Int) :
    s.htc.closesWell (s.temperatureMoves i z temperature).htc := by
  unfold State.temperatureMoves
  dsimp only
  split
  · split
    · exact s.waitZone_attempt_closesWell i
    · exact Htc.closesWell_refl _
  · split
    · exact s.leaveZone_attempt_closesWell i (by decide)
    · exact Htc.closesWell_refl _
  · split
    · exact s.leaveZone_attempt_closesWell i (by decide)
    · exact Htc.closesWell_refl _
  · exact Htc.closesWell_refl _

theorem State.judgeSample_closesWell (s : State) (i : Nat) (z : Zone) (temperature : Int) (current : Nat) :
    s.htc.closesWell (s.judgeSample i z temperature current).htc := by
  unfold State.judgeSample
  split
  · exact s.enterFault_closesWell i _
  · split
    · exact s.enterFault_closesWell i _
    · exact s.temperatureMoves_closesWell i z temperature

theorem State.confirmEnds_closesWell (s : State) (i current : Nat) :
    s.htc.closesWell (s.confirmEnds i current).htc := by
  by_cases hflows : 500 ≤ current
  · rw [s.confirmEnds_of_flows i hflows]
    refine .inl (s.modZone_noClosing i _ fun z h => ?_)
    cases h
  · rw [s.confirmEnds_of_open i (Nat.not_le.mp hflows)]
    refine Htc.noClosing_closes ?_ (State.enterFault_closesWell _ i .openElement)
    exact s.modZone_noClosing i _ fun z h => h

theorem State.rotate_closesWell (s : State) (i : Nat) (z : Zone) : s.htc.closesWell (s.rotate i z).htc := by
  unfold State.rotate
  split
  · exact s.waitZone_attempt_closesWell i
  · exact s.leaveZone_attempt_closesWell i (by decide)

theorem Htc.settle_noClosing {a b : Htc} (hclosings : b.closings = a.closings) (f : Nat → Zone → Zone)
    (hf : ∀ i z, f i z = z ∨ (f i z).state ≠ .closing) (hzones : b.zones = a.zones.mapIdx f) : a.noClosing b :=
  Htc.noClosing_mapIdx hclosings f (fun i z h => (hf i z).elim (fun he => he ▸ h) fun hne => absurd h hne) hzones

theorem State.takeLevel_closesWell (s : State) (level : HeatLevel) : s.htc.closesWell (s.takeLevel level).htc := by
  unfold State.takeLevel
  dsimp only
  split
  · refine .inl (Htc.settle_noClosing rfl (fun _ z => z.off s.now) (fun _ z => ?_) rfl)
    unfold Zone.off
    split
    · exact .inl rfl
    · exact .inr (by simp [Zone.release])
  · split
    · refine .inl (Htc.settle_noClosing rfl (fun i z => if z.state = .disabled then
        { z with state := (s.modHtc fun h => { h with levelSeen := level }).htc.settled i z.sect } else z) (fun i z => ?_) rfl)
      split
      · exact .inr (Htc.settled_ne_closing _ i z.sect)
      · exact .inl rfl
    · exact Htc.closesWell_of_zones rfl rfl

theorem Zone.relive_same_or (z : Zone) (live : LiveSet) (now : Word) :
    z.relive live now = z ∨ (z.relive live now).state ≠ .closing := by
  unfold Zone.relive
  (repeat' split) <;> simp [Zone.release]

theorem State.takeLive_closesWell (s : State) (live : LiveSet) : s.htc.closesWell (s.takeLive live).htc := by
  unfold State.takeLive
  dsimp only
  refine Htc.noClosing_closes ?_ (State.attempt_closesWell _)
  exact Htc.settle_noClosing rfl (fun _ z => z.relive live s.now) (fun _ z => z.relive_same_or live s.now) rfl

/-- R124: no zone of a new table stands in CLOSING. -/
theorem Htc.noClosing_of_settled {a b : Htc} (hclosings : b.closings = a.closings)
    (h : ∀ (k : Nat) (z : Zone), b.zones[k]? = some z → z.state ≠ .closing) : a.noClosing b :=
  ⟨hclosings, fun k z hz hclosing => absurd hclosing (h k z hz)⟩

theorem State.rebuildZones_closesWell (s : State) (items : List ZoneItem) :
    s.htc.closesWell (s.rebuildZones items).htc := by
  unfold State.rebuildZones
  dsimp only
  refine Htc.noClosing_closes ?_ (State.attempt_closesWell _)
  refine Htc.noClosing_of_settled rfl fun k z hz => ?_
  change (items.mapIdx fun i z => z.zone s.now (s.htc.settled i z.sect))[k]? = some z at hz
  rw [List.getElem?_mapIdx] at hz
  obtain ⟨item, _, rfl⟩ := Option.map_eq_some_iff.mp hz
  exact Htc.settled_ne_closing _ _ _

theorem State.applyEnable_closesWell (s : State) (i : Nat) (on : Bool) : s.htc.closesWell (s.applyEnable i on).htc := by
  unfold State.applyEnable
  split
  · exact Htc.closesWell_refl _
  · split
    case h_1 => exact .inl (s.modZone_noClosing i _ fun z h => absurd h (Htc.settled_ne_closing _ _ _))
    case h_7 => exact Htc.closesWell_refl _
    all_goals exact s.leaveZone_attempt_closesWell i (by decide)

theorem State.clearZone_closesWell (s : State) (i : Nat) : s.htc.closesWell (s.clearZone i).htc :=
  Htc.noClosing_closes (s.modZone_noClosing i _ fun _ h => absurd h (Htc.settled_ne_closing _ _ _))
    (State.attempt_closesWell _)

/-! ## The commands -/

theorem exec_zoneSample_closesWell {k : Fin 24} {temperature : Int} {current : Nat} {s t : State}
    (h : exec (.zoneSample k temperature current) s = .next t) : s.htc.closesWell t.htc := by
  cases h
  split
  next z hz =>
    split
    next =>
      refine Htc.noClosing_closes ?_ (State.judgeSample_closesWell _ _ _ _ _)
      exact s.modZone_noClosing _ _ fun z h => h
    next => exact Htc.closesWell_refl _
  next => exact Htc.closesWell_refl _

/-- R137, R138: a command closes at most one contactor, as the rules of the arbiter allow; a reset empties the table. -/
theorem exec_closesWell (c : Instr) (s t : State) (h : exec c s = .next t) (hpower : c ≠ .powerOnReset)
    (hsoft : ∀ v, c ≠ .softReset v) : s.htc.closesWell t.htc := by
  by_cases hb : Block.htc ∈ Instr.writes c
  case neg =>
    have heq : t.htc = s.htc := exec_writes c s t h .htc hb
    exact heq ▸ Htc.closesWell_refl _
  cases c
  case powerOnReset => exact absurd rfl hpower
  case softReset v => exact absurd rfl (hsoft v)
  case zoneSample => exact exec_zoneSample_closesWell h
  case confirmTimerExpiry =>
    cases h
    split
    next => exact Htc.noClosing_closes (s.runTo_noClosing _) (State.confirmEnds_closesWell _ _ _)
    next => exact Htc.closesWell_refl _
  case maxOnExpiry =>
    cases h
    split
    next =>
      split
      next => exact Htc.noClosing_closes (s.runTo_noClosing _) (State.rotate_closesWell _ _ _)
      next => exact Htc.closesWell_refl _
    next => exact Htc.closesWell_refl _
  case arbiterTimerExpiry =>
    cases h
    split
    next => exact Htc.noClosing_closes (Htc.noClosing_of_zones rfl rfl) (State.attempt_closesWell _)
    next => exact Htc.closesWell_refl _
  case reportAgeExpiry =>
    cases h
    split
    next => exact Htc.noClosing_closes (Htc.noClosing_of_zones rfl rfl) (State.recomputeBudget_closesWell _)
    next => exact Htc.closesWell_refl _
  case generatorReport | generatorAbsence | budgetSettingHandoff =>
    cases h
    split
    next htake =>
      refine Htc.noClosing_closes ?_ (State.recomputeBudget_closesWell _)
      have hframe := State.take_frame htake
      exact Htc.noClosing_of_zones (by simp [hframe]) (by simp [hframe])
    next => exact Htc.closesWell_refl _
  case heatingLevelHandoff =>
    cases h
    split
    next level s' htake =>
      have hframe : s'.htc = s.htc := by simp [State.take_frame htake]
      exact hframe ▸ s'.takeLevel_closesWell level
    next => exact Htc.closesWell_refl _
  case geometryAtHtc =>
    cases h
    split
    next record s' htake =>
      have hframe : s'.htc = s.htc := by simp [State.take_frame htake]
      exact hframe ▸ s'.takeLive_closesWell record.live
    next => exact Htc.closesWell_refl _
  case zoneMapNewlyInForce =>
    cases h
    split
    next items s' htake =>
      have hframe : s'.htc = s.htc := by simp [State.take_frame htake]
      exact hframe ▸ s'.rebuildZones_closesWell items
    next => exact Htc.closesWell_refl _
  case zoneMapWithdrawn =>
    cases h
    split
    next s' htake =>
      have hframe : s'.htc = s.htc := by simp [State.take_frame htake]
      refine .inl (Htc.noClosing_of_settled ?_ fun k z hz => ?_)
      · exact (congrArg Htc.closings hframe :)
      · cases hz
    next => exact Htc.closesWell_refl _
  case runStatusAtHtc =>
    cases h
    split
    next status s' htake =>
      have hframe : s'.htc = s.htc := by simp [State.take_frame htake]
      dsimp only
      split
      next =>
        refine hframe ▸ .inl (Htc.noClosing_mapIdx ?_ (fun _ z =>
          { z with onCount := 0, temperature := none, current := none, openSince := 0 }) (fun _ _ hz => hz) ?_)
        · rfl
        · rfl
      next => exact hframe ▸ Htc.closesWell_of_zones rfl rfl
    next => exact Htc.closesWell_refl _
  case setZone =>
    cases h
    split
    next =>
      split
      next => simpa using Htc.closesWell_refl s.htc
      next =>
        simp only [State.finishDone_frame]
        refine Htc.noClosing_closes ?_ (State.applyEnable_closesWell _ _ _)
        exact Htc.noClosing_of_zones rfl rfl
    next => exact Htc.closesWell_refl _
  case clearFaultZone =>
    cases h
    split
    next =>
      split
      next => simpa using Htc.closesWell_refl s.htc
      next =>
        split
        next => simpa using Htc.closesWell_refl s.htc
        next =>
          split
          next => simpa using Htc.closesWell_refl s.htc
          next =>
            simp only [State.finishDone_frame]
            exact State.clearZone_closesWell _ _
    next => exact Htc.closesWell_refl _
  case exposureTimerExpiry =>
    cases h
    split
    next =>
      dsimp only
      (repeat' split) <;> exact Htc.closesWell_of_zones rfl rfl
    next => exact Htc.closesWell_refl _
  all_goals
    first
    | (simp [Instr.writes] at hb; done)
    | (cases h
       split
       next => refine Htc.closesWell_of_zones ?_ ?_ <;> simp [State.runTo_htc]
       next => exact Htc.closesWell_refl _)

/-- Settles O42. -/
theorem closingsKeepTheTimeRules : Obligations.ClosingsKeepTheTimeRules := by
  intro c s t h hpower hsoft
  rcases exec_closesWell c s t h hpower hsoft with ⟨hclosings, hnone⟩ | ⟨i, z, hz, hclosing, hpush, htime, hfits, hothers⟩
  · exact .inl ⟨hclosings, fun k ⟨z, hz, hclosing⟩ => hnone k z hz hclosing⟩
  · exact .inr ⟨i, z, hz, hclosing, hpush, htime, hfits, fun k hk ⟨z', hz', hc⟩ => hothers k z' hk hz' hc⟩

end Sys2Proof.Machine

/-! PROOF. The budget in force, its inputs, shedding and BUDGET_LOW (R133 to R135). -/
namespace Sys2Proof.Machine

/-! ## The budget (R133) -/

theorem State.budgetNow_of_fresh {s : State} {r : HtcReport} (hreport : s.htc.report = some r) (hfresh : r.fresh = true) :
    s.budgetNow = min (s.settingNat Setting.budgetHost) r.power := by
  unfold State.budgetNow
  rw [hreport]
  exact if_pos hfresh

theorem State.budgetNow_of_stale {s : State} (hstale : ∀ r, s.htc.report = some r → r.fresh = false) :
    s.budgetNow = s.settingNat Setting.budgetHost * s.settingNat Setting.fallbackPercent / 100 := by
  unfold State.budgetNow
  split
  next r hr => exact if_neg (Bool.eq_false_iff.mp (hstale r hr))
  next => rfl

/-- R133, R134: the state with the budget that is in force now. -/
def State.rebudgeted (s : State) : State := s.modHtc fun h => { h with budget := s.budgetNow }

section Recompute
variable {s : State}

theorem State.recomputeBudget_of_same (h : s.budgetNow = s.htc.budget) : s.recomputeBudget = s.rebudgeted :=
  (if_neg (Nat.not_lt.mpr h.le)).trans (if_neg (Nat.not_lt.mpr h.ge))

theorem State.recomputeBudget_of_rise (h : s.htc.budget < s.budgetNow) :
    s.recomputeBudget = (s.rebudgeted.modHtc fun h => { h with budgetLow := false }).attempt := if_pos h

theorem State.recomputeBudget_of_fall (h : s.budgetNow < s.htc.budget) : s.recomputeBudget =
    if s.rebudgeted.htc.draw ≤ s.rebudgeted.htc.available then s.rebudgeted.reportLow
    else s.rebudgeted.shedAll.reportLow.attempt :=
  (if_neg (Nat.not_lt.mpr (Nat.le_of_lt h))).trans (if_pos h)

end Recompute

/-! ## The commands -/

theorem Handoff.power_iff (h : Handoff) :
    h.power = true ↔ (∃ x, h = .generatorReport x) ∨ h = .generatorAbsence := by
  cases h <;> simp [Handoff.power]

theorem exec_reportAgeExpiry_of_some {s : State} {expiry : Word} (h : s.htc.reportAge = some expiry) :
    exec .reportAgeExpiry s = .next ((s.runTo expiry).modHtc fun h =>
      { h with reportAge := none, report := h.report.map fun r => { r with fresh := false } }).recomputeBudget := by
  change execReportAgeExpiry s = _
  rw [execReportAgeExpiry, h]

section Handed
variable {s : State} {rest : List Waiting}

theorem exec_generatorReport_of_first {r : PowerReport}
    (h : s.FirstWaiting (fun h => (∃ x, h = .generatorReport x) ∨ h = .generatorAbsence) (.generatorReport r) rest) :
    exec .generatorReport s = .next (State.takeReport { s with inbox := rest } r) := by
  change execGeneratorReport s = _
  rw [execGeneratorReport, h.take _ Handoff.power_iff]

theorem exec_generatorAbsence_of_first
    (h : s.FirstWaiting (fun h => (∃ x, h = .generatorReport x) ∨ h = .generatorAbsence) .generatorAbsence rest) :
    exec .generatorAbsence s = .next (State.recomputeBudget { s with
      inbox := rest, htc := { s.htc with report := none, reportAge := none } }) := by
  change execGeneratorAbsence s = _
  rw [execGeneratorAbsence, h.take _ Handoff.power_iff]
  rfl

theorem exec_budgetSettingHandoff_of_first (h : s.FirstWaiting (fun h => h = .budgetSetting) .budgetSetting rest) :
    exec .budgetSettingHandoff s = .next (State.recomputeBudget { s with inbox := rest }) := by
  change execBudgetSettingHandoff s = _
  rw [execBudgetSettingHandoff, h.take]
  intro h
  cases h <;> simp

end Handed

/-! ## Shedding (R134) -/

theorem Htc.available_eq (h : Htc) : h.available = h.budget * 100 -
    (h.zones.map fun z => if z.state = .fault ∧ z.faultKind = some .welded then z.rating else 0).sum := by
  simp only [Htc.available, Htc.weldedRating, Zone.welded_iff]

theorem Htc.draw_eq (h : Htc) :
    h.draw = (h.zones.map fun z => if z.state = .closing ∨ z.state = .on then z.rating else 0).sum := by
  simp only [Htc.draw, Zone.closed_iff]

theorem Htc.isMain_of_closedOf {h : Htc} {main : Bool} {i : Nat} (hi : i ∈ h.closedOf main) : h.isMain i = main := by
  simp only [Htc.closedOf, List.mem_filter, Bool.and_eq_true, beq_iff_eq] at hi
  exact hi.2.2

/-- R134: the zones of a class in the order of their indices. -/
theorem Htc.closedOf_rising (h : Htc) (main : Bool) : (h.closedOf main).Pairwise (· < ·) :=
  List.pairwise_lt_range.filter _

/-- R134: a zone to shed stands closed; one of MAIN only where none of EXTENSION does. -/
theorem Htc.victim_leastBy {h : Htc} {now : Word} {i : Nat} (hi : h.victim now = some i) :
    leastBy (h.grantAge now) (h.closedOf (h.isMain i)) = some i ∧ (h.isMain i = true → h.closedOf false = []) := by
  unfold Htc.victim at hi
  cases hfalse : leastBy (h.grantAge now) (h.closedOf false) with
  | some k =>
    obtain rfl : k = i := by simpa [hfalse] using hi
    have hclass : h.isMain k = false := Htc.isMain_of_closedOf ((leastBy_spec _ _).2 k hfalse).1
    exact ⟨hclass ▸ hfalse, fun hmain => Bool.noConfusion (hclass.symm.trans hmain)⟩
  | none =>
    have htrue : leastBy (h.grantAge now) (h.closedOf true) = some i := by simpa [hfalse] using hi
    have hclass : h.isMain i = true := Htc.isMain_of_closedOf ((leastBy_spec _ _).2 i htrue).1
    exact ⟨hclass ▸ htrue, fun _ => (leastBy_spec _ _).1.mp hfalse⟩

/-- R134: of its class the zone to shed was granted last, the lower index on a tie. -/
theorem Htc.victim_spec {h : Htc} {now : Word} {i : Nat} (hi : h.victim now = some i) :
    i ∈ h.closedOf (h.isMain i) ∧ (h.isMain i = true → h.closedOf false = []) ∧
      ∀ k ∈ h.closedOf (h.isMain i), h.grantAge now i ≤ h.grantAge now k ∧
        (h.grantAge now i = h.grantAge now k → i ≤ k) := by
  obtain ⟨hleast, hmain⟩ := Htc.victim_leastBy hi
  obtain ⟨hmem, hle, htie⟩ := (leastBy_spec _ _).2 i hleast
  exact ⟨hmem, hmain, fun k hk => ⟨hle k hk, htie (h.closedOf_rising _) k hk⟩⟩

theorem State.shed_of_powered {s : State} (fuel : Nat) (h : s.htc.draw ≤ s.htc.available) : State.shed fuel s = s := by
  cases fuel with
  | zero => rfl
  | succ fuel => exact if_pos h

theorem State.shed_succ {s : State} (fuel : Nat) {i : Nat} (hover : s.htc.available < s.htc.draw)
    (hi : s.htc.victim s.now = some i) : State.shed (fuel + 1) s = State.shed fuel (s.shedZone i) := by
  rw [State.shed, if_neg (Nat.not_le.mpr hover), hi]

/-! ## BUDGET_LOW (R135) -/

/-- R135: the zones of the table that wait, in the order of their indices. -/
def Htc.waitingInOrder (h : Htc) : List Nat := (List.range h.zones.length).filter fun i => h.waiting.contains i

theorem Htc.mem_waitingInOrder (h : Htc) (i : Nat) : i ∈ h.waitingInOrder ↔ i < h.zones.length ∧ i ∈ h.waiting := by
  simp [Htc.waitingInOrder]

/-- R135: a zone's rating; 0 beyond the table. -/
def Htc.ratingOf (h : Htc) (i : Nat) : Nat := ((h.zones[i]?).map (·.rating)).getD 0

theorem Htc.smallestWaiting_eq (h : Htc) : h.smallestWaiting = leastBy h.ratingOf h.waitingInOrder := rfl

theorem Htc.smallestWaiting_eq_none_iff (h : Htc) :
    h.smallestWaiting = none ↔ ∀ i ∈ h.waiting, h.zones.length ≤ i := by
  rw [Htc.smallestWaiting_eq, (leastBy_spec _ _).1, List.eq_nil_iff_forall_not_mem]
  refine forall_congr' fun i => ?_
  rw [Htc.mem_waitingInOrder, and_comm, not_and, Nat.not_lt]

theorem Htc.smallestWaiting_spec {h : Htc} {i : Nat} (hi : h.smallestWaiting = some i) :
    i ∈ h.waiting ∧ i < h.zones.length ∧ ∀ k ∈ h.waiting, k < h.zones.length →
      h.ratingOf i ≤ h.ratingOf k ∧ (h.ratingOf i = h.ratingOf k → i ≤ k) := by
  obtain ⟨hmem, hle, htie⟩ := (leastBy_spec _ _).2 i hi
  have hrising : h.waitingInOrder.Pairwise (· < ·) := List.pairwise_lt_range.filter _
  obtain ⟨hlength, hwaits⟩ := (h.mem_waitingInOrder i).mp hmem
  refine ⟨hwaits, hlength, fun k hk hlt => ?_⟩
  have hk := (h.mem_waitingInOrder k).mpr ⟨hlt, hk⟩
  exact ⟨hle k hk, htie hrising k hk⟩

section Low
variable {s : State}

theorem State.reportLow_of_none (h : s.htc.smallestWaiting = none) : s.reportLow = s := by
  unfold State.reportLow
  rw [h]

variable {i : Nat} {z : Zone} (hi : s.htc.smallestWaiting = some i) (hz : s.htc.zones[i]? = some z)
include hi hz

theorem State.reportLow_of_some : s.reportLow =
    if s.htc.budgetLow = false ∧ s.htc.budget * 100 < z.rating then
      (s.postNote .budgetLow i (BitVec.ofNat 32 s.htc.budget)).modHtc fun h => { h with budgetLow := true }
    else s := by
  unfold State.reportLow
  rw [hi]
  simp only [hz, Option.any_some, Bool.and_eq_true, Bool.not_eq_true', decide_eq_true_eq]

theorem State.reportLow_of_told (h : s.htc.budgetLow = true ∨ z.rating ≤ s.htc.budget * 100) : s.reportLow = s := by
  rw [State.reportLow_of_some hi hz, if_neg]
  rintro ⟨hnew, hbelow⟩
  exact h.elim (fun htold => Bool.noConfusion (hnew.symm.trans htold)) (Nat.not_le.mpr hbelow)

end Low

/-- Settles O43. -/
theorem budgetAndShedding : Obligations.BudgetAndShedding := by
  refine ⟨fun s expiry => exec_reportAgeExpiry_of_some,
    fun s rest => ⟨fun r => exec_generatorReport_of_first, exec_generatorAbsence_of_first, exec_budgetSettingHandoff_of_first⟩,
    fun s => ⟨fun r => State.budgetNow_of_fresh, State.budgetNow_of_stale, State.recomputeBudget_of_same,
      State.recomputeBudget_of_rise, fun hfall => ⟨fun hfits => ?_, fun hover => ?_⟩⟩,
    fun h => ⟨h.available_eq, h.draw_eq⟩,
    fun s fuel => ⟨State.shed_of_powered fuel, fun i => State.shed_succ fuel, fun i => Htc.victim_spec⟩,
    fun s => ⟨rfl, s.shedAll_powered⟩,
    fun h => ⟨h.smallestWaiting_eq_none_iff, fun i => Htc.smallestWaiting_spec⟩,
    fun s => ⟨State.reportLow_of_none, fun i z hi hz => ⟨State.reportLow_of_told hi hz, fun hnew hbelow => ?_⟩⟩⟩
  · exact (State.recomputeBudget_of_fall hfall).trans (if_pos hfits)
  · exact (State.recomputeBudget_of_fall hfall).trans (if_neg (Nat.not_le.mpr hover))
  · exact (State.reportLow_of_some hi hz).trans (if_pos ⟨hnew, hbelow⟩)

end Sys2Proof.Machine

/-! PROOF. The heating level, the live zone set, the zone map and the run status at the Heating Controller (R124, R127, R128,
R136, R139). -/
namespace Sys2Proof.Machine

/-! ## Zones -/

theorem mapIdx_of_map {α β : Type} (f : α → β) (l : List α) : (l.mapIdx fun _ x => f x) = l.map f := by
  ext1 k
  simp

theorem Zone.off_eq (now : Word) : (fun z : Zone => z.off now) = fun z =>
    if z.state = .fault ∧ z.faultKind = some .welded then z
    else { z with
      openSince := if z.state = .closing ∨ z.state = .on then now else z.openSince
      confirmTimer := none, maxOnTimer := none, state := .disabled, faultKind := none } := by
  funext z
  simp only [Zone.off, Zone.welded_iff, Zone.release, Zone.closed_iff]

/-- R139: a zone that leaves the live zone set is LOCKED with its contactor open, one that entered it IDLE. -/
theorem Zone.relive_eq (live : LiveSet) (now : Word) : (fun z : Zone => z.relive live now) = fun z =>
    if (z.state = .idle ∨ z.state = .waiting ∨ z.state = .closing ∨ z.state = .on) ∧ live.has z.sect = false then
      { z with
        openSince := if z.state = .closing ∨ z.state = .on then now else z.openSince
        confirmTimer := none, maxOnTimer := none, state := .locked }
    else if z.state = .locked ∧ live.has z.sect = true then { z with state := .idle } else z := by
  funext z
  unfold Zone.relive
  cases hlive : live.has z.sect <;> cases hstate : z.state <;> simp [Zone.release, Zone.closed, hstate]

theorem Htc.settled_eq (h : Htc) (i : Nat) (sect : Section) : h.settled i sect =
    if h.enabled i = false ∨ h.levelSeen = .off then .disabled
    else if h.liveSeen.has sect then .idle else .locked := by
  simp [Htc.settled]

/-! ## What the controller takes -/

section Take
variable {s : State}

theorem State.takeLevel_off : s.takeLevel .off = { s with
    htc := { s.htc with
      levelSeen := .off, waiting := [], arbiter := none, zones := s.htc.zones.map fun z => z.off s.rif.runTime } } := by
  rw [← mapIdx_of_map]
  rfl

theorem State.takeLevel_of_on {level : HeatLevel} (hlevel : level ≠ .off) (hseen : s.htc.levelSeen ≠ .off) :
    s.takeLevel level = { s with htc := { s.htc with levelSeen := level } } :=
  (if_neg hlevel).trans (if_neg hseen)

/-- R128: a level from OFF settles the DISABLED zones. -/
theorem State.takeLevel_from_off {level : HeatLevel} (hlevel : level ≠ .off) (hseen : s.htc.levelSeen = .off) :
    s.takeLevel level = { s with
      htc := { s.htc with
        levelSeen := level
        zones := s.htc.zones.mapIdx fun i z => if z.state = .disabled then
          { z with state := Htc.settled { s.htc with levelSeen := level } i z.sect } else z } } :=
  (if_neg hlevel).trans (if_pos hseen)

theorem Htc.settled_of_level (h : Htc) {level : HeatLevel} (hlevel : level ≠ .off) (i : Nat) (sect : Section) :
    Htc.settled { h with levelSeen := level } i sect =
      if h.enabled i = false then .disabled else if h.liveSeen.has sect then .idle else .locked := by
  rw [Htc.settled_eq]
  simp only [hlevel, or_false]
  rfl

/-- R139: one attempt follows the zones' change; zones that no longer wait leave the list. -/
theorem State.takeLive_eq (live : LiveSet) : s.takeLive live = State.attempt { s with
    htc := { s.htc with
      liveSeen := live, zones := s.htc.zones.map fun z => z.relive live s.rif.runTime
      waiting := s.htc.waiting.filter fun i =>
        ((s.htc.zones.map fun z => z.relive live s.rif.runTime)[i]?).any fun z => z.state == .waiting } } := by
  rw [← mapIdx_of_map]
  rfl

theorem Htc.runStart_eq (h : Htc) : h.runStart = { h with
    budgetLow := false
    zones := h.zones.map fun z => { z with onCount := 0, temperature := none, current := none, openSince := 0 } } := by
  rw [← mapIdx_of_map]
  rfl

end Take

/-! ## The commands -/

theorem Handoff.zonePage_iff (h : Handoff) :
    h.zonePage = true ↔ (∃ x, h = .zoneMapInForce x) ∨ h = .zoneMapWithdrawn := by
  cases h <;> simp [Handoff.zonePage]

section Handed
variable {s : State} {rest : List Waiting}

theorem exec_heatingLevelHandoff_of_first {level : HeatLevel}
    (h : s.FirstWaiting (fun h => ∃ x, h = .heatingLevel x) (.heatingLevel level) rest) :
    exec .heatingLevelHandoff s = .next (State.takeLevel { s with inbox := rest } level) := by
  change execHeatingLevelHandoff s = _
  rw [execHeatingLevelHandoff, h.take]
  intro h
  cases h <;> simp

theorem exec_geometryAtHtc_of_first {g : GeometryRecord}
    (h : s.FirstWaiting (fun h => ∃ x, h = .geometryToHtc x) (.geometryToHtc g) rest) :
    exec .geometryAtHtc s = .next (State.takeLive { s with inbox := rest } g.live) := by
  change execGeometryAtHtc s = _
  rw [execGeometryAtHtc, h.take]
  intro h
  cases h <;> simp

theorem exec_zoneMapNewlyInForce_of_first {items : List ZoneItem}
    (h : s.FirstWaiting (fun h => (∃ x, h = .zoneMapInForce x) ∨ h = .zoneMapWithdrawn) (.zoneMapInForce items) rest) :
    exec .zoneMapNewlyInForce s = .next (State.rebuildZones { s with inbox := rest } items) := by
  change execZoneMapNewlyInForce s = _
  rw [execZoneMapNewlyInForce, h.take _ Handoff.zonePage_iff]

theorem exec_zoneMapWithdrawn_of_first
    (h : s.FirstWaiting (fun h => (∃ x, h = .zoneMapInForce x) ∨ h = .zoneMapWithdrawn) .zoneMapWithdrawn rest) :
    exec .zoneMapWithdrawn s = .next { s with inbox := rest, htc := { s.htc with zones := [], waiting := [] } } := by
  change execZoneMapWithdrawn s = _
  rw [execZoneMapWithdrawn, h.take _ Handoff.zonePage_iff]
  rfl

theorem exec_runStatusAtHtc_of_first {status : RunStatus}
    (h : s.FirstWaiting (fun h => ∃ x, h = .runStatus .htc x) (.runStatus .htc status) rest) :
    exec .runStatusAtHtc s = .next (if status = .running then
      { s with inbox := rest, htc := Htc.runStart { s.htc with runSeen := status } }
      else { s with inbox := rest, htc := { s.htc with runSeen := status } }) := by
  change execRunStatusAtHtc s = _
  rw [execRunStatusAtHtc, h.take]
  · rfl
  · intro h
    cases h with
    | runStatus f x => cases f <;> simp
    | _ => simp

end Handed

theorem State.waitZone_eq (s : State) (i : Nat) : s.waitZone i =
    let t := s.leaveZone i .waiting
    let joined := if t.htc.isMain i then
        t.htc.waiting.filter t.htc.isMain ++ i :: t.htc.waiting.filter (fun k => !t.htc.isMain k)
      else t.htc.waiting ++ [i]
    { t with htc := { t.htc with waiting := joined } } := rfl

/-- Settles O44. -/
theorem heatingLevelGeometryAndMap : Obligations.HeatingLevelGeometryAndMap := by
  refine ⟨fun s rest => ?_, Htc.settled_eq, State.waitZone_eq⟩
  intro u opened
  refine ⟨fun level hfirst => ⟨?_, fun hlevel hseen => ?_, fun hlevel hseen => ?_⟩, fun g hfirst => ?_,
    fun items hfirst => exec_zoneMapNewlyInForce_of_first hfirst, exec_zoneMapWithdrawn_of_first,
    fun status hfirst => ⟨fun hstatus => ?_, ?_⟩⟩
  · rintro rfl
    rw [exec_heatingLevelHandoff_of_first hfirst, State.takeLevel_off, Zone.off_eq]
  · exact (exec_heatingLevelHandoff_of_first hfirst).trans (congrArg _ (State.takeLevel_of_on hlevel hseen))
  · have hsettled : Htc.settled { s.htc with levelSeen := level } = fun i sect =>
        if s.htc.enabled i = false then .disabled else if s.htc.liveSeen.has sect then .idle else .locked := by
      funext i sect
      exact s.htc.settled_of_level hlevel i sect
    have htake := State.takeLevel_from_off (s := u) hlevel hseen
    change u.takeLevel level = { u with htc := { s.htc with levelSeen := level, zones := s.htc.zones.mapIdx fun i z =>
      if z.state = .disabled then { z with state := Htc.settled { s.htc with levelSeen := level } i z.sect } else z } }
      at htake
    rw [hsettled] at htake
    exact (exec_heatingLevelHandoff_of_first hfirst).trans (congrArg _ htake)
  · intro zones
    rw [exec_geometryAtHtc_of_first hfirst, State.takeLive_eq, Zone.relive_eq]
  · exact (exec_runStatusAtHtc_of_first hfirst).trans (congrArg _ (if_neg hstatus))
  · rintro rfl
    refine (exec_runStatusAtHtc_of_first hfirst).trans (congrArg _ ((if_pos rfl).trans ?_))
    rw [Htc.runStart_eq]

end Sys2Proof.Machine

/-! PROOF. The orders on zones: SET_ZONE and CLEAR_FAULT_ZONE (R140, R141). -/
namespace Sys2Proof.Machine

theorem cannotHeat_eq (state : ZoneState) :
    cannotHeat state = decide (state = .disabled ∨ state = .locked ∨ state = .fault) := by
  cases state <;> rfl

/-! ## The enable (R140) -/

/-- R137: an attempt changes no zone that does not wait. -/
theorem State.attempt_zone {s : State} {i : Nat} (hi : i ∉ s.htc.waiting) :
    s.attempt.htc.zones[i]? = s.htc.zones[i]? := by
  unfold State.attempt
  split
  next k hk =>
    have hne : ¬ k = i := fun h => hi (h ▸ List.mem_of_find?_eq_some hk)
    change (s.grant k).htc.zones[i]? = _
    rw [State.grant_zones, List.getElem?_mapIdx]
    simp [hne]
  next => rfl

theorem State.leaveZone_zone (s : State) {i : Nat} {z : Zone} (hz : s.htc.zones[i]? = some z) (state : ZoneState) :
    (s.leaveZone i state).htc.zones[i]? = some (z.release s.now state) := by
  rw [State.leaveZone_zones, List.getElem?_mapIdx, hz]
  simp

theorem modify_congr {l : List Zone} {i : Nat} {z : Zone} (hz : l[i]? = some z) {f g : Zone → Zone} (h : f z = g z) :
    l.modify i f = l.modify i g := by
  ext1 k
  rw [List.getElem?_modify, List.getElem?_modify]
  by_cases hk : i = k
  · subst hk
    rw [hz]
    exact congrArg some (by simpa using h)
  · simp [hk]

theorem State.modZone_congr {s : State} {i : Nat} {z : Zone} (hz : s.htc.zones[i]? = some z) {f g : Zone → Zone}
    (h : f z = g z) : s.modZone i f = s.modZone i g :=
  congrArg (fun zones : List Zone => ({ s with htc := { s.htc with zones := zones } } : State)) (modify_congr hz h)

/-- R140: a zone that may heat, as an enable or disable finds it. -/
def ZoneState.mayHeat (state : ZoneState) : Prop :=
  state = .locked ∨ state = .idle ∨ state = .waiting ∨ state = .closing ∨ state = .on

section Enable
variable {s : State} {i : Nat} {z : Zone}

theorem State.applyEnable_of_none (on : Bool) (hz : s.htc.zones[i]? = none) : s.applyEnable i on = s := by
  unfold State.applyEnable
  rw [hz]

theorem Htc.shownState_of_none {h : Htc} (hz : h.zones[i]? = none) : h.shownState i = .disabled := by
  unfold Htc.shownState
  rw [hz]
  rfl

theorem Htc.shownState_of_some {h : Htc} (hz : h.zones[i]? = some z) : h.shownState i = z.state := by
  unfold Htc.shownState
  rw [hz]
  rfl

variable (hz : s.htc.zones[i]? = some z)
include hz

theorem State.applyEnable_of_disabled (hstate : z.state = .disabled) :
    s.applyEnable i true = s.modZone i fun x => { x with state := s.htc.settled i z.sect } := by
  have happly : s.applyEnable i true = s.modZone i fun x => { x with state := s.htc.settled i x.sect } := by
    unfold State.applyEnable
    rw [hz]
    dsimp only
    rw [hstate]
  exact happly.trans (State.modZone_congr hz rfl)

theorem State.applyEnable_of_leaves (hstate : z.state.mayHeat) :
    s.applyEnable i false = (s.leaveZone i .disabled).attempt := by
  unfold State.applyEnable
  rw [hz]
  dsimp only
  rcases hstate with hstate | hstate | hstate | hstate | hstate <;> rw [hstate]

theorem State.applyEnable_of_stays {on : Bool}
    (hstate : z.state = .fault ∨ z.state = .disabled ∧ on = false ∨ z.state.mayHeat ∧ on = true) :
    s.applyEnable i on = s := by
  unfold State.applyEnable
  rw [hz]
  dsimp only
  rcases hstate with hstate | ⟨hstate, rfl⟩ | ⟨hstate | hstate | hstate | hstate | hstate, rfl⟩ <;> rw [hstate]

/-- R140: a zone that left its state for DISABLED is shown so: the attempt grants others alone. -/
theorem State.shownState_left : ((s.leaveZone i .disabled).attempt).htc.shownState i = .disabled := by
  have hout : i ∉ (s.leaveZone i .disabled).htc.waiting := by simp [State.leaveZone_waiting]
  exact Htc.shownState_of_some ((State.attempt_zone hout).trans (s.leaveZone_zone hz .disabled))

theorem State.shownState_modZone (f : Zone → Zone) : (s.modZone i f).htc.shownState i = (f z).state := by
  refine Htc.shownState_of_some ?_
  rw [State.modZone_zones, List.getElem?_mapIdx, hz]
  simp

end Enable

/-! ## SET_ZONE (R140) -/

section SetZone
variable {s : State} {o : Order} (ho : s.orderOf .setZone = some o)
include ho

theorem exec_setZone_of_range (hzero : o.a ≠ 0) (hone : o.a ≠ 1) : exec .setZone s = .next (s.finishRefused .range) := by
  change execSetZone s = _
  rw [execSetZone, ho]
  exact congrArg Host.Outcome.next (if_pos ⟨hzero, hone⟩)

/-- R140: a stored enable is applied and the zone's state shown. -/
theorem exec_setZone_of_flag {on : Bool} (ha : o.a = if on then 1 else 0) {t : State} {shown : ZoneState}
    (happly : (s.modHtc fun h => { h with enables := h.enables.set o.zone on }).applyEnable o.zone on = t)
    (hshown : t.htc.shownState o.zone = shown) :
    exec .setZone s = .next (t.finishDone (BitVec.ofNat 32 shown.code) false
      (on && decide (shown = .disabled ∨ shown = .locked ∨ shown = .fault)) false) := by
  have hon : decide (o.a = 1) = on := by rw [ha]; cases on <;> rfl
  have hflag : ¬ (o.a ≠ 0 ∧ o.a ≠ 1) := by rw [ha]; cases on <;> decide
  change execSetZone s = _
  rw [execSetZone, ho, ← happly, ← cannotHeat_eq, ← hshown, ← happly]
  refine congrArg Host.Outcome.next ((if_neg hflag).trans ?_)
  simp only [hon]

end SetZone

/-! ## CLEAR_FAULT_ZONE (R141) -/

theorem Zone.stillWelded_iff {z : Zone} (hstate : z.state = .fault) :
    z.stillWelded = true ↔ z.faultKind = some .welded ∧ ∀ c, z.current = some c → 100 ≤ c := by
  unfold Zone.stillWelded
  rw [Bool.and_eq_true, Zone.welded_iff]
  cases z.current <;> simp [hstate]

section ClearFault
variable {s : State} {o : Order} (ho : s.clearFaultOf 0 = some o)
include ho

theorem exec_clearFaultZone_of_none (hz : s.htc.zones[o.subject.toNat]? = none) :
    exec .clearFaultZone s = .next (s.finishRefused .notFaulted) := by
  change execClearFaultZone s = _
  simp only [execClearFaultZone, ho, hz]

theorem exec_clearFaultZone_of_some {z : Zone} (hz : s.htc.zones[o.subject.toNat]? = some z) :
    exec .clearFaultZone s = .next (
      if z.state ≠ .fault then s.finishRefused .notFaulted
      else if z.stillWelded then s.finishRefused .wrongState
      else (s.clearZone o.subject.toNat).finishDone (BitVec.ofNat 32 z.onCount) false false false) := by
  change execClearFaultZone s = _
  simp only [execClearFaultZone, ho, hz]

end ClearFault

/-- Settles O45. -/
theorem zoneOrders : Obligations.ZoneOrders := by
  refine ⟨fun s o ho => ?_, fun s o ho => ?_⟩
  · intro i
    refine ⟨fun hzero hone => exec_setZone_of_range ho hzero hone, fun on ha => ?_⟩
    intro stored done
    refine ⟨fun hz => ?_, fun z hz => ⟨fun hstate hon => ?_, fun hleaves hon => ⟨_, rfl, ?_⟩, fun hstays => ?_⟩⟩
    · exact exec_setZone_of_flag ho ha (State.applyEnable_of_none on hz) (Htc.shownState_of_none hz)
    · subst hon
      exact exec_setZone_of_flag ho ha (State.applyEnable_of_disabled (s := stored) hz hstate)
        (State.shownState_modZone (s := stored) hz _)
    · subst hon
      exact exec_setZone_of_flag ho ha (State.applyEnable_of_leaves (s := stored) hz hleaves)
        (State.shownState_left (s := stored) hz)
    · exact exec_setZone_of_flag ho ha (State.applyEnable_of_stays (s := stored) hz hstays) (Htc.shownState_of_some hz)
  · intro i
    refine ⟨exec_clearFaultZone_of_none ho, fun z hz => ?_⟩
    intro held
    have hexec := exec_clearFaultZone_of_some ho hz
    refine ⟨fun hstate => ?_, fun hstate hheld => ?_, fun hstate hheld => ?_⟩
    · exact hexec.trans (congrArg _ (if_pos hstate))
    · exact hexec.trans (congrArg _ ((if_neg (not_not_intro hstate)).trans (if_pos ((z.stillWelded_iff hstate).mpr hheld))))
    · refine hexec.trans (congrArg _ ((if_neg (not_not_intro hstate)).trans (if_neg fun h => hheld ?_)))
      exact (z.stillWelded_iff hstate).mp h

end Sys2Proof.Machine

/-! PROOF. The modes, the sensing and the grace of the feed channels (R143 to R146). -/
namespace Sys2Proof.Machine

/-! ## A channel's record -/

/-- The state with a channel's record in place of the one it held. -/
def State.putChannel (s : State) (c : Fin 4) (r : Channel) : State := s.modChannel c fun _ => r

theorem State.modChannel_eq (s : State) (c : Fin 4) (f : Channel → Channel) :
    s.modChannel c f = s.putChannel c (f (s.channel c)) := rfl

@[simp] theorem State.putChannel_channel (s : State) (c : Fin 4) (r : Channel) : (s.putChannel c r).channel c = r := by
  simp [State.putChannel, State.modChannel, State.channel]

theorem State.putChannel_mod (s : State) (c : Fin 4) (r : Channel) (f : Channel → Channel) :
    (s.putChannel c r).modChannel c f = s.putChannel c (f r) := by
  simp [State.putChannel, State.modChannel, State.modFdc]

/-! ## Run states and modes (R143) -/

theorem Channel.setRun_of_ne {r : Channel} {run : FeedState} (h : r.run ≠ run) :
    r.setRun run = { r with run := run, speedCount := 0 } := if_neg h

/-- R143: the run state moved, a JAMMED one apart. -/
def Channel.moved (r : Channel) (run : FeedState) : Channel :=
  if r.run = .jammed ∨ r.run = run then r else { r with run := run, speedCount := 0 }

theorem Channel.stopSensing_moveRun (r : Channel) (run : FeedState) :
    r.stopSensing.moveRun run = (r.moved run).stopSensing := by
  by_cases hjammed : r.run = .jammed
  · exact (if_pos hjammed).trans (congrArg Channel.stopSensing (if_pos (.inl hjammed)).symm)
  · refine (if_neg hjammed).trans ?_
    by_cases hsame : r.run = run
    · exact (if_pos hsame).trans (congrArg Channel.stopSensing (if_pos (.inr hsame)).symm)
    · have hmoved : r.moved run = { r with run := run, speedCount := 0 } := if_neg (not_or_intro hjammed hsame)
      rw [hmoved]
      exact if_neg hsame

section TakeMode
variable (r : Channel) (start : Word)

theorem Channel.takeMode_off : r.takeMode .off start =
    { (r.moved .idle).stopSensing with modeSeen := .off, graceTimer := none } := by
  rw [← Channel.stopSensing_moveRun]
  rfl

theorem Channel.takeMode_manual : r.takeMode .manual start =
    { (r.moved .running).stopSensing with modeSeen := .manual, graceTimer := none } := by
  rw [← Channel.stopSensing_moveRun]
  rfl

variable {r} {mode : FeedMode} (hmode : mode = .autoLevel ∨ mode = .autoFlow)
include hmode

theorem FeedMode.automatic_of : mode.automatic = true := by
  rcases hmode with rfl | rfl <;> rfl

theorem Channel.takeMode_automatic_of_automatic (hseen : r.modeSeen = .autoLevel ∨ r.modeSeen = .autoFlow) :
    r.takeMode mode start = { r with modeSeen := mode } := by
  have hauto := FeedMode.automatic_of hseen
  rcases hmode with rfl | rfl <;> exact if_pos hauto

theorem Channel.takeMode_automatic_of_other (hseen : ¬ (r.modeSeen = .autoLevel ∨ r.modeSeen = .autoFlow)) :
    r.takeMode mode start = { (r.moved .running).stopSensing with modeSeen := mode, senseTimer := .period start } := by
  have hauto : ¬ r.modeSeen.automatic = true := by
    revert hseen
    cases r.modeSeen <;> simp [FeedMode.automatic]
  rw [← Channel.stopSensing_moveRun]
  rcases hmode with rfl | rfl <;> exact if_neg hauto

end TakeMode

theorem exec_machineStateAtFdc_of_first {s : State} {state : MachineState} {rest : List Waiting}
    (h : s.FirstWaiting (fun h => ∃ x, h = .machineToFdc x) (.machineToFdc state) rest) :
    exec .machineStateAtFdc s = .next { s with inbox := rest, fdc := { s.fdc with machineSeen := state } } := by
  change execMachineStateAtFdc s = _
  rw [execMachineStateAtFdc, h.take]
  · rfl
  · intro h
    cases h <;> simp

/-- R143, R144: a mode is taken with the end of a first sensing period at hand. -/
theorem exec_feedModeHandoff_eq {s : State} {c : Fin 4} {mode : FeedMode} {rest : List Waiting}
    (h : s.FirstWaiting (fun h => ∃ x, h = .feedMode c x) (.feedMode c mode) rest) {r : Channel}
    (hr : (s.channel c).takeMode mode (s.rif.runTime + BitVec.ofNat 32 (if s.fdc.machineSeen = .pave then 50 else 200)) =
      r) :
    exec (.feedModeHandoff c) s = .next ((State.putChannel { s with inbox := rest } c r).recomputeDemand c) := by
  rw [exec_feedModeHandoff_of_first h, ← hr]
  rfl

/-! ## Sensing (R144, R145) -/

theorem exec_sensePeriodExpiry_of_period {s : State} {c : Fin 4} {expiry : Word}
    (h : (s.channel c).senseTimer = .period expiry) :
    exec (.sensePeriodExpiry c) s = .next ((s.runTo expiry).putChannel c { s.channel c with
      supplyClosed := true
      senseTimer := .onTime ((s.runTo expiry).now + BitVec.ofNat 32 (s.settingNat Setting.senseOn))
        (s.settingNat Setting.senseOn) }) := by
  change execSensePeriodExpiry c s = _
  rw [execSensePeriodExpiry, h]
  rfl

theorem exec_onTimeEnd_of_onTime {s : State} {c : Fin 4} {expiry : Word} {on : Nat} (sample : Nat)
    (h : (s.channel c).senseTimer = .onTime expiry on) :
    exec (.onTimeEnd c sample) s = .next ((s.runTo expiry).endOnTime c on sample) := by
  change execOnTimeEnd c sample s = _
  rw [execOnTimeEnd, h]

theorem sampleValid_iff (sample : Nat) : sampleValid sample = true ↔ 50 ≤ sample ∧ sample ≤ 950 := by
  simp [sampleValid]

/-- R145: what the judgement of a sample changes. -/
theorem Channel.judged_eq (r : Channel) (sample : Nat) : r.judged sample = { r with
    level := if 50 ≤ sample ∧ sample ≤ 950 then some ((sample - 50) * 1000 / 900) else r.level
    invalidCount := if 50 ≤ sample ∧ sample ≤ 950 then 0 else min 3 (r.invalidCount + 1)
    validCount := if 50 ≤ sample ∧ sample ≤ 950 then min 3 (r.validCount + 1) else 0 } := by
  unfold Channel.judged
  by_cases hvalid : 50 ≤ sample ∧ sample ≤ 950
  · rw [if_pos ((sampleValid_iff sample).mpr hvalid), if_pos hvalid, if_pos hvalid, if_pos hvalid]
    rfl
  · rw [if_neg ((sampleValid_iff sample).not.mpr hvalid), if_neg hvalid, if_neg hvalid, if_neg hvalid]

/-! ## What follows a sample (R145, R146) -/

section Follow
variable (t : State) (c : Fin 4) {r : Channel} {sample : Nat}

theorem State.followSample_of_running (hrun : r.run = .running) (hvalid : 50 ≤ sample ∧ sample ≤ 950) :
    (t.putChannel c r).followSample c sample = (t.putChannel c r).recomputeDemand c := by
  simp only [State.followSample, State.putChannel_channel, hrun, if_pos ((sampleValid_iff sample).mpr hvalid)]

theorem State.followSample_of_few (hrun : r.run = .running) (hvalid : ¬ (50 ≤ sample ∧ sample ≤ 950))
    (hfew : r.invalidCount ≠ 3) : (t.putChannel c r).followSample c sample = t.putChannel c r := by
  simp only [State.followSample, State.putChannel_channel, hrun, if_neg ((sampleValid_iff sample).not.mpr hvalid),
    if_neg hfew]

/-- R146: the third invalid sample has the channel hold its demand for the grace. -/
theorem State.followSample_of_third (hrun : r.run = .running) (hvalid : ¬ (50 ≤ sample ∧ sample ≤ 950))
    (hthird : r.invalidCount = 3) : (t.putChannel c r).followSample c sample = (t.putChannel c { r with
      run := .holding, speedCount := 0
      graceTimer := t.startTimer (t.settingNat Setting.sensorGrace) }).settleStall c := by
  simp only [State.followSample, State.putChannel_channel, hrun, if_neg ((sampleValid_iff sample).not.mpr hvalid),
    if_pos hthird, State.putChannel_mod]
  rw [Channel.setRun_of_ne (by simp [hrun])]
  rfl

/-- R146: a channel out of RUNNING returns to it. -/
theorem State.resumeRunning_eq (hrun : r.run ≠ .running) : (t.putChannel c r).resumeRunning c =
    (t.putChannel c { r with run := .running, speedCount := 0, graceTimer := none }).recomputeDemand c := by
  rw [State.resumeRunning, State.putChannel_mod, Channel.setRun_of_ne hrun]

theorem State.followSample_of_holding (hrun : r.run = .holding) (hvalid : 50 ≤ sample ∧ sample ≤ 950)
    (hthird : r.validCount = 3) : (t.putChannel c r).followSample c sample =
      (t.putChannel c { r with run := .running, speedCount := 0, graceTimer := none }).recomputeDemand c := by
  rw [← State.resumeRunning_eq t c (by simp [hrun])]
  simp only [State.followSample, State.putChannel_channel, hrun]
  exact if_pos ⟨(sampleValid_iff sample).mpr hvalid, hthird⟩

theorem State.followSample_of_sensorLost (hrun : r.run = .sensorLost) (hvalid : 50 ≤ sample ∧ sample ≤ 950)
    (hthird : r.validCount = 3) : (t.putChannel c r).followSample c sample =
      ((t.putChannel c { r with run := .running, speedCount := 0, graceTimer := none }).recomputeDemand c).postNote
        .sensorRestored c.val (BitVec.ofNat 32 ((sample - 50) * 1000 / 900)) := by
  rw [← State.resumeRunning_eq t c (by simp [hrun])]
  simp only [State.followSample, State.putChannel_channel, hrun]
  exact if_pos ⟨(sampleValid_iff sample).mpr hvalid, hthird⟩

theorem State.followSample_of_stays (h : r.run = .idle ∨ r.run = .jammed ∨ (r.run = .holding ∨ r.run = .sensorLost) ∧
      (¬ (50 ≤ sample ∧ sample ≤ 950) ∨ r.validCount < 3)) :
    (t.putChannel c r).followSample c sample = t.putChannel c r := by
  rcases h with hrun | hrun | ⟨hrun, hfew⟩
  · simp only [State.followSample, State.putChannel_channel, hrun]
  · simp only [State.followSample, State.putChannel_channel, hrun]
  · have hnot : ¬ (sampleValid sample = true ∧ r.validCount = 3) := by
      rw [sampleValid_iff]
      omega
    rcases hrun with hrun | hrun <;> simp only [State.followSample, State.putChannel_channel, hrun, if_neg hnot]

end Follow

/-! ## The grace (R146) -/

section Grace
variable {s : State} {c : Fin 4} {expiry : Word} (h : (s.channel c).graceTimer = some expiry)
include h

theorem exec_graceExpiry_of_some : exec (.graceExpiry c) s = .next (
    let t := (s.runTo expiry).putChannel c { s.channel c with graceTimer := none }
    if (t.channel c).run = .holding then t.loseSensor c else t) := by
  change execGraceExpiry c s = _
  rw [execGraceExpiry, h]
  rfl

theorem exec_graceExpiry_of_other (hrun : (s.channel c).run ≠ .holding) :
    exec (.graceExpiry c) s = .next ((s.runTo expiry).putChannel c { s.channel c with graceTimer := none }) := by
  refine (exec_graceExpiry_of_some h).trans (congrArg Host.Outcome.next (if_neg ?_))
  rwa [State.putChannel_channel]

theorem exec_graceExpiry_of_holding (hrun : (s.channel c).run = .holding) :
    exec (.graceExpiry c) s = .next (((s.runTo expiry).putChannel c { s.channel c with
      run := .sensorLost, speedCount := 0, graceTimer := none, demand := 0, stallTimer := none }).postNote .sensorLost c.val
        (BitVec.ofNat 32 ((s.channel c).lastSample.getD 0))) := by
  refine (exec_graceExpiry_of_some h).trans (congrArg Host.Outcome.next ((if_pos ?_).trans ?_))
  · rwa [State.putChannel_channel]
  · rw [State.loseSensor, State.putChannel_channel, State.putChannel_mod, Channel.setRun_of_ne (by simp [hrun])]

end Grace

/-- Settles O46. -/
theorem feedModesAndSensing : Obligations.FeedModesAndSensing := by
  refine ⟨fun s rest => ⟨fun state => exec_machineStateAtFdc_of_first, fun c mode hfirst => ?_⟩, fun s c expiry => ?_⟩
  · intro r put moved quiet automatic
    refine ⟨?_, ?_, fun hmode hseen => ?_, fun hmode hseen => ?_⟩
    · rintro rfl
      exact exec_feedModeHandoff_eq hfirst (Channel.takeMode_off ..)
    · rintro rfl
      exact exec_feedModeHandoff_eq hfirst (Channel.takeMode_manual ..)
    · exact exec_feedModeHandoff_eq hfirst (Channel.takeMode_automatic_of_other _ hmode hseen)
    · exact exec_feedModeHandoff_eq hfirst (Channel.takeMode_automatic_of_automatic _ hmode hseen)
  · intro t r put moved grace length
    refine ⟨exec_sensePeriodExpiry_of_period, fun on sample htimer => ?_,
      fun htimer => ⟨exec_graceExpiry_of_holding htimer, exec_graceExpiry_of_other htimer⟩⟩
    intro valid read
    have hexec : exec (.onTimeEnd c sample) s = .next ((put read).followSample c sample) := by
      rw [exec_onTimeEnd_of_onTime sample htimer, State.endOnTime, State.modChannel_eq, Channel.judged_eq]
      rfl
    refine ⟨fun hrun hvalid => hexec.trans (congrArg _ (State.followSample_of_running t c hrun hvalid)),
      fun hrun hvalid hfew => hexec.trans (congrArg _ (State.followSample_of_few t c hrun hvalid (Nat.ne_of_lt hfew))),
      fun hrun hvalid hthird => hexec.trans (congrArg _ (State.followSample_of_third t c hrun hvalid hthird)),
      fun hrun hvalid hthird => hexec.trans (congrArg _ (State.followSample_of_holding t c hrun hvalid hthird)),
      fun hrun hvalid hthird => hexec.trans (congrArg _ (State.followSample_of_sensorLost t c hrun hvalid hthird)),
      fun hstays => hexec.trans (congrArg _ (State.followSample_of_stays t c hstays))⟩

end Sys2Proof.Machine

/-! PROOF. The demand of the feed channels, their jams and coupling, and the clearing of a jam (R147 to R151, R153). -/
namespace Sys2Proof.Machine

/-! ## The demand (R147, R148) -/

theorem levelSetting_eq (c : Fin 4) : levelSetting c = Fin.ofNat 47 (21 + c.val) := by
  fin_cases c <;> rfl

theorem State.flowTerm_eq (s : State) (c : Fin 4) : s.flowTerm c =
    if c = 2 then s.fdc.speedSeen * s.settingNat Setting.flowFactor * s.fdc.halfLeft / 150000
    else if c = 3 then s.fdc.speedSeen * s.settingNat Setting.flowFactor * s.fdc.halfRight / 150000
    else s.fdc.speedSeen * s.settingNat Setting.flowFactor * (s.fdc.halfLeft + s.fdc.halfRight) / 300000 := by
  fin_cases c <;> rfl

theorem clamp_toNat (x : Int) : ((clamp 0 1000 x).toNat : Int) = max 0 (min 1000 x) := by
  rw [clamp_eq_max_min (by decide)]
  omega

section Demand
variable {s : State} {c : Fin 4}

theorem State.demandOf_of_still {r : Channel}
    (h : r.coupled = true ∨ r.run = .idle ∨ r.run = .sensorLost ∨ r.run = .jammed) : s.demandOf c r = 0 := by
  unfold State.demandOf
  rcases h with h | h | h | h
  · exact if_pos h
  all_goals
    rw [h]
    exact ite_self _

theorem State.demandOf_of_holding {r : Channel} (hfree : r.coupled = false) (hrun : r.run = .holding) :
    s.demandOf c r = r.demand := by
  unfold State.demandOf
  rw [hfree, hrun]
  rfl

theorem State.demandOf_of_running {r : Channel} (hfree : r.coupled = false) (hrun : r.run = .running) :
    s.demandOf c r = s.modeDemand c r := by
  unfold State.demandOf
  rw [hfree, hrun]
  rfl

variable {level : Nat}

theorem State.levelDemand_of_full (h : s.setting (levelSetting c) ≤ level) : s.levelDemand c level = 0 := if_pos h

theorem State.levelDemand_of_below (h : (level : Int) < s.setting (levelSetting c)) :
    (s.levelDemand c level : Int) = max 0 (min 1000 (s.setting Setting.feedBase + s.levelTerm c level)) := by
  rw [State.levelDemand, if_neg (Int.not_le.mpr h)]
  exact clamp_toNat _

/-- R147: without a sample an automatic mode demands nothing. -/
theorem State.modeDemand_of_none {r : Channel} (hmode : r.modeSeen = .autoLevel ∨ r.modeSeen = .autoFlow)
    (hlevel : r.level = none) : s.modeDemand c r = 0 := by
  unfold State.modeDemand
  rw [hlevel]
  rcases hmode with h | h <;> rw [h]

end Demand

theorem State.recomputeDemand_eq (s : State) (c : Fin 4) : s.recomputeDemand c =
    (s.putChannel c { s.channel c with demand := s.demandOf c (s.channel c) }).settleStall c := rfl

/-! ## The stall timer and the jams (R150, R151) -/

theorem State.settleStall_eq (s : State) (c : Fin 4) : s.settleStall c = s.putChannel c { s.channel c with
    stallTimer := if s.settingNat Setting.jamDemand ≤ (s.channel c).demand ∧ (s.channel c).run ≠ .jammed then
        some ((s.channel c).stallTimer.getD (s.rif.runTime + BitVec.ofNat 32 (s.settingNat Setting.stallTime)))
      else none } := by
  have hor : ((s.channel c).stallTimer <|> s.startTimer (s.settingNat Setting.stallTime)) =
      some ((s.channel c).stallTimer.getD (s.rif.runTime + BitVec.ofNat 32 (s.settingNat Setting.stallTime))) := by
    cases (s.channel c).stallTimer <;> rfl
  rw [← hor]
  rfl

theorem Channel.setRun_eq (r : Channel) (run : FeedState) :
    r.setRun run = { r with run := run, speedCount := if r.run = run then r.speedCount else 0 } := by
  by_cases h : r.run = run
  · subst h
    rw [if_pos rfl]
    exact if_pos rfl
  · rw [if_neg h]
    exact if_neg h

theorem conveyorOf_of_conveyor {c : Fin 4} (h : c = 0 ∨ c = 1) : conveyorOf c = none := by
  rcases h with rfl | rfl <;> rfl

theorem conveyorOf_of_auger {c k : Fin 4} (h : (c, k) ∈ ([(2, 0), (3, 1)] : List (Fin 4 × Fin 4))) :
    conveyorOf c = some k := by
  simp only [List.mem_cons, List.not_mem_nil, or_false, Prod.mk.injEq] at h
  rcases h with ⟨rfl, rfl⟩ | ⟨rfl, rfl⟩ <;> rfl

section Coupling
variable (s : State) {c : Fin 4}

theorem State.couple_of_none (h : conveyorOf c = none) : s.couple c = s := by
  unfold State.couple
  rw [h]

theorem State.couple_of_some {k : Fin 4} (h : conveyorOf c = some k) :
    s.couple c = (s.putChannel k { s.channel k with coupled := true, demand := 0 }).settleStall k := by
  unfold State.couple
  rw [h]
  rfl

theorem State.uncouple_of_none (h : conveyorOf c = none) : s.uncouple c = s := by
  unfold State.uncouple
  rw [h]

theorem State.uncouple_of_some {k : Fin 4} (h : conveyorOf c = some k) :
    s.uncouple c = (s.putChannel k { s.channel k with coupled := false }).recomputeDemand k := by
  unfold State.uncouple
  rw [h]
  rfl

theorem State.jam_eq (c : Fin 4) : s.jam c = ((s.putChannel c { s.channel c with
    run := .jammed, demand := 0, stallTimer := none, graceTimer := none
    speedCount := if (s.channel c).run = .jammed then (s.channel c).speedCount else 0 }).postNote .feedJam c.val
      (BitVec.ofNat 32 (s.channel c).demand)).couple c := by
  rw [State.jam, State.modChannel_eq, Channel.setRun_eq]

theorem Channel.clearedRun_ne_jammed (r : Channel) : r.clearedRun ≠ .jammed := by
  unfold Channel.clearedRun
  (repeat' split) <;> decide

theorem State.clearJam_eq (hjammed : (s.channel c).run = .jammed) : s.clearJam c =
    ((s.putChannel c { s.channel c with
      run := (s.channel c).clearedRun, speedCount := 0
      graceTimer := if (s.channel c).clearedRun = .holding then s.startTimer (s.settingNat Setting.sensorGrace) else none
      }).recomputeDemand c).uncouple c := by
  have hne : (s.channel c).run ≠ (s.channel c).clearedRun := fun h =>
    Channel.clearedRun_ne_jammed _ (h.symm.trans hjammed)
  rw [State.clearJam, State.modChannel_eq, Channel.setRun_of_ne hne]

end Coupling

/-! ## The commands -/

theorem exec_stallExpiry_of_some {s : State} {c : Fin 4} {expiry : Word} (h : (s.channel c).stallTimer = some expiry) :
    exec (.stallExpiry c) s = .next ((s.runTo expiry).jam c) := by
  change execStallExpiry c s = _
  rw [execStallExpiry, h]

theorem exec_speedPulse_eq (s : State) (c : Fin 4) :
    exec (.speedPulse c) s = .next (s.putChannel c { s.channel c with
      speedCount := (s.channel c).speedCount + 1
      stallTimer := if (s.channel c).stallTimer ≠ none ∧ s.settingNat Setting.jamDemand ≤ (s.channel c).demand ∧
          (s.channel c).run ≠ .jammed then s.startTimer (s.settingNat Setting.stallTime) else none }) := by
  change execSpeedPulse c s = _
  simp only [execSpeedPulse, State.modChannel_eq, Option.isSome_iff_ne_none]

section Handed
variable {s : State} {rest : List Waiting}

theorem exec_speedHandoff_of_first {speed : Nat}
    (h : s.FirstWaiting (fun h => ∃ x, h = .speedToFdc x) (.speedToFdc speed) rest) : exec .speedHandoff s =
      .next (State.recomputeFlow { s with inbox := rest, fdc := { s.fdc with speedSeen := speed } }) := by
  change execSpeedHandoff s = _
  rw [execSpeedHandoff, h.take]
  · rfl
  · intro h
    cases h <;> simp

theorem exec_geometryAtFdc_of_first {g : GeometryRecord}
    (h : s.FirstWaiting (fun h => ∃ x, h = .geometryToFdc x) (.geometryToFdc g) rest) :
    exec .geometryAtFdc s = .next (State.recomputeFlow { s with
      inbox := rest, fdc := { s.fdc with halfLeft := g.halfLeft, halfRight := g.halfRight } }) := by
  change execGeometryAtFdc s = _
  rw [execGeometryAtFdc, h.take]
  · rfl
  · intro h
    cases h <;> simp

end Handed

section ClearFault
variable {s : State} {o : Order} (ho : s.clearFaultOf 1 = some o)
include ho

theorem exec_clearFaultChannel_of_other (hrun : (s.channel o.channel).run ≠ .jammed) :
    exec .clearFaultChannel s = .next (s.finishRefused .notFaulted) := by
  change execClearFaultChannel s = _
  rw [execClearFaultChannel, ho]
  exact congrArg Host.Outcome.next (if_pos hrun)

theorem exec_clearFaultChannel_of_jammed (hrun : (s.channel o.channel).run = .jammed) {t : State}
    (ht : s.clearJam o.channel = t) : exec .clearFaultChannel s =
      .next (t.finishDone (BitVec.ofNat 32 (s.channel o.channel).speedCount) false false false) := by
  change execClearFaultChannel s = _
  rw [execClearFaultChannel, ho, ← ht]
  exact congrArg Host.Outcome.next (if_neg (not_not_intro hrun))

end ClearFault

/-- Settles O47. -/
theorem feedDemandJamsAndClears : Obligations.FeedDemandJamsAndClears := by
  refine ⟨fun s c => ?_, fun s rest => ⟨fun speed => exec_speedHandoff_of_first, fun g => exec_geometryAtFdc_of_first⟩,
    fun s o ho => ?_, fun s c => ?_, fun s c => ?_⟩
  · intro r
    refine ⟨fun expiry htimer => ?_, exec_speedPulse_eq s c⟩
    intro t jammed u
    have hexec : exec (.stallExpiry c) s = .next (u.couple c) :=
      (exec_stallExpiry_of_some htimer).trans (congrArg _ (t.jam_eq c))
    exact ⟨fun hc => hexec.trans (congrArg _ (u.couple_of_none (conveyorOf_of_conveyor hc))),
      fun k hk => hexec.trans (congrArg _ (u.couple_of_some (conveyorOf_of_auger hk)))⟩
  · intro c r
    refine ⟨exec_clearFaultChannel_of_other ho, fun hjammed => ?_⟩
    intro run cleared u done
    have hclear : s.clearJam c = u.uncouple c := s.clearJam_eq hjammed
    exact ⟨fun hc => exec_clearFaultChannel_of_jammed ho hjammed
        (hclear.trans (u.uncouple_of_none (conveyorOf_of_conveyor hc))),
      fun k hk => exec_clearFaultChannel_of_jammed ho hjammed
        (hclear.trans (u.uncouple_of_some (conveyorOf_of_auger hk)))⟩
  · intro r levelSet term drive flow
    have hterm (level : Nat) : s.levelTerm c level = term level := by
      rw [State.levelTerm, levelSetting_eq]
    refine ⟨s.demandOf c r, s.recomputeDemand_eq c, State.demandOf_of_still, State.demandOf_of_holding,
      fun hfree hrun => ?_⟩
    rw [State.demandOf_of_running hfree hrun]
    refine ⟨fun hmode => ?_, fun hmode => ?_, State.modeDemand_of_none, fun level hlevel => ⟨fun hmode hfull => ?_,
      fun hmode hbelow => ?_, fun hmode => ?_⟩⟩
    · simp only [State.modeDemand, hmode]
    · simp only [State.modeDemand, hmode]
    · simp only [State.modeDemand, hmode, hlevel]
      exact State.levelDemand_of_full (by rwa [levelSetting_eq])
    · simp only [State.modeDemand, hmode, hlevel]
      rw [State.levelDemand_of_below (by rwa [levelSetting_eq]), hterm]
    · simp only [State.modeDemand, hmode, hlevel]
      rw [State.flowDemand, clamp_toNat, hterm, State.flowTerm_eq]
  · intro r
    have hchannel : s.channel c = r := rfl
    rw [State.settleStall_eq, hchannel]
    cases r.stallTimer <;> rfl

end Sys2Proof.Machine

/-! PROOF. Triggers by chainage and by time: the advance, the fallback timer and what a trigger captures or misses (R154,
R156 to R158, R160). -/
namespace Sys2Proof.Machine

/-! ## Advances (R154, R156) -/

theorem Mru.advanceTo_eq (m : Mru) (c : Word) :
    m.advanceTo c = { m with chainageSeen := if m.chainageSeen ≤ c then c else m.chainageSeen } := by
  unfold Mru.advanceTo
  split <;> rfl

theorem crossedPoints_of_short {chainage next : Nat} (h : chainage < next) (spacing : Nat) :
    crossedPoints chainage next spacing = 0 := if_neg (Nat.not_le.mpr h)

theorem crossedPoints_of_reached {chainage next : Nat} (h : next ≤ chainage) (spacing : Nat) :
    crossedPoints chainage next spacing = 1 + (chainage - next) / spacing := if_pos h

/-- R156: the next trigger lies beyond the points crossed. -/
theorem lt_next_crossing {chainage next spacing : Nat} (h : 0 < spacing) :
    chainage < next + (1 + (chainage - next) / spacing) * spacing := by
  have hspan : chainage - next < (1 + (chainage - next) / spacing) * spacing :=
    Nat.lt_mul_of_div_lt (by omega) h
  omega

section Advance
variable {s : State}

theorem exec_chainageAdvanceAtMru_of_first {c : Word} {rest : List Waiting}
    (h : s.FirstWaiting (fun h => ∃ x, h = .advanceToMru x) (.advanceToMru c) rest) :
    exec .chainageAdvanceAtMru s = .next (State.advanceRecords { s with
      inbox := rest
      mru := { s.mru with chainageSeen := if s.mru.chainageSeen ≤ c then c else s.mru.chainageSeen } }) := by
  change execChainageAdvanceAtMru s = _
  rw [execChainageAdvanceAtMru, h.take, ← Mru.advanceTo_eq]
  · rfl
  · intro h
    cases h <;> simp

theorem State.advanceRecords_of_idle (h : s.mru.recordsSeen = .off ∨ s.mru.nextTrigger = none ∨
    s.mru.recordsSeen = .run ∧ s.mru.travelSeen ≠ .live) : s.advanceRecords = s := by
  unfold State.advanceRecords
  split
  next next hrun hnext =>
    refine if_neg fun hlive => ?_
    rcases h with h | h | ⟨_, h⟩
    · exact nomatch h.symm.trans hrun
    · exact nomatch h.symm.trans hnext
    · exact h hlive
  next next hstop hnext =>
    rcases h with h | h | ⟨h, _⟩
    · exact nomatch h.symm.trans hstop
    · exact nomatch h.symm.trans hnext
    · exact nomatch h.symm.trans hstop
  next => rfl

variable {next : Nat} (hnext : s.mru.nextTrigger = some next)
include hnext

theorem State.advanceRecords_of_run (hrun : s.mru.recordsSeen = .run) (hlive : s.mru.travelSeen = .live) :
    s.advanceRecords = s.runAdvance next := by
  unfold State.advanceRecords
  rw [hrun, hnext]
  exact if_pos hlive

theorem State.advanceRecords_of_stopmark (hstop : s.mru.recordsSeen = .stopmark) :
    s.advanceRecords = { s with mru := { s.mru with
      nextTrigger := some (next + crossedPoints s.mru.chainageSeen.toNat next (s.settingNat Setting.lineSpacing) *
        s.settingNat Setting.lineSpacing) } } := by
  unfold State.advanceRecords
  rw [hstop, hnext]
  rfl

omit hnext in
theorem State.runAdvance_of_reached (h : next ≤ s.mru.chainageSeen.toNat) : s.runAdvance next =
    let k := 1 + (s.mru.chainageSeen.toNat - next) / s.settingNat Setting.lineSpacing
    (s.trigger false).modMru fun m =>
      { m.miss (k - 1) .spacing with nextTrigger := some (next + k * s.settingNat Setting.lineSpacing) } := by
  unfold State.runAdvance
  dsimp only
  rw [crossedPoints_of_reached h, if_neg (Nat.ne_of_gt (Nat.add_pos_left Nat.one_pos _))]

/-- R156: an advance short of the next trigger point makes none. -/
theorem State.advanceRecords_of_short (hshort : s.mru.chainageSeen.toNat < next) : s.advanceRecords = s := by
  cases hmode : s.mru.recordsSeen with
  | off => exact State.advanceRecords_of_idle (.inl hmode)
  | run =>
    by_cases hlive : s.mru.travelSeen = .live
    · rw [State.advanceRecords_of_run hnext hmode hlive]
      exact if_pos (crossedPoints_of_short hshort _)
    · exact State.advanceRecords_of_idle (.inr (.inr ⟨hmode, hlive⟩))
  | stopmark =>
    rw [State.advanceRecords_of_stopmark hnext hmode, crossedPoints_of_short hshort, Nat.zero_mul, Nat.add_zero, ← hnext]

end Advance

/-! ## The fallback timer (R157) -/

/-- R157: the fallback timer runs in RUN while travel is not LIVE, and stands where it ran. -/
theorem State.settleFallback_eq (s : State) : s.settleFallback = { s with mru := { s.mru with
    fallbackTimer := if s.mru.recordsSeen = .run ∧ s.mru.travelSeen ≠ .live then
        some (s.mru.fallbackTimer.getD (s.rif.runTime + BitVec.ofNat 32 (s.settingNat Setting.fallbackInterval)))
      else none } } := by
  have hor : (s.mru.fallbackTimer <|> s.startTimer (s.settingNat Setting.fallbackInterval)) =
      some (s.mru.fallbackTimer.getD (s.rif.runTime + BitVec.ofNat 32 (s.settingNat Setting.fallbackInterval))) := by
    cases s.mru.fallbackTimer <;> rfl
  rw [← hor]
  rfl

section Fallback
variable {s : State}

theorem State.settleFallback_of_stopped (h : s.mru.recordsSeen ≠ .run ∨ s.mru.travelSeen = .live) :
    s.settleFallback = { s with mru := { s.mru with fallbackTimer := none } } := by
  rw [State.settleFallback_eq, if_neg fun ⟨hrun, hlive⟩ => h.elim (· hrun) hlive]

theorem State.settleFallback_of_runs (hrun : s.mru.recordsSeen = .run) (hlive : s.mru.travelSeen ≠ .live) :
    let start := s.rif.runTime + BitVec.ofNat 32 (s.settingNat Setting.fallbackInterval)
    s.settleFallback = { s with mru := { s.mru with fallbackTimer := some (s.mru.fallbackTimer.getD start) } } := by
  rw [State.settleFallback_eq, if_pos ⟨hrun, hlive⟩]

theorem exec_travelStatusAtMru_of_first {status : TravelStatus} {rest : List Waiting}
    (h : s.FirstWaiting (fun h => ∃ x, h = .travelToMru x) (.travelToMru status) rest) :
    exec .travelStatusAtMru s =
      .next (State.settleFallback { s with inbox := rest, mru := { s.mru with travelSeen := status } }) := by
  change execTravelStatusAtMru s = _
  rw [execTravelStatusAtMru, h.take]
  · rfl
  · intro h
    cases h <;> simp

theorem exec_geometryAtMru_of_first {g : GeometryRecord} {rest : List Waiting}
    (h : s.FirstWaiting (fun h => ∃ x, h = .geometryToMru x) (.geometryToMru g) rest) :
    exec .geometryAtMru s = .next { s with inbox := rest, mru := { s.mru with geometry := g } } := by
  change execGeometryAtMru s = _
  rw [execGeometryAtMru, h.take]
  · rfl
  · intro h
    cases h <;> simp

theorem exec_fallbackTimerExpiry_of_some {expiry : Word} (h : s.mru.fallbackTimer = some expiry) :
    exec .fallbackTimerExpiry s = .next (((s.runTo expiry).modMru fun m => { m with
      fallbackTimer := (s.runTo expiry).startTimer (s.settingNat Setting.fallbackInterval) }).trigger true) := by
  change execFallbackTimerExpiry s = _
  rw [execFallbackTimerExpiry, h]
  rfl

end Fallback

/-! ## Triggers (R158, R160) -/

section Trigger
variable {s : State}

theorem State.trigger_of_missed {reason : GapReason} (h : s.mru.missReason = some reason) (unplaced : Bool) :
    s.trigger unplaced = { s with mru := s.mru.miss 1 reason } := by
  unfold State.trigger
  rw [h]
  rfl

theorem State.trigger_of_captured (h : s.mru.missReason = none) (unplaced : Bool) : s.trigger unplaced = { s with
    mru := { s.mru with
      line := some (s.mru.capture s.now unplaced), afterStop := false, queue := s.mru.queue ++ [.linePlace] }
    inbox := s.inbox ++ [⟨false, .scannerRequest .trigger⟩] } := by
  unfold State.trigger
  rw [h]
  rfl

end Trigger

section Reason
variable {m : Mru}

theorem Mru.missReason_of_reference (h : m.referencePhase ≠ .idle) : m.missReason = some .reference := if_pos h

theorem Mru.missReason_of_busy (hidle : m.referencePhase = .idle) (h : m.line.isSome = true) :
    m.missReason = some .busy := (if_neg (not_not_intro hidle)).trans (if_pos h)

variable (hidle : m.referencePhase = .idle) (hline : m.line = none)
include hidle hline

theorem Mru.missReason_of_no_scanner
    (h : m.scannerSeen = none ∨ m.scannerSeen = some .dropped ∨ m.scannerSeen = some .mismatch) :
    m.missReason = some .scanner := by
  unfold Mru.missReason
  rw [if_neg (not_not_intro hidle), hline]
  rcases h with h | h | h <;> rw [h] <;> rfl

theorem Mru.missReason_of_ready
    (h : m.scannerSeen = some .active ∨ m.scannerSeen = some .suspect ∨ m.scannerSeen = some .unconfirmed) :
    m.missReason = none := by
  unfold Mru.missReason
  rw [if_neg (not_not_intro hidle), hline]
  rcases h with h | h | h <;> rw [h] <;> rfl

end Reason

/-- R160: triggers missed are counted, and in the pending GAP, made if absent. -/
theorem Mru.miss_of_pos (m : Mru) {n : Nat} (h : 0 < n) (reason : GapReason) : m.miss n reason = { m with
    triggersMissed := m.triggersMissed + BitVec.ofNat 32 n
    pendingGap := some (gapWith m.pendingGap 0 (BitVec.ofNat 32 n) reason) } := if_neg (Nat.ne_of_gt h)

/-- Settles O48. -/
theorem triggersByChainageAndTime : Obligations.TriggersByChainageAndTime := by
  refine ⟨fun s c rest hfirst => ?_, fun s rest => ?_, fun s unplaced => ?_, fun m n reason => ⟨rfl, fun hpos => ?_⟩⟩
  · intro seen u spacing
    have hexec : exec .chainageAdvanceAtMru s = .next u.advanceRecords := exec_chainageAdvanceAtMru_of_first hfirst
    refine ⟨fun hidle => hexec.trans (congrArg _ (State.advanceRecords_of_idle hidle)), fun next hnext => ?_⟩
    intro k
    refine ⟨fun _ hshort => hexec.trans (congrArg _ (State.advanceRecords_of_short hnext hshort)),
      fun hrun hlive hreached => ?_, fun hstop hreached => ⟨?_, lt_next_crossing⟩⟩
    · exact hexec.trans (congrArg _ ((State.advanceRecords_of_run (s := u) hnext hrun hlive).trans
        (State.runAdvance_of_reached hreached)))
    · refine hexec.trans (congrArg _ ((State.advanceRecords_of_stopmark (s := u) hnext hstop).trans ?_))
      have hcrossed : crossedPoints u.mru.chainageSeen.toNat next (u.settingNat Setting.lineSpacing) = k :=
        crossedPoints_of_reached hreached _
      rw [hcrossed]
      rfl
  · intro after interval
    refine ⟨fun status hfirst => ?_, fun g => exec_geometryAtMru_of_first, fun expiry => exec_fallbackTimerExpiry_of_some⟩
    intro put
    have hexec := exec_travelStatusAtMru_of_first hfirst
    exact ⟨fun h => hexec.trans (congrArg _ (State.settleFallback_of_stopped h)),
      fun hrun hlive => hexec.trans (congrArg _ (State.settleFallback_of_runs hrun hlive))⟩
  · intro m missed
    exact ⟨fun h => State.trigger_of_missed (Mru.missReason_of_reference h) _,
      fun hidle h => State.trigger_of_missed (Mru.missReason_of_busy hidle h) _,
      fun hidle hline h => State.trigger_of_missed (Mru.missReason_of_no_scanner hidle hline h) _,
      fun hidle hline h => State.trigger_of_captured (Mru.missReason_of_ready hidle hline h) _⟩
  · rw [Mru.miss_of_pos m hpos]
    cases m.pendingGap with
    | none => rfl
    | some g =>
      have hlost : g.lost + 0 = g.lost := BitVec.add_zero _
      rw [gapWith, hlost]

end Sys2Proof.Machine

/-! PROOF. The pending GAP of the line in flight, and how a line leaves its place in the queue (R158, R160, R164). -/
namespace Sys2Proof.Machine

/-! ## The period of the line in flight (R164) -/

theorem periodLeft_eq_none_iff (q : List QueueItem) : periodLeft q = none ↔ ∀ left, .closePast left ∉ q := by
  induction q with
  | nil => simp [periodLeft]
  | cons i q ih =>
    cases i with
    | closePast left => exact ⟨fun h => (nomatch h), fun h => absurd List.mem_cons_self (h left)⟩
    | _ => simp [periodLeft, ih]

section ClosePast
variable {between : List QueueItem} (hbetween : ∀ left, .closePast left ∉ between) (left : PeriodEnd)
  (rest : List QueueItem)
include hbetween

theorem periodLeft_append : periodLeft (between ++ .closePast left :: rest) = some left := by
  induction between with
  | nil => rfl
  | cons i between ih =>
    have htail := ih fun left hleft => hbetween left (List.mem_cons_of_mem _ hleft)
    cases i with
    | closePast other => exact absurd List.mem_cons_self (hbetween other)
    | _ => exact htail

theorem setPeriodGap_append (gap : Option PendingGap) : setPeriodGap gap (between ++ .closePast left :: rest) =
    between ++ .closePast { left with gap := gap } :: rest := by
  induction between with
  | nil => rfl
  | cons i between ih =>
    have htail := ih fun left hleft => hbetween left (List.mem_cons_of_mem _ hleft)
    cases i with
    | closePast other => exact absurd List.mem_cons_self (hbetween other)
    | _ => exact congrArg _ htail

end ClosePast

theorem fromLine_of_absent {q : List QueueItem} (h : .linePlace ∉ q) : fromLine q = [] := by
  refine List.dropWhile_eq_nil_iff.mpr fun i hi => ?_
  simpa using ne_of_mem_of_not_mem hi h

section Placed
variable {pre : List QueueItem} (hpre : .linePlace ∉ pre) (post : List QueueItem)
include hpre

theorem fromLine_append : fromLine (pre ++ .linePlace :: post) = .linePlace :: post := by
  have hall : ∀ i ∈ pre, decide (i ≠ .linePlace) = true := fun i hi => by simpa using ne_of_mem_of_not_mem hi hpre
  rw [fromLine, List.dropWhile_append_of_pos hall]
  rfl

theorem beforeLine_append : (pre ++ .linePlace :: post).takeWhile (· ≠ .linePlace) = pre := by
  have hall : ∀ i ∈ pre, decide (i ≠ .linePlace) = true := fun i hi => by simpa using ne_of_mem_of_not_mem hi hpre
  rw [List.takeWhile_append_of_pos hall]
  exact List.append_nil _

end Placed

section LineGap
variable {m : Mru} (gap : Option PendingGap)

/-- R160, R164: the line's period has not ended: its GAP is the pending one. -/
theorem Mru.lineGap_of_present (h : periodLeft (fromLine m.queue) = none) :
    m.lineGap = m.pendingGap ∧ m.setLineGap gap = { m with pendingGap := gap } := by
  unfold Mru.lineGap Mru.setLineGap
  rw [h]
  exact ⟨rfl, rfl⟩

theorem Mru.lineGap_of_left {left : PeriodEnd} (h : periodLeft (fromLine m.queue) = some left) :
    m.lineGap = left.gap ∧ m.setLineGap gap =
      { m with queue := m.queue.takeWhile (· ≠ .linePlace) ++ setPeriodGap gap (fromLine m.queue) } := by
  unfold Mru.lineGap Mru.setLineGap
  rw [h]
  exact ⟨rfl, rfl⟩

theorem periodLeft_fromLine_of_none {q : List QueueItem} (h : (∀ left, .closePast left ∉ q) ∨ .linePlace ∉ q) :
    periodLeft (fromLine q) = none := by
  refine (periodLeft_eq_none_iff _).mpr fun left hleft => ?_
  rcases h with h | h
  · exact h left ((List.dropWhile_sublist _).mem hleft)
  · rw [fromLine_of_absent h] at hleft
    exact absurd hleft List.not_mem_nil

theorem Mru.lineGap_of_none_left {pre post : List QueueItem} (hq : m.queue = pre ++ .linePlace :: post)
    (hpre : .linePlace ∉ pre) (h : ∀ left, .closePast left ∉ post) :
    m.lineGap = m.pendingGap ∧ m.setLineGap gap = { m with pendingGap := gap } := by
  refine Mru.lineGap_of_present gap ?_
  rw [hq, fromLine_append hpre]
  exact (periodLeft_eq_none_iff post).mpr h

/-- R164: the line's period has ended: its GAP stands at the first close mark behind the line's place. -/
theorem Mru.lineGap_of_closePast {pre between rest : List QueueItem} {left : PeriodEnd}
    (hq : m.queue = pre ++ .linePlace :: (between ++ .closePast left :: rest)) (hpre : .linePlace ∉ pre)
    (hbetween : ∀ left, .closePast left ∉ between) :
    m.lineGap = left.gap ∧ m.setLineGap gap =
      { m with queue := pre ++ .linePlace :: (between ++ .closePast { left with gap := gap } :: rest) } := by
  have hfrom := fromLine_append hpre (between ++ .closePast left :: rest)
  have hleft : periodLeft (fromLine m.queue) = some left := by
    rw [hq, hfrom]
    exact periodLeft_append hbetween left rest
  have hset : setPeriodGap gap (.linePlace :: (between ++ .closePast left :: rest)) =
      .linePlace :: (between ++ .closePast { left with gap := gap } :: rest) :=
    congrArg _ (setPeriodGap_append hbetween left rest gap)
  have hgap := Mru.lineGap_of_left gap hleft
  rwa [hq, hfrom, beforeLine_append hpre, hset] at hgap

end LineGap

/-! ## A line leaves its place (R158, R160) -/

/-- R160: the queue with entries, or nothing, in the place of the line in flight. -/
def filledPlace (q : List QueueItem) (entries : List Entry) : List QueueItem :=
  q.flatMap fun i => if i = .linePlace then entries.map .entry else [i]

/-- R160: setting the line's GAP changes no count, and reads nothing of the line itself. -/
theorem Mru.setLineGap_line (m : Mru) (line : Option LineInFlight) (gap : Option PendingGap) :
    ({ m with line := line } : Mru).setLineGap gap = { m.setLineGap gap with line := line } := by
  unfold Mru.setLineGap
  dsimp only
  split <;> rfl

theorem Mru.setLineGap_counts (m : Mru) (gap : Option PendingGap) : (m.setLineGap gap).linesLost = m.linesLost ∧
    (m.setLineGap gap).triggersMissed = m.triggersMissed ∧ (m.setLineGap gap).line = m.line := by
  unfold Mru.setLineGap
  split <;> exact ⟨rfl, rfl, rfl⟩

/-- R160: the line in flight gone, its period's GAP with what it counts more. -/
def Mru.lineCounted (m : Mru) (lost missed : Word) (reason : GapReason) : Mru :=
  ({ m with line := none } : Mru).setLineGap (some (gapWith m.lineGap lost missed reason))

theorem Mru.countLine_eq (m : Mru) (lost missed : Word) (reason : GapReason) :
    let g := m.setLineGap (some (gapWith m.lineGap lost missed reason))
    m.countLine lost missed reason = { g with
      queue := filledPlace g.queue [], linesLost := g.linesLost + lost, triggersMissed := g.triggersMissed + missed } := by
  obtain ⟨hlost, hmissed, _⟩ := m.setLineGap_counts (some (gapWith m.lineGap lost missed reason))
  dsimp only
  rw [hlost, hmissed]
  rfl

theorem word_add_zero (x : Word) : x + 0 = x := BitVec.add_zero x

/-- R160: a line that counts as lost. -/
theorem Mru.countLine_lost (m : Mru) (reason : GapReason) :
    let g := m.lineCounted 1 0 reason
    m.countLine 1 0 reason =
      { g with line := m.line, queue := filledPlace g.queue [], linesLost := g.linesLost + 1 } := by
  obtain ⟨_, _, hline⟩ := m.setLineGap_counts (some (gapWith m.lineGap 1 0 reason))
  have hcounted : m.lineCounted 1 0 reason =
    { m.setLineGap (some (gapWith m.lineGap 1 0 reason)) with line := none } := Mru.setLineGap_line ..
  dsimp only
  rw [Mru.countLine_eq, word_add_zero, hcounted, ← hline]

/-- R158: a line that is given up, its trigger missed. -/
theorem Mru.countLine_missed (m : Mru) (reason : GapReason) :
    let g := m.lineCounted 0 1 reason
    ({ m with line := none } : Mru).countLine 0 1 reason =
      { g with queue := filledPlace g.queue [], triggersMissed := g.triggersMissed + 1 } := by
  dsimp only
  rw [Mru.countLine_eq, word_add_zero]
  rfl

section Offer
variable {s : State} (e : LineEntry)

theorem State.offerLine_of_no_gap (hgap : s.mru.lineGap = none) : s.offerLine e =
    if s.mru.entriesQueued ≤ 12 then (s.modMru fun m => m.fillLinePlace [.line e]).drive true else s.loseLine := by
  unfold State.offerLine
  rw [hgap]

theorem State.offerLine_of_gap {g : PendingGap} (hgap : s.mru.lineGap = some g) : s.offerLine e =
    if s.mru.entriesQueued ≤ 11 then
      (s.modMru fun m =>
        (m.setLineGap none).fillLinePlace [g.entry e.line.chainage e.line.runTime, .line e]).drive true
    else s.loseLine := by
  unfold State.offerLine
  rw [hgap]

theorem State.releaseCycle_eq (s : State) : s.releaseCycle = if s.mru.referencePhase = .pending then
    { s with mru := { s.mru with referencePhase := .wait }, inbox := s.inbox ++ [⟨false, .scannerRequest .reference⟩] }
    else s := rfl

end Offer

end Sys2Proof.Machine

/-! PROOF. A line checked: its mean, its extremes and cold points, and the thermal run counter (R159). -/
namespace Sys2Proof.Machine

/-! ## The extremes of the readings -/

section Extremes
variable {readings : List Int} {low high : Int} (hlow : low ∈ readings) (hhigh : high ∈ readings)
  (hall : ∀ v ∈ readings, low ≤ v ∧ v ≤ high)

theorem spreadOf_nil : spreadOf [] = 0 := rfl

include hlow hall in
theorem min?_of_lowest : readings.min? = some low := List.min?_eq_some_iff.mpr ⟨hlow, fun v hv => (hall v hv).1⟩

include hhigh hall in
theorem max?_of_highest : readings.max? = some high := List.max?_eq_some_iff.mpr ⟨hhigh, fun v hv => (hall v hv).2⟩

include hlow hhigh hall in
theorem spreadOf_of_extremes : spreadOf readings = high - low := by
  rw [spreadOf, min?_of_lowest hlow hall, max?_of_highest hhigh hall]
  rfl

end Extremes

/-! ## Points (R159) -/

theorem mem_readingsOf_iff (window : List Half) (v : Int) :
    v ∈ readingsOf window ↔ ∃ p ∈ window, p ≠ noReading ∧ p.toInt = v := by
  simp [readingsOf, and_assoc]

/-- R159: the index of a reading is that of the first point that holds its value. -/
theorem pointIndex_first {window : List Half} {v : Int} (hv : v ∈ readingsOf window) :
    (window[pointIndex window v]?).map (·.toInt) = some v ∧
      ∀ j < pointIndex window v, (window[j]?).map (·.toInt) ≠ some v := by
  obtain ⟨p, hp, hreading, rfl⟩ := (mem_readingsOf_iff window v).mp hv
  have hsame (q : Half) : (q != noReading && q.toInt == p.toInt) = true ↔ q = p := by
    simp only [Bool.and_eq_true, bne_iff_ne, ne_eq, beq_iff_eq, BitVec.toInt_inj]
    exact ⟨fun h => h.2, fun h => ⟨h ▸ hreading, h⟩⟩
  obtain ⟨i, hi⟩ : ∃ i, window.findIdx? (fun q => q != noReading && q.toInt == p.toInt) = some i :=
    Option.isSome_iff_exists.mp (List.findIdx?_isSome.trans (List.any_eq_true.mpr ⟨p, hp, (hsame p).mpr rfl⟩))
  have hindex : pointIndex window p.toInt = i := by rw [pointIndex, hi]; rfl
  obtain ⟨hlt, hfound, hbefore⟩ := List.findIdx?_eq_some_iff_getElem.mp hi
  rw [hindex]
  refine ⟨?_, fun j hj hvalue => ?_⟩
  · rw [List.getElem?_eq_getElem hlt, (hsame _).mp hfound]
    rfl
  · obtain ⟨q, hq, hvalue⟩ := Option.map_eq_some_iff.mp hvalue
    obtain ⟨_, rfl⟩ := List.getElem?_eq_some_iff.mp hq
    exact hbefore j hj ((hsame _).mpr (BitVec.toInt_inj.mp hvalue))

/-! ## A checked line (R159) -/

section Check
variable (s : State) (l : LineInFlight) (points : List Half)

theorem State.checkLine_coldCount : (s.checkLine l points).coldCount =
    (readingsOf (l.window points)).countP fun v => decide (v < s.setting Setting.coldLimit) :=
  List.countP_eq_length_filter.symm

theorem State.checkLine_cold :
    (s.checkLine l points).cold = true ↔ 0 < (s.checkLine l points).coldCount := decide_eq_true_iff

theorem State.checkLine_spread : (s.checkLine l points).spread = true ↔
    s.setting Setting.spreadLimit < spreadOf (readingsOf (l.window points)) := decide_eq_true_iff

theorem State.checkLine_minIndex {low : Int} (h : (readingsOf (l.window points)).min? = some low) :
    (s.checkLine l points).minIndex = pointIndex (l.window points) low := by
  unfold State.checkLine
  dsimp only
  rw [h]

theorem State.checkLine_maxIndex {high : Int} (h : (readingsOf (l.window points)).max? = some high) :
    (s.checkLine l points).maxIndex = pointIndex (l.window points) high := by
  unfold State.checkLine
  dsimp only
  rw [h]

variable {l points}

/-- R159: a line without a reading. -/
theorem State.checkLine_of_none (h : readingsOf (l.window points) = []) (hlimit : 0 ≤ s.setting Setting.spreadLimit) :
    (s.checkLine l points).mean = -32768 ∧ (s.checkLine l points).minIndex = 255 ∧
      (s.checkLine l points).maxIndex = 255 ∧ (s.checkLine l points).spread = false ∧
      (s.checkLine l points).cold = false := by
  have hspread : ¬ s.setting Setting.spreadLimit < 0 := Int.not_lt.mpr hlimit
  unfold State.checkLine
  dsimp only
  rw [h, spreadOf_nil]
  exact ⟨rfl, rfl, rfl, decide_eq_false hspread, rfl⟩

theorem State.checkLine_mean (h : readingsOf (l.window points) ≠ []) : (s.checkLine l points).mean =
    (readingsOf (l.window points)).sum.tdiv (readingsOf (l.window points)).length := if_neg h

end Check

/-! ## The thermal run (R159) -/

section Thermal
variable {s : State} {e : LineEntry}

/-- R159: the thermal run counter after one more hot line. -/
def State.thermalCount (s : State) : Nat := min 50 (s.mru.thermalRun + 1)

theorem State.followThermal_of_bad (h : e.spread = true ∨ e.cold = true) : s.followThermal e =
    let u := s.modMru fun m => { m with thermalRun := s.thermalCount }
    if s.settingNat Setting.runCount ≤ s.thermalCount ∧ s.mru.thermalReported = false then
      (u.postNote .thermalRun 0 (BitVec.ofInt 32 (spreadOf (readingsOf e.points)))).modMru fun m =>
        { m with thermalReported := true }
    else u := by
  have hbad : (e.spread || e.cold) = true := Bool.or_eq_true _ _ ▸ h
  refine (if_pos hbad).trans ?_
  simp only [Bool.not_eq_true']
  rfl

theorem State.followThermal_of_good (hspread : e.spread = false) (hcold : e.cold = false) : s.followThermal e =
    if readingsOf e.points = [] then s
    else { s with mru := { s.mru with thermalRun := 0, thermalReported := false } } := by
  have hgood : ¬ (e.spread || e.cold) = true := by simp [hspread, hcold]
  exact if_neg hgood

end Thermal

end Sys2Proof.Machine

/-! PROOF. The scanner's results and the exposure, and the lines they make (R158 to R160, R165). -/
namespace Sys2Proof.Machine

/-! ## What the records unit takes of the scanner (R158) -/

theorem Handoff.fromScanner_iff (h : Handoff) :
    h.fromScanner = true ↔ (∃ x y, h = .scannerAnswer x y) ∨ ∃ x, h = .scannerState x := by
  cases h <;> simp [Handoff.fromScanner]

section Handed
variable {s : State} {rest : List Waiting} {seen : Option HeadState}

theorem exec_scannerStateAtMru_of_first
    (h : s.FirstWaiting (fun h => (∃ x y, h = Handoff.scannerAnswer x y) ∨ ∃ x, h = .scannerState x)
      (.scannerState seen) rest) :
    exec .scannerStateAtMru s = .next { s with inbox := rest, mru := { s.mru with scannerSeen := seen } } := by
  change execScannerStateAtMru s = _
  rw [execScannerStateAtMru, h.take _ Handoff.fromScanner_iff]
  rfl

theorem exec_scannerResult_of_first {answer : ScannerAnswer}
    (h : s.FirstWaiting (fun h => (∃ x y, h = Handoff.scannerAnswer x y) ∨ ∃ x, h = .scannerState x)
      (.scannerAnswer answer seen) rest) : exec .scannerResult s =
        .next (State.takeAnswer { s with inbox := rest, mru := { s.mru with scannerSeen := seen } } answer) := by
  change execScannerResult s = _
  rw [execScannerResult, h.take _ Handoff.fromScanner_iff]
  rfl

end Handed

section Answers
variable {s : State} {points : List Half}

theorem State.scannerCompletes_of_triggered {l : LineInFlight} (hline : s.mru.line = some l) (hphase : l.phase = .triggerWait) :
    s.scannerCompletes .trigger points = { s with mru := { s.mru with
      line := some { l with phase := .exposing }, exposureTimer := s.startTimer 20 } } := by
  unfold State.scannerCompletes
  rw [hline]
  exact if_pos hphase

theorem State.scannerCompletes_of_other_trigger (h : ∀ l, s.mru.line = some l → l.phase ≠ .triggerWait) :
    s.scannerCompletes .trigger points = s := by
  unfold State.scannerCompletes
  cases hline : s.mru.line with
  | none => rfl
  | some l => exact if_neg (h l hline)

theorem State.scannerCompletes_of_read {l : LineInFlight} (hline : s.mru.line = some l) (hphase : l.phase = .lineWait) :
    s.scannerCompletes .line points = s.produceLine l points := by
  unfold State.scannerCompletes
  rw [hline]
  exact if_pos hphase

theorem State.scannerCompletes_of_other_line (h : ∀ l, s.mru.line = some l → l.phase ≠ .lineWait) :
    s.scannerCompletes .line points = s := by
  unfold State.scannerCompletes
  cases hline : s.mru.line with
  | none => rfl
  | some l => exact if_neg (h l hline)

theorem State.scannerCompletes_reference : s.scannerCompletes .reference points =
    if s.mru.referencePhase = .wait then
      { s with mru := { s.mru with referencePhase := .busy, cycleTimer := s.startTimer 1500 } }
    else s := by
  unfold State.scannerCompletes
  cases s.mru.line <;> rfl

theorem State.scannerFails_of_some {l : LineInFlight} (hline : s.mru.line = some l) :
    s.scannerFails = if l.phase = .exposing then s else s.giveUpLine := by
  unfold State.scannerFails
  rw [hline]

theorem State.scannerFails_of_none (hline : s.mru.line = none) :
    s.scannerFails = if s.mru.referencePhase = .wait then s.endCycle else s := by
  unfold State.scannerFails
  rw [hline]

theorem State.takeAnswer_of_failure {answer : ScannerAnswer} (h : answer = .failed ∨ answer = .notIssued) :
    s.takeAnswer answer = s.scannerFails := by
  rcases h with rfl | rfl <;> rfl

end Answers

/-- R158: at the end of the exposure the LINE is asked for, where a line is exposing. -/
def State.askLine (s : State) : State :=
  match s.mru.line with
  | some l =>
    if l.phase = .exposing then
      (s.modMru fun m => { m with line := some { l with phase := .lineWait } }).hand (.scannerRequest .line)
    else s
  | none => s

section Exposure
variable {s : State}

theorem State.askLine_of_exposing {l : LineInFlight} (hline : s.mru.line = some l) (hphase : l.phase = .exposing) :
    s.askLine = { s with
      mru := { s.mru with line := some { l with phase := .lineWait } }
      inbox := s.inbox ++ [⟨false, .scannerRequest .line⟩] } := by
  unfold State.askLine
  rw [hline]
  exact if_pos hphase

theorem State.askLine_of_other (h : ∀ l, s.mru.line = some l → l.phase ≠ .exposing) : s.askLine = s := by
  unfold State.askLine
  cases hline : s.mru.line with
  | none => rfl
  | some l => exact if_neg (h l hline)

theorem exec_exposureTimerExpiry_of_some {expiry : Word} (htimer : s.mru.exposureTimer = some expiry) :
    exec .exposureTimerExpiry s =
      .next ((s.runTo expiry).modMru fun m => { m with exposureTimer := none }).askLine := by
  change execExposureTimerExpiry s = _
  rw [execExposureTimerExpiry, htimer] <;> rfl

end Exposure

/-! ## Losses (R160) -/

theorem State.reportLoss_of_new {s : State} (h : s.mru.lossReported = false) (subject : Nat) : s.reportLoss subject =
    (s.postNote .recordLoss subject ((s.mru.openPage.map (·.pageSequence)).getD 0)).modMru fun m =>
      { m with lossReported := true } := if_neg (Bool.eq_false_iff.mp h)

/-- Settles O49. -/
theorem linesAreReadCheckedAndOffered : Obligations.LinesAreReadCheckedAndOffered := by
  refine ⟨fun s rest seen => ?_, fun s l points => ?_, fun m gap => ?_, fun s l points => ?_, fun s e => ?_,
    ⟨spreadOf_nil, fun readings low high => spreadOf_of_extremes⟩, fun s subject => ⟨fun h => if_pos h, fun h => ?_⟩⟩
  · intro channel u after
    have hanswer {answer : ScannerAnswer} (h : s.FirstWaiting channel (.scannerAnswer answer seen) rest) {t : State}
        (ht : u.takeAnswer answer = t) : exec .scannerResult s = .next t :=
      (exec_scannerResult_of_first h).trans (congrArg _ ht)
    let put (expiry : Word) : State := (s.runTo expiry).modMru fun m => { m with exposureTimer := none }
    refine ⟨exec_scannerStateAtMru_of_first, fun points hfirst => ⟨fun l hline hphase => ?_, fun h => ?_⟩,
      fun points hfirst => ⟨fun l hline hphase => ?_, fun h => ?_⟩,
      fun points hfirst => ⟨fun hphase => ?_, fun hphase => ?_⟩,
      fun answer hfailed hfirst => ⟨fun l hline hphase => ?_, fun l hline hphase => ?_, fun hline hphase => ?_,
        fun hline hphase => ?_⟩, fun hfirst => hanswer hfirst rfl, fun expiry htimer =>
        ⟨fun l hline hphase => (exec_exposureTimerExpiry_of_some htimer).trans
            (congrArg _ (State.askLine_of_exposing (s := put expiry) hline hphase)),
          fun h => (exec_exposureTimerExpiry_of_some htimer).trans
            (congrArg _ (State.askLine_of_other (s := put expiry) h))⟩⟩
    · exact hanswer hfirst (State.scannerCompletes_of_triggered (s := u) hline hphase)
    · exact hanswer hfirst (State.scannerCompletes_of_other_trigger (s := u) h)
    · exact hanswer hfirst (State.scannerCompletes_of_read (s := u) hline hphase)
    · exact hanswer hfirst (State.scannerCompletes_of_other_line (s := u) h)
    · exact hanswer hfirst ((State.scannerCompletes_reference (s := u) (points := points)).trans (if_pos hphase))
    · exact hanswer hfirst ((State.scannerCompletes_reference (s := u) (points := points)).trans (if_neg hphase))
    · exact hanswer hfirst
        ((State.takeAnswer_of_failure hfailed).trans ((State.scannerFails_of_some (s := u) hline).trans (if_neg hphase)))
    · exact hanswer hfirst
        ((State.takeAnswer_of_failure hfailed).trans ((State.scannerFails_of_some (s := u) hline).trans (if_pos hphase)))
    · exact hanswer hfirst
        ((State.takeAnswer_of_failure hfailed).trans ((State.scannerFails_of_none (s := u) hline).trans (if_pos hphase)))
    · exact hanswer hfirst
        ((State.takeAnswer_of_failure hfailed).trans ((State.scannerFails_of_none (s := u) hline).trans (if_neg hphase)))
  · intro e without place
    refine ⟨rfl, ?_⟩
    intro counted
    have hcounted (lost missed : Word) (reason : GapReason) : counted lost missed reason =
        s.mru.lineCounted lost missed reason := by
      simp only [counted, Mru.lineCounted]
      cases s.mru.lineGap <;> rfl
    refine ⟨?_, s.releaseCycle_eq, fun e => ?_⟩
    · have hmissed := s.mru.countLine_missed .scanner
      rw [← hcounted] at hmissed
      rw [State.giveUpLine, State.modMru, hmissed]
      rfl
    · intro lost
      have hlost : s.loseLine = lost := by
        have hcount := s.mru.countLine_lost .queue
        rw [← hcounted] at hcount
        rw [State.loseLine, State.modMru, hcount]
        rfl
      refine ⟨fun hgap => ⟨fun hroom => ?_, fun hfull => ?_⟩, fun g hgap => ⟨fun hroom => ?_, fun hfull => ?_⟩⟩
      · exact (State.offerLine_of_no_gap e hgap).trans (if_pos hroom)
      · exact (State.offerLine_of_no_gap e hgap).trans ((if_neg (Nat.not_le.mpr hfull)).trans hlost)
      · exact (State.offerLine_of_gap e hgap).trans (if_pos hroom)
      · exact (State.offerLine_of_gap e hgap).trans ((if_neg (Nat.not_le.mpr hfull)).trans hlost)
  · intro noneLeft
    refine ⟨fun h => Mru.lineGap_of_present gap (periodLeft_fromLine_of_none h), fun pre post hq hpre =>
      ⟨Mru.lineGap_of_none_left gap hq hpre, ?_⟩⟩
    rintro between left rest rfl hbetween
    exact Mru.lineGap_of_closePast gap hq hpre hbetween
  · intro e window readings cold
    have hcold : e.coldCount = cold := s.checkLine_coldCount l points
    refine ⟨rfl, rfl, hcold, ?_, s.checkLine_of_none, s.checkLine_mean, fun low high hlow hhigh hall => ⟨?_, ?_⟩⟩
    · rw [← hcold]
      exact s.checkLine_cold l points
    · rw [← spreadOf_of_extremes hlow hhigh hall]
      exact s.checkLine_spread l points
    · intro first
      have hmin : e.minIndex = pointIndex window low := s.checkLine_minIndex l points (min?_of_lowest hlow hall)
      have hmax : e.maxIndex = pointIndex window high := s.checkLine_maxIndex l points (max?_of_highest hhigh hall)
      exact ⟨hmin ▸ pointIndex_first hlow, hmax ▸ pointIndex_first hhigh⟩
  · intro readings count u
    refine ⟨fun hbad => ⟨fun hcount hreported => ?_, fun h => ?_⟩, fun hspread hcold hreadings => ?_,
      fun hspread hcold hreadings => ?_⟩
    · exact (State.followThermal_of_bad hbad).trans (if_pos ⟨hcount, hreported⟩)
    · refine (State.followThermal_of_bad hbad).trans (if_neg fun ⟨hcount, hreported⟩ => ?_)
      exact h.elim (fun h => Nat.not_le.mpr h hcount) fun h => Bool.noConfusion (hreported.symm.trans h)
    · exact (State.followThermal_of_good hspread hcold).trans (if_neg hreadings)
    · exact (State.followThermal_of_good hspread hcold).trans (if_pos hreadings)
  · rw [State.reportLoss_of_new h]
    cases s.mru.openPage <;> rfl

end Sys2Proof.Machine

/-! PROOF. Pauses, records modes and marks at the Mat Record Unit (R154, R156, R157, R161, R163 to R165). -/
namespace Sys2Proof.Machine

/-! ## The writer leaves the reference cycle (R162, R165) -/

/-- R165: what a reference cycle is decided by. -/
def Mru.cycle (m : Mru) : ReferencePhase × Nat := (m.referencePhase, m.postponeCount)

theorem Mru.writeHead_cycle (m : Mru) (e : Entry) (search : Bool) : (m.writeHead e search).cycle = m.cycle := by
  unfold Mru.writeHead
  (repeat' split) <;> rfl

theorem Mru.leaveMark_cycle (m : Mru) (mark : QueueItem) (rest : List QueueItem) :
    (m.leaveMark mark rest).cycle = m.cycle := by
  unfold Mru.leaveMark Mru.carryGap
  dsimp only
  (repeat' split) <;> rfl

theorem Mru.runWriter_cycle (now : Word) (fuel : Nat) (search : Bool) (m : Mru) :
    (Mru.runWriter now fuel search m).cycle = m.cycle := by
  induction fuel generalizing search m with
  | zero => rfl
  | succ fuel ih =>
    unfold Mru.runWriter
    split
    next =>
      split
      next => rfl
      next => exact m.writeHead_cycle _ _
    next => rfl
    next => rfl
    next => rfl
    next mark rest _ _ _ _ =>
      split
      next => exact ih _ _
      next =>
        split
        next => exact m.leaveMark_cycle mark rest
        next => exact (ih _ _).trans (m.leaveMark_cycle mark rest)

theorem State.drive_cycle (s : State) (search : Bool) : (s.drive search).mru.cycle = s.mru.cycle := by
  unfold State.drive
  split
  next => rfl
  next =>
    rw [State.issuePage_mru]
    unfold State.nextOp
    split
    next => rfl
    next =>
      have hwriter := s.mru.runWriter_cycle s.now (2 * s.mru.queue.length + 2) search
      unfold State.settleDrain
      (repeat' split) <;> exact hwriter

/-! ## Pauses (R161) -/

section Pause
variable {s : State}

/-- R161: the STOP of a pause that starts now. -/
def State.stopHere (s : State) : StopEntry := ⟨s.mru.chainageSeen, s.now, none⟩

theorem State.startStop_eq (s : State) : s.startStop =
    if s.mru.pendingStop.isSome then
      (s.postNote .recordLoss 2 ((s.mru.openPage.map (·.pageSequence)).getD 0)).drive false
    else if s.mru.entriesQueued < 16 then s.joinQueue (.stop s.stopHere)
    else s.modMru fun m => { m with pendingStop := some s.stopHere, queue := m.queue ++ [.stopPlace] } := rfl

theorem State.startStop_cycle (s : State) : s.startStop.mru.cycle = s.mru.cycle := by
  rw [State.startStop_eq]
  split
  next =>
    rw [State.drive_cycle]
    simp
  next =>
    split
    next => exact State.drive_cycle ..
    next => rfl

/-- R161, R165: a pause that starts makes its STOP and runs a postponed cycle. -/
theorem State.pauseStarts_eq (s : State) : s.pauseStarts =
    let v := State.startStop { s with mru := { s.mru with recordsSeen := .stopmark, fallbackTimer := none } }
    if 0 < s.mru.postponeCount ∧ s.mru.referencePhase = .idle then v.runCycle else v := by
  have hsettle : (s.modMru fun m => { m with recordsSeen := .stopmark }).settleFallback =
      { s with mru := { s.mru with recordsSeen := .stopmark, fallbackTimer := none } } :=
    State.settleFallback_of_stopped (.inl fun h => nomatch h)
  have hcycle := State.startStop_cycle { s with mru := { s.mru with recordsSeen := .stopmark, fallbackTimer := none } }
  obtain ⟨hphase, hcount⟩ := Prod.mk.injEq .. ▸ hcycle
  rw [State.pauseStarts, hsettle]
  dsimp only
  rw [hphase, hcount]

theorem StopEntry.complete_eq (now : Word) (cause : PauseCause) : (fun p : StopEntry => p.complete now cause) = fun p =>
    if p.ended = none then { p with ended := some (now - p.runTime, cause) } else p := by
  funext p
  simp only [StopEntry.complete, Option.isNone_iff_eq_none]

end Pause

/-! ## A records period begins (R154, R156, R164) -/

theorem endPeriod_of_absent (gap : Option PendingGap) (chainage runTime : Word) {q : List QueueItem}
    (h : .closeMark ∉ q) : endPeriod gap chainage runTime q = q := by
  induction q with
  | nil => rfl
  | cons i q ih =>
    obtain ⟨hi, hq⟩ := not_or.mp (List.mem_cons.not.mp h)
    cases i with
    | closeMark => exact absurd rfl hi
    | _ => exact congrArg _ (ih hq)

/-- R164: without a pending GAP every close mark keeps none. -/
theorem endPeriod_none (chainage runTime : Word) (q : List QueueItem) : endPeriod none chainage runTime q =
    q.map fun i => if i = .closeMark then .closePast ⟨none, chainage, runTime⟩ else i := by
  induction q with
  | nil => rfl
  | cons i q ih => cases i <;> exact congrArg _ ih

/-- R164: the first close mark keeps the pending GAP, those behind it none. -/
theorem endPeriod_append (gap : Option PendingGap) (chainage runTime : Word) {pre : List QueueItem}
    (hpre : .closeMark ∉ pre) (post : List QueueItem) : endPeriod gap chainage runTime (pre ++ .closeMark :: post) =
      pre ++ .closePast ⟨gap, chainage, runTime⟩ ::
        post.map fun i => if i = .closeMark then .closePast ⟨none, chainage, runTime⟩ else i := by
  induction pre with
  | nil => exact congrArg _ (endPeriod_none chainage runTime post)
  | cons i pre ih =>
    obtain ⟨hi, htail⟩ := not_or.mp (List.mem_cons.not.mp hpre)
    cases i with
    | closeMark => exact absurd rfl hi
    | _ => exact congrArg _ (ih htail)

section Period
variable (m : Mru) (now chainage : Word) (spacing : Nat)

theorem Mru.beginPeriod_of_absent (h : .closeMark ∉ m.queue) : m.beginPeriod now chainage spacing =
    { m with chainageSeen := chainage, nextTrigger := some (chainage.toNat + spacing) } := by
  unfold Mru.beginPeriod
  rw [endPeriod_of_absent _ _ _ h, if_neg h]

theorem Mru.beginPeriod_of_marked {pre post : List QueueItem} (hq : m.queue = pre ++ .closeMark :: post)
    (hpre : .closeMark ∉ pre) : m.beginPeriod now chainage spacing = { m with
      queue := pre ++ .closePast ⟨m.pendingGap, m.chainageSeen, now⟩ ::
        post.map fun i => if i = .closeMark then .closePast ⟨none, m.chainageSeen, now⟩ else i
      pendingGap := none, chainageSeen := chainage, nextTrigger := some (chainage.toNat + spacing) } := by
  have hmem : .closeMark ∈ m.queue := hq ▸ List.mem_append_right _ List.mem_cons_self
  unfold Mru.beginPeriod
  rw [if_pos hmem, hq, endPeriod_append _ _ _ hpre]

end Period

/-! ## Records modes (R156, R157, R164) -/

section Modes
variable {s : State}

/-- R157: the fallback timer as RUN finds it. -/
def State.runFallback (s : State) : Timer :=
  if s.mru.travelSeen = .live then none
  else some (s.mru.fallbackTimer.getD (s.rif.runTime + BitVec.ofNat 32 (s.settingNat Setting.fallbackInterval)))

theorem State.settleFallback_of_run (hrun : s.mru.recordsSeen = .run) :
    s.settleFallback = { s with mru := { s.mru with fallbackTimer := s.runFallback } } := by
  unfold State.runFallback
  by_cases hlive : s.mru.travelSeen = .live
  · rw [State.settleFallback_of_stopped (.inr hlive), if_pos hlive]
  · rw [State.settleFallback_of_runs hrun hlive, if_neg hlive]

theorem State.takeRecords_run_of_off (h : s.mru.recordsSeen = .off) : s.takeRecords .run =
    { s with mru := { s.mru.beginPeriod s.now s.trm.chainage (s.settingNat Setting.lineSpacing) with
      recordsSeen := .run, fallbackTimer := s.runFallback } } := by
  change s.recordsRun = _
  unfold State.recordsRun
  dsimp only
  rw [if_pos h]
  exact State.settleFallback_of_run rfl

theorem State.takeRecords_run_of_other (h : s.mru.recordsSeen ≠ .off) : s.takeRecords .run =
    { s with mru := { s.mru with recordsSeen := .run, fallbackTimer := s.runFallback } } := by
  change s.recordsRun = _
  unfold State.recordsRun
  dsimp only
  rw [if_neg h]
  exact State.settleFallback_of_run rfl

theorem State.takeRecords_off : s.takeRecords .off = State.drive { s with mru := { s.mru with
    recordsSeen := .off, afterStop := false, fallbackTimer := none, queue := s.mru.queue ++ [.closeMark] } } false :=
  congrArg (State.drive · false) (State.settleFallback_of_stopped (.inl fun h => nomatch h))

theorem State.takeRecords_stopmark : s.takeRecords .stopmark =
    { s with mru := { s.mru with recordsSeen := .stopmark, fallbackTimer := none } } :=
  State.settleFallback_of_stopped (.inl fun h => nomatch h)

end Modes

theorem Handoff.recordsJob_iff (h : Handoff) : h.recordsJob = true ↔
    (∃ x, h = .pauseStart x) ∨ (∃ x y, h = .pauseEnd x y) ∨ ∃ x, h = .recordsMode x := by
  cases h <;> simp [Handoff.recordsJob]

section Handed
variable {s : State} {rest : List Waiting}

theorem exec_pauseStartAtMru_of_first {cause : PauseCause}
    (h : s.FirstWaiting (fun h => (∃ x, h = Handoff.pauseStart x) ∨ (∃ x y, h = .pauseEnd x y) ∨ ∃ x, h = .recordsMode x)
      (.pauseStart cause) rest) :
    exec .pauseStartAtMru s = .next (State.pauseStarts { s with inbox := rest }) := by
  change execPauseStartAtMru s = _
  rw [execPauseStartAtMru, h.take _ Handoff.recordsJob_iff]

theorem exec_pauseEndAtMru_of_first {cause : PauseCause} {mode : RecordsMode}
    (h : s.FirstWaiting (fun h => (∃ x, h = Handoff.pauseStart x) ∨ (∃ x y, h = .pauseEnd x y) ∨ ∃ x, h = .recordsMode x)
      (.pauseEnd cause mode) rest) :
    exec .pauseEndAtMru s = .next (State.pauseEnds { s with inbox := rest } cause mode) := by
  change execPauseEndAtMru s = _
  rw [execPauseEndAtMru, h.take _ Handoff.recordsJob_iff]

theorem exec_recordsModeHandoff_of_first {mode : RecordsMode}
    (h : s.FirstWaiting (fun h => (∃ x, h = Handoff.pauseStart x) ∨ (∃ x y, h = .pauseEnd x y) ∨ ∃ x, h = .recordsMode x)
      (.recordsMode mode) rest) :
    exec .recordsModeHandoff s = .next (State.takeRecords { s with inbox := rest } mode) := by
  change execRecordsModeHandoff s = _
  rw [execRecordsModeHandoff, h.take _ Handoff.recordsJob_iff]

theorem exec_consoleMarkAtMru_of_first {code : Half} {runTime chainage : Word}
    (h : s.FirstWaiting (fun h => ∃ x y z, h = .consoleMark x y z) (.consoleMark code runTime chainage) rest) :
    exec .consoleMarkAtMru s = .next (State.consoleMarked { s with inbox := rest } code runTime chainage) := by
  change execConsoleMarkAtMru s = _
  rw [execConsoleMarkAtMru, h.take]
  intro h
  cases h <;> simp

end Handed

/-! ## Marks (R163) -/

theorem Mru.marksBarred_iff (m : Mru) :
    m.marksBarred = true ↔ 16 ≤ m.entriesQueued ∨ m.pendingStop.isSome = true := by
  simp [Mru.marksBarred]

theorem Mru.not_marksBarred {m : Mru} (hroom : m.entriesQueued < 16) (hstop : m.pendingStop = none) :
    ¬ m.marksBarred = true := by
  rw [Mru.marksBarred_iff, hstop]
  simpa using hroom

theorem State.consoleMarked_of_joins {s : State} (code : Half) (runTime chainage : Word) (hmode : s.mru.recordsSeen ≠ .off)
    (hbarred : ¬ s.mru.marksBarred = true) : s.consoleMarked code runTime chainage =
      (s.modMru fun m => m.advanceTo chainage).joinQueue
        (.mark (s.mru.advanceTo chainage).chainageSeen runTime code .console) :=
  (if_neg hmode).trans (if_neg hbarred)

theorem ofInt_toInt_truncate (x : Word) : BitVec.ofInt 16 x.toInt = x.truncate 16 :=
  BitVec.signExtend_eq_setWidth_of_le x (by decide)

section MarkOrder
variable {s : State} {o : Order} (ho : s.orderOf .mark = some o)
include ho

theorem exec_mark_of_order : exec .mark s = .next (
    if o.a < 0 ∨ 65535 < o.a then s.finishRefused .range
    else if s.mru.recordsSeen = .off then s.finishRefused .wrongState
    else if s.mru.marksBarred then s.finishRefused .queueFull
    else
      (s.joinQueue (.mark s.mru.chainageSeen s.now (o.operandA.truncate 16) (.order o.stamp))).finishDone
        (BitVec.ofNat 32 (s.mru.entriesQueued + 1)) false false false) := by
  change execMark s = _
  rw [execMark, ho]

theorem exec_mark_of_range (h : o.a < 0 ∨ 65535 < o.a) : exec .mark s = .next (s.finishRefused .range) :=
  (exec_mark_of_order ho).trans (congrArg _ (if_pos h))

variable (hlow : 0 ≤ o.a) (hhigh : o.a ≤ 65535)
include hlow hhigh

theorem exec_mark_of_off (h : s.mru.recordsSeen = .off) : exec .mark s = .next (s.finishRefused .wrongState) :=
  (exec_mark_of_order ho).trans (congrArg _ ((if_neg (by omega)).trans (if_pos h)))

theorem exec_mark_of_barred (hmode : s.mru.recordsSeen ≠ .off) (h : s.mru.marksBarred = true) :
    exec .mark s = .next (s.finishRefused .queueFull) :=
  (exec_mark_of_order ho).trans (congrArg _ ((if_neg (by omega)).trans ((if_neg hmode).trans (if_pos h))))

theorem exec_mark_of_joins (hmode : s.mru.recordsSeen ≠ .off) (h : ¬ s.mru.marksBarred = true) : exec .mark s = .next
    ((s.joinQueue (.mark s.mru.chainageSeen s.now (o.operandA.truncate 16) (.order o.stamp))).finishDone
      (BitVec.ofNat 32 (s.mru.entriesQueued + 1)) false false false) :=
  (exec_mark_of_order ho).trans (congrArg _ ((if_neg (by omega)).trans ((if_neg hmode).trans (if_neg h))))

end MarkOrder

/-- Settles O50. -/
theorem pausesModesAndMarks : Obligations.PausesModesAndMarks := by
  refine ⟨fun s rest => ?_, fun s => ?_, fun s o ho => ?_⟩
  · intro channel u now
    refine ⟨fun cause hfirst => ?_, fun cause mode hfirst => ?_, fun mode => exec_recordsModeHandoff_of_first,
      fun code runTime chainage hfirst => ⟨fun hmode => ?_, fun hmode hbarred => ?_, fun hmode hroom hstop => ?_⟩⟩
    · intro m stop v
      have hv : State.startStop { u with mru := m } = v := by
        have hpage : (m.openPage.map (·.pageSequence)).getD 0 =
            match s.mru.openPage with | some p => p.pageSequence | none => 0 := by
          change (s.mru.openPage.map (·.pageSequence)).getD 0 = _
          cases s.mru.openPage <;> rfl
        rw [State.startStop_eq, hpage]
        rfl
      rw [exec_pauseStartAtMru_of_first hfirst, State.pauseStarts_eq, ← hv]
    · intro complete
      have hcomplete : complete = fun p => p.complete now cause := (StopEntry.complete_eq now cause).symm
      rw [exec_pauseEndAtMru_of_first hfirst, hcomplete]
      rfl
    · exact (exec_consoleMarkAtMru_of_first hfirst).trans (congrArg _ (if_pos hmode))
    · exact (exec_consoleMarkAtMru_of_first hfirst).trans
        (congrArg _ ((if_neg hmode).trans (if_pos ((Mru.marksBarred_iff _).mpr hbarred))))
    · intro c
      rw [exec_consoleMarkAtMru_of_first hfirst,
        State.consoleMarked_of_joins (s := u) code runTime chainage hmode (Mru.not_marksBarred hroom hstop),
        Mru.advanceTo_eq, State.modMru, Mru.advanceTo_eq]
      rfl
  · intro fallback m begun past
    have hbegins (h : s.mru.recordsSeen = .off) := State.takeRecords_run_of_off h
    refine ⟨fun h habsent => ?_, fun pre post h hq hpre => ?_, State.takeRecords_run_of_other, State.takeRecords_off,
      State.takeRecords_stopmark⟩
    · rw [hbegins h, Mru.beginPeriod_of_absent _ _ _ _ habsent]
      rfl
    · rw [hbegins h, Mru.beginPeriod_of_marked _ _ _ _ hq hpre]
      rfl
  · intro code
    refine ⟨exec_mark_of_range ho, fun hlow hhigh => ⟨exec_mark_of_off ho hlow hhigh, fun hmode hbarred =>
      exec_mark_of_barred ho hlow hhigh hmode ((Mru.marksBarred_iff _).mpr hbarred), fun hmode hroom hstop => ?_⟩⟩
    have hcode : BitVec.ofInt 16 code = o.operandA.truncate 16 := ofInt_toInt_truncate o.operandA
    rw [exec_mark_of_joins ho hlow hhigh hmode (Mru.not_marksBarred hroom hstop), hcode]
    rfl

end Sys2Proof.Machine

/-! PROOF. The scanner's reference cycle, and the Mat Record Unit at a change of run status (R154, R164, R165). -/
namespace Sys2Proof.Machine

/-! ## The reference cycle (R165) -/

section Cycle
variable {s : State}

theorem exec_referenceTimerExpiry_of_some {expiry : Word} (h : s.mru.referenceTimer = some expiry) :
    exec .referenceTimerExpiry s =
      .next (((s.runTo expiry).modMru fun m => { m with referenceTimer := none }).referenceDue) := by
  change execReferenceTimerExpiry s = _
  rw [execReferenceTimerExpiry, h]

theorem exec_cycleTimerExpiry_of_some {expiry : Word} (h : s.mru.cycleTimer = some expiry) :
    exec .cycleTimerExpiry s = .next (s.runTo expiry).endCycle := by
  change execCycleTimerExpiry s = _
  rw [execCycleTimerExpiry, h]

theorem State.referenceDue_of_postponed (hrun : s.mru.recordsSeen = .run) (hcount : s.mru.postponeCount < 4) :
    s.referenceDue = { s with mru := { s.mru with
      postponeCount := s.mru.postponeCount + 1, referenceTimer := s.startTimer 30000 } } :=
  (if_pos hrun).trans (if_pos hcount)

theorem State.referenceDue_of_forced (hrun : s.mru.recordsSeen = .run) (hcount : 4 ≤ s.mru.postponeCount) :
    s.referenceDue = (s.postNote .referenceForced 0 4).runCycle :=
  (if_pos hrun).trans (if_neg (Nat.not_lt.mpr hcount))

theorem State.referenceDue_of_other (hrun : s.mru.recordsSeen ≠ .run) : s.referenceDue = s.runCycle := if_neg hrun

theorem State.runCycle_of_line (h : s.mru.line.isSome = true) :
    s.runCycle = { s with mru := { s.mru with referenceTimer := none, referencePhase := .pending } } := if_pos h

theorem State.runCycle_of_free (h : s.mru.line = none) : s.runCycle = { s with
    mru := { s.mru with referenceTimer := none, referencePhase := .wait }
    inbox := s.inbox ++ [⟨false, .scannerRequest .reference⟩] } := if_neg (by simp [State.modMru, h])

end Cycle

/-! ## The run status (R154, R164) -/

theorem exec_runStatusAtMru_of_first {s : State} {status : RunStatus} {rest : List Waiting}
    (h : s.FirstWaiting (fun h => ∃ x, h = .runStatus .mru x) (.runStatus .mru status) rest) :
    exec .runStatusAtMru s = .next (State.recordsRunStatus { s with inbox := rest } status) := by
  change execRunStatusAtMru s = _
  rw [execRunStatusAtMru, h.take]
  intro h
  cases h with
  | runStatus f x => cases f <;> simp
  | _ => simp

/-- R154, R164: what a RUN start keeps of the queue. -/
theorem atStart_congr {f : QueueItem → Option QueueItem}
    (h : ∀ i, f i = i.atStart) (q : List QueueItem) : q.filterMap QueueItem.atStart = q.filterMap f := by
  rw [funext h]

/-- Settles O52. -/
theorem referenceCyclesAndRecordRuns : Obligations.ReferenceCyclesAndRecordRuns := by
  refine ⟨fun s expiry => ?_, fun s => ?_, fun s rest status hfirst => ?_⟩
  · intro t m put after
    refine ⟨fun htimer => ?_, exec_cycleTimerExpiry_of_some⟩
    have hexec : exec .referenceTimerExpiry s = .next (put m).referenceDue := exec_referenceTimerExpiry_of_some htimer
    exact ⟨fun hrun hcount => hexec.trans (congrArg _ (State.referenceDue_of_postponed (s := put m) hrun hcount)),
      fun hrun hcount => hexec.trans (congrArg _ (State.referenceDue_of_forced (s := put m) hrun hcount)),
      fun hrun => hexec.trans (congrArg _ (State.referenceDue_of_other (s := put m) hrun))⟩
  · intro m
    exact ⟨State.runCycle_of_line, State.runCycle_of_free, rfl⟩
  · intro put seen
    have hexec := exec_runStatusAtMru_of_first hfirst
    refine ⟨?_, ?_, ?_, ?_⟩
    · rintro rfl; exact hexec
    · rintro rfl; exact hexec
    · rintro rfl; exact hexec
    · rintro rfl
      rw [hexec, State.recordsRunStatus, State.modMru, Mru.runStart, atStart_congr (fun i => ?_)]
      · rfl
      · cases i <;> rfl

end Sys2Proof.Machine

/-! PROOF. The page search, the entry write, the page close, the sweep and the flush (R162 to R164, R166). -/
namespace Sys2Proof.Machine

/-! ## The page search (R162, R164) -/

theorem fieldAt_whole (bs : List Byte) : fieldAt bs 0 bs.length = leNat bs := by
  rw [fieldAt, List.drop_zero, List.take_length]

theorem State.fieldAt_regionRead_whole (s : State) (offset n : Nat) :
    fieldAt (s.regionRead offset n) 0 n = leNat (s.regionRead offset n) := by
  have hwhole := fieldAt_whole (s.regionRead offset n)
  rwa [State.regionRead_length] at hwhole

section Search
variable {s : State} (host : HostWrites) {i : Nat} (h : s.mru.op = .search i)
include h

theorem exec_pageSearchReadDone_of_search : exec (.pageSearchReadDone host) s = .next (
    let u := (s.hostWrite host).modMru fun m => { m with op := .none }
    if leNat ((s.hostWrite host).regionRead (s.rif.layoutCopy.ringOffset + 4096 * i) 1) = 1 then
      (u.modMru fun m => m.openFound i s.rif.layoutCopy.pageCount).drive false
    else if s.mru.runSeen = .stopping then (u.modMru Mru.endDrain).drive false else u) := by
  change execPageSearchReadDone host s = _
  rw [execPageSearchReadDone, h, ← State.fieldAt_regionRead_whole]
  rfl

end Search

/-- R160, R164: the end of a drain, with what it leaves of the queue. -/
theorem Mru.endDrain_eq (m : Mru) {f : QueueItem → Option QueueItem} (h : ∀ i, f i = i.unwritten) : m.endDrain = { m with
    linesLost := m.linesLost + BitVec.ofNat 32 m.linesQueued, pendingGap := none, pendingStop := none
    queue := m.queue.filterMap f } := by
  rw [funext h]
  rfl

/-! ## The entry write (R162) -/

section Admit
variable {m : Mru}

theorem Mru.admitStop_of_none (h : m.pendingStop = none ∨ 16 ≤ m.entriesQueued) : m.admitStop = m := by
  unfold Mru.admitStop
  split
  next p hp =>
    refine if_neg fun hroom => ?_
    exact h.elim (fun h => nomatch h.symm.trans hp) fun h => Nat.not_lt.mpr h hroom
  next => rfl

theorem Mru.admitStop_of_some {stop : StopEntry} (hstop : m.pendingStop = some stop) (hroom : m.entriesQueued < 16) :
    m.admitStop = { m with
      pendingStop := none, queue := m.queue.map fun i => if i = .stopPlace then .entry (.stop stop) else i } := by
  unfold Mru.admitStop
  rw [hstop]
  exact if_pos hroom

end Admit

/-- R166: lines written after an entry write. -/
def Mru.writtenAfter (m : Mru) (e : Entry) : Word :=
  match e with
  | .line _ => m.linesWritten + 1
  | _ => m.linesWritten

theorem Mru.entryWritten_eq {m : Mru} {e : Entry} {tail : List QueueItem} (hq : m.queue = .entry e :: tail) (p : OpenPage)
    (sequence : Word) : m.entryWritten e p sequence = { m with
      op := .none, queue := tail, openPage := some (p.added e sequence), linesWritten := m.writtenAfter e } := by
  unfold Mru.entryWritten
  rw [hq]
  rfl

theorem exec_entryWriteDone_of_write {s : State} {sequence : Word} {e : Entry} {tail : List QueueItem} {p : OpenPage}
    (hop : s.mru.op = .entryWrite sequence) (hq : s.mru.queue = .entry e :: tail) (hpage : s.mru.openPage = some p) :
    exec .entryWriteDone s = .next (State.drive { s.writeDone .page with
      mru := Mru.admitStop { s.mru with
        op := .none, queue := tail, openPage := some (p.added e sequence), linesWritten := s.mru.writtenAfter e } } false) := by
  rw [← Mru.entryWritten_eq hq]
  change execEntryWriteDone s = _
  rw [execEntryWriteDone, hop, hpage]
  simp only [hq]
  rfl

/-! ## The page close (R162, R163) -/

/-- R162: a page handed to the host. -/
def State.pageHanded (s : State) : State := State.requestRewrite { s.writeDone .page with
  mru := { s.mru with op := .none, openPage := none }
  rif := { s.rif with pagesHanded := s.rif.pagesHanded + 1, attention := s.rif.attention ||| Cause.page.mask } }

theorem State.pageHanded_mru (s : State) : s.pageHanded.mru = { s.mru with op := .none, openPage := none } := by
  simp [State.pageHanded]

theorem exec_pageCloseDone_of_close {s : State} {closedBy : ClosedBy} {p : OpenPage} (hop : s.mru.op = .close closedBy)
    (hpage : s.mru.openPage = some p) :
    exec .pageCloseDone s = .next ((s.pageHanded.finishFlush p).modMru Mru.issueSearch) := by
  change execPageCloseDone s = _
  rw [execPageCloseDone, hop, hpage]
  rfl

section Handed
variable {s : State} (p : OpenPage)

theorem State.closed_of_plain (h : s.mru.flushing = false) : (s.pageHanded.finishFlush p).modMru Mru.issueSearch =
    { s.pageHanded with mru := { s.pageHanded.mru with op := .search s.mru.searchIndex } } := by
  have hflush : ¬ s.pageHanded.mru.flushing = true := by simp [State.pageHanded_mru, h]
  have hindex : s.pageHanded.mru.searchIndex = s.mru.searchIndex := by rw [State.pageHanded_mru]
  rw [State.finishFlush, if_neg hflush, ← hindex]
  rfl

theorem State.closed_of_flush (h : s.mru.flushing = true) :
    let v := State.finishDone { s.pageHanded with mru := { s.pageHanded.mru with flushing := false } } p.pageSequence false
      false false
    (s.pageHanded.finishFlush p).modMru Mru.issueSearch =
      { v with mru := { v.mru with op := .search s.mru.searchIndex } } := by
  intro v
  have hflush : s.pageHanded.mru.flushing = true := by simp [State.pageHanded_mru, h]
  have hindex : v.mru.searchIndex = s.mru.searchIndex := by simp [v, State.pageHanded_mru]
  rw [State.finishFlush, if_pos hflush, ← hindex]
  rfl

end Handed

/-! ## The sweep and the flush (R162, R163) -/

theorem exec_sweepExpiryAtMru_of_first {s : State} {rest : List Waiting}
    (h : s.FirstWaiting (fun h => h = .sweepExpiry) .sweepExpiry rest) :
    exec .sweepExpiryAtMru s = .next (State.drive { s with inbox := rest } true) := by
  change execSweepExpiryAtMru s = _
  rw [execSweepExpiryAtMru, h.take]
  intro h
  cases h <;> simp

section Holds
variable {m : Mru}

theorem Mru.pageHolds_iff (m : Mru) : m.pageHolds = true ↔ ∃ p, m.openPage = some p ∧ 0 < p.entryCount := by
  rw [Mru.pageHolds, Option.any_eq_true]
  simp

theorem Mru.pageHolds_of_some {p : OpenPage} (h : m.openPage = some p) : m.pageHolds = decide (0 < p.entryCount) := by
  simp [Mru.pageHolds, h]

theorem Mru.pageHolds_of_none (h : m.openPage = none) : m.pageHolds = false := by
  simp [Mru.pageHolds, h]

end Holds

section Flush
variable {s : State} {o : Order} (ho : s.orderOf .flushRecords = some o)
include ho

theorem exec_flushRecords_of_order : exec .flushRecords s = .next (
    if s.mru.pageHolds then ((s.modMru fun m => { m with flushing := true }).holdInFlight).drive false
    else (if s.mru.openPage.isNone ∧ s.mru.op = .none then s.modMru Mru.issueSearch else s).finishDone 0 false false
      false) := by
  change execFlushRecords s = _
  rw [execFlushRecords, ho]

theorem exec_flushRecords_of_holds (h : s.mru.pageHolds = true) : exec .flushRecords s =
    .next (((s.modMru fun m => { m with flushing := true }).holdInFlight).drive false) :=
  (exec_flushRecords_of_order ho).trans (congrArg _ (if_pos h))

theorem exec_flushRecords_of_waits (h : s.mru.pageHolds = false) (hopen : ¬ (s.mru.openPage.isNone = true ∧ s.mru.op = .none)) :
    exec .flushRecords s = .next (s.finishDone 0 false false false) := by
  refine (exec_flushRecords_of_order ho).trans (congrArg _ ((if_neg (Bool.eq_false_iff.mp h)).trans ?_))
  exact congrArg (State.finishDone · 0 false false false) (if_neg hopen)

theorem exec_flushRecords_of_search (hpage : s.mru.openPage = none) (hop : s.mru.op = .none) :
    exec .flushRecords s = .next ((s.modMru Mru.issueSearch).finishDone 0 false false false) := by
  have hempty := Bool.eq_false_iff.mp (Mru.pageHolds_of_none hpage)
  refine (exec_flushRecords_of_order ho).trans (congrArg _ ((if_neg hempty).trans ?_))
  exact congrArg (State.finishDone · 0 false false false) (if_pos ⟨by simp [hpage], hop⟩)

end Flush

end Sys2Proof.Machine

/-! PROOF. The writer: what it begins at the head of the queue, and what it waits for (R162 to R164). -/
namespace Sys2Proof.Machine

/-! ## One step of the writer (R162, R164) -/

section Step
variable {now : Word} {fuel : Nat} {search : Bool} {m : Mru}

theorem Mru.runWriter_of_entry {e : Entry} {tail : List QueueItem} (hq : m.queue = .entry e :: tail) :
    Mru.runWriter now (fuel + 1) search m = if e.isOpenStop then m else m.writeHead e search := by
  rw [Mru.runWriter, hq]

theorem Mru.runWriter_of_empty (hq : m.queue = []) : Mru.runWriter now (fuel + 1) search m = m := by
  rw [Mru.runWriter, hq]

theorem Mru.runWriter_of_place {i : QueueItem} {tail : List QueueItem} (hq : m.queue = i :: tail)
    (hi : i = .linePlace ∨ i = .stopPlace) : Mru.runWriter now (fuel + 1) search m = m := by
  rw [Mru.runWriter, hq]
  rcases hi with rfl | rfl <;> rfl

variable {mark : QueueItem} {rest : List QueueItem} (hq : m.queue = mark :: rest) (hmark : mark.isMark = true)
include hq hmark

/-- R164: the GAP of a close mark joins ahead of it where there is room. -/
theorem Mru.runWriter_of_join {gap : Entry} (hgap : m.gapAtMark now mark = some gap) (hroom : m.entriesQueued < 16) :
    Mru.runWriter now (fuel + 1) search m = Mru.runWriter now fuel true (m.joinAtMark mark gap rest) := by
  have hfree : decide (m.entriesQueued < 16) = true := decide_eq_true hroom
  rw [Mru.runWriter, hq]
  cases mark with
  | entry _ | linePlace | stopPlace => cases hmark
  | closeMark | closePast _ | closeDue => simp only [hgap, hfree]

/-- R164: a close mark without a GAP, or without room for it, is passed or closes the page. -/
theorem Mru.runWriter_of_pass (hgap : m.gapAtMark now mark = none ∨ 16 ≤ m.entriesQueued) :
    Mru.runWriter now (fuel + 1) search m =
      if m.pageHolds then Mru.issueClose (m.leaveMark mark rest) m.markReason
      else Mru.runWriter now fuel search (m.leaveMark mark rest) := by
  rw [Mru.runWriter, hq]
  cases hjoin : m.gapAtMark now mark with
  | none =>
    cases mark with
    | entry _ | linePlace | stopPlace => cases hmark
    | closeMark | closePast _ | closeDue => simp only [hjoin]
  | some gap =>
    have hfull : 16 ≤ m.entriesQueued := hgap.resolve_left fun h => nomatch h.symm.trans hjoin
    have hnoRoom : decide (m.entriesQueued < 16) = false := decide_eq_false (Nat.not_lt.mpr hfull)
    cases mark with
    | entry _ | linePlace | stopPlace => cases hmark
    | closeMark | closePast _ | closeDue => simp only [hjoin, hnoRoom]

end Step

theorem Mru.leaveMark_op (m : Mru) (mark : QueueItem) (rest : List QueueItem) :
    (m.leaveMark mark rest).op = m.op ∧ (m.leaveMark mark rest).flushing = m.flushing := by
  unfold Mru.leaveMark Mru.carryGap
  dsimp only
  (repeat' split) <;> exact ⟨rfl, rfl⟩

section WriteHead
variable {m : Mru} {e : Entry} {search : Bool}

theorem Mru.writeHead_of_some {p : OpenPage} (hpage : m.openPage = some p) : m.writeHead e search =
    if e.length ≤ 4064 - p.area.length then { m with op := .entryWrite m.nextEntry, nextEntry := m.nextEntry + 1 }
    else m.issueClose .full := by
  unfold Mru.writeHead
  split
  next q hq =>
    obtain rfl : q = p := Option.some.inj (hq.symm.trans hpage)
    rfl
  next hnone => exact nomatch hnone.symm.trans hpage

theorem Mru.writeHead_of_none (hpage : m.openPage = none) : m.writeHead e search =
    if search = true ∨ m.runSeen = .stopping then m.issueSearch else m := by
  unfold Mru.writeHead
  split
  next q hq => exact nomatch hq.symm.trans hpage
  next => simp only [Bool.or_eq_true, beq_iff_eq]

end WriteHead

/-! ## What the writer's step makes of the state (R24, R162) -/

/-- R162: the state with the open page's close begun. -/
def State.beginClose (s : State) (m : Mru) (closedBy : ClosedBy) : State :=
  State.issuePage { s with mru := m.issueClose closedBy }

/-- R24, R162: the header's bytes go first, the owner last. -/
theorem State.beginClose_eq (s : State) (m : Mru) (closedBy : ClosedBy) : s.beginClose m closedBy =
    State.issueWrite { s with mru := { m with op := .close closedBy } } .page
      (match m.openPage with
      | some p => [(s.pageOffset p.ringIndex + 1, p.header closedBy), (s.pageOffset p.ringIndex, [2])]
      | none => []) := by
  unfold State.beginClose State.issuePage State.pagePieces Mru.issueClose
  cases m.openPage <;> rfl

theorem Mru.not_drained_of_queue {m : Mru} (h : m.queue ≠ []) : ¬ m.drained = true := by
  simp [Mru.drained, h]

theorem Mru.not_drained_of_op {m : Mru} (h : m.op ≠ .none) : ¬ m.drained = true := by
  simp [Mru.drained, h]

section Drive
variable {s : State} {search : Bool} (hop : s.mru.op = .none)

theorem State.drive_of_busy (h : s.mru.op ≠ .none) : s.drive search = s := if_pos h

include hop

theorem State.drive_of_flush (hflush : s.mru.flushing = true) : s.drive search = s.beginClose s.mru .flush := by
  unfold State.drive State.nextOp
  rw [if_neg (not_not_intro hop), if_pos hflush]
  rfl

variable (hflush : s.mru.flushing = false)
include hflush

/-- R162, R164: where nothing is in flight, the writer's step, then the drain's end. -/
theorem State.drive_of_free : s.drive search = (State.settleDrain { s with
    mru := Mru.runWriter s.now (2 * s.mru.queue.length + 2) search s.mru }).issuePage := by
  unfold State.drive State.nextOp
  rw [if_neg (not_not_intro hop), if_neg (Bool.eq_false_iff.mp hflush)]
  rfl

theorem State.drive_of_still (h : Mru.runWriter s.now (2 * s.mru.queue.length + 2) search s.mru = s.mru)
    (hqueue : s.mru.queue ≠ []) : s.drive search = s := by
  have hissue : s.issuePage = s := by unfold State.issuePage; rw [hop]
  rw [State.drive_of_free hop hflush, h]
  exact (congrArg State.issuePage (if_neg (Mru.not_drained_of_queue hqueue))).trans hissue

theorem State.drive_of_issued {m : Mru} (h : Mru.runWriter s.now (2 * s.mru.queue.length + 2) search s.mru = m)
    (hissued : m.op ≠ .none) : s.drive search = State.issuePage { s with mru := m } := by
  rw [State.drive_of_free hop hflush, h]
  exact congrArg State.issuePage (if_neg (Mru.not_drained_of_op hissued))

/-! ## A ready entry (R162) -/

section Entry
variable {e : Entry} {tail : List QueueItem} (hq : s.mru.queue = .entry e :: tail)
include hq

theorem State.drive_of_open_stop (hstop : e.isOpenStop = true) : s.drive search = s :=
  State.drive_of_still hop hflush ((Mru.runWriter_of_entry hq).trans (if_pos hstop)) (by simp [hq])

variable (hready : ¬ e.isOpenStop = true)
include hready

theorem State.drive_of_fits {p : OpenPage} (hpage : s.mru.openPage = some p) (hfits : e.length ≤ 4064 - p.area.length) :
    s.drive search = State.issueWrite
      { s with mru := { s.mru with op := .entryWrite s.mru.nextEntry, nextEntry := s.mru.nextEntry + 1 } } .page
      [(s.pageOffset p.ringIndex + 32 + p.area.length, e.bytes s.mru.nextEntry)] := by
  have hhead : s.mru.writeHead e search =
      { s.mru with op := .entryWrite s.mru.nextEntry, nextEntry := s.mru.nextEntry + 1 } :=
    (Mru.writeHead_of_some hpage).trans (if_pos hfits)
  rw [State.drive_of_issued hop hflush ((Mru.runWriter_of_entry hq).trans ((if_neg hready).trans hhead))
    fun h => nomatch h]
  unfold State.issuePage State.pagePieces
  dsimp only
  rw [hpage, hq] <;> rfl

theorem State.drive_of_full {p : OpenPage} (hpage : s.mru.openPage = some p) (hfull : 4064 - p.area.length < e.length) :
    s.drive search = s.beginClose s.mru .full := by
  have hhead : s.mru.writeHead e search = s.mru.issueClose .full :=
    (Mru.writeHead_of_some hpage).trans (if_neg (Nat.not_le.mpr hfull))
  exact State.drive_of_issued hop hflush ((Mru.runWriter_of_entry hq).trans ((if_neg hready).trans hhead))
    fun h => nomatch h

theorem State.drive_of_no_page (hpage : s.mru.openPage = none) : s.drive search =
    if search = true ∨ s.mru.runSeen = .stopping then { s with mru := s.mru.issueSearch } else s := by
  have hwriter := (Mru.runWriter_of_entry (now := s.now) (fuel := 2 * s.mru.queue.length + 1) (search := search) hq).trans
    ((if_neg hready).trans (Mru.writeHead_of_none hpage))
  split
  next hdue => exact State.drive_of_issued hop hflush (hwriter.trans (if_pos hdue)) fun h => nomatch h
  next hdue => exact State.drive_of_still hop hflush (hwriter.trans (if_neg hdue)) (by simp [hq])

end Entry

/-! ## A close mark (R164) -/

section Mark
variable {mark : QueueItem} {rest : List QueueItem} (hq : s.mru.queue = mark :: rest) (hmark : mark.isMark = true)
include hq hmark

theorem State.drive_of_join {gap : Entry} (hgap : s.mru.gapAtMark s.now mark = some gap) (hroom : s.mru.entriesQueued < 16) :
    s.drive search = State.drive { s with mru := s.mru.joinAtMark mark gap rest } true := by
  refine State.drive_of_writer hop hflush hop hflush ((Mru.runWriter_of_join hq hmark hgap hroom).trans ?_)
  have hlength : (s.mru.joinAtMark mark gap rest).queue.length = rest.length + 2 := rfl
  exact Mru.runWriter_fuel _ (by rw [hlength, hq, List.length_cons]; omega) (by omega)

variable (hgap : s.mru.gapAtMark s.now mark = none ∨ 16 ≤ s.mru.entriesQueued)
include hgap

theorem State.drive_of_close (hholds : s.mru.pageHolds = true) :
    s.drive search = s.beginClose (s.mru.leaveMark mark rest) s.mru.markReason :=
  State.drive_of_issued hop hflush ((Mru.runWriter_of_pass hq hmark hgap).trans (if_pos hholds)) fun h => nomatch h

theorem State.drive_of_pass (hholds : ¬ s.mru.pageHolds = true) :
    s.drive search = State.drive { s with mru := s.mru.leaveMark mark rest } search := by
  obtain ⟨hleftOp, hleftFlush⟩ := s.mru.leaveMark_op mark rest
  have hlength := s.mru.leaveMark_length mark rest
  refine State.drive_of_writer hop hflush (hleftOp.trans hop) (hleftFlush.trans hflush)
    ((Mru.runWriter_of_pass hq hmark hgap).trans ((if_neg hholds).trans ?_))
  exact Mru.runWriter_fuel _ (by rw [hlength, hq, List.length_cons]; omega) (by omega)

end Mark

/-! ## The end of a drain (R164) -/

section Empty
variable (hq : s.mru.queue = [])
include hq

theorem Mru.drained_iff : s.mru.drained = true ↔ s.mru.runSeen = .stopping ∧ s.mru.recordsSeen = .off ∧
    s.mru.line = none ∧ s.mru.pendingStop = none := by
  simp [Mru.drained, hq, hop, hflush, and_assoc]

theorem State.drive_of_empty : s.drive search = s.settleDrain.issuePage := by
  rw [State.drive_of_free hop hflush, Mru.runWriter_of_empty hq]

omit hflush hq in
theorem State.issuePage_of_none : s.issuePage = s := by
  unfold State.issuePage
  rw [hop]

theorem State.drive_of_undrained (h : ¬ s.mru.drained = true) : s.drive search = s := by
  rw [State.drive_of_empty hop hflush hq, State.settleDrain, if_neg h]
  exact State.issuePage_of_none hop

theorem State.drive_of_drained_close (h : s.mru.drained = true) (hholds : s.mru.pageHolds = true) :
    s.drive search = s.beginClose s.mru .stop := by
  rw [State.drive_of_empty hop hflush hq, State.settleDrain, if_pos h, if_pos hholds]
  rfl

theorem State.drive_of_quiet (h : s.mru.drained = true) (hholds : ¬ s.mru.pageHolds = true) :
    s.drive search = { s with rif := { s.rif with recordsQuiet := true } } := by
  rw [State.drive_of_empty hop hflush hq, State.settleDrain, if_pos h, if_neg hholds]
  exact State.issuePage_of_none hop

end Empty
end Drive

/-! ## A GAP that found no room (R164) -/

theorem Mru.carryGap_of_none {m : Mru} (g : PendingGap) (h : ∀ left, .closePast left ∉ m.queue) :
    m.carryGap g = { m with pendingGap := some (g.before m.pendingGap) } := by
  unfold Mru.carryGap
  rw [(periodLeft_eq_none_iff m.queue).mpr h]

theorem Mru.carryGap_of_left {m : Mru} (g : PendingGap) {pre rest : List QueueItem} {left : PeriodEnd}
    (hq : m.queue = pre ++ .closePast left :: rest) (hpre : ∀ left, .closePast left ∉ pre) : m.carryGap g =
      { m with queue := pre ++ .closePast { left with gap := some (g.before left.gap) } :: rest } := by
  have hset := setPeriodGap_append hpre left rest (some (g.before left.gap))
  unfold Mru.carryGap
  rw [hq, periodLeft_append hpre, ← hset]

end Sys2Proof.Machine

/-! PROOF. The bytes of an entry and of a page's header (12.6, R155, R173). -/
namespace Sys2Proof.Machine

/-! ## The layout of an entry -/

/-- A field of an entry's bytes. -/
def Entry.field (e : Entry) (sequence : Word) (offset length : Nat) : Nat :=
  leNat (((e.bytes sequence).drop offset).take length)

/-- 12.6: a LINE holds at most 64 points. -/
def Entry.Bounded (e : Entry) : Prop := ∀ l, e = .line l → l.points.length ≤ 64

theorem points_length (points : List Half) : (points.flatMap fun p => leBytes 2 p.toNat).length = 2 * points.length := by
  induction points with
  | nil => rfl
  | cons p points ih => simp only [List.flatMap_cons, List.length_append, leBytes_length, ih, List.length_cons]; omega

/-- 12.6: the numbers of a LINE ahead of its points. -/
def LineEntry.front (l : LineEntry) : List Byte :=
  leBytes 1 l.line.windowFirst ++ leBytes 1 l.line.windowCount ++ leBytes 2 l.line.halfLeft ++
    leBytes 2 l.line.halfRight ++ leBytes 2 (BitVec.ofInt 16 l.mean).toNat ++ leBytes 1 l.minIndex ++
    leBytes 1 l.maxIndex ++ leBytes 4 l.line.sequence.toNat

theorem LineEntry.front_length (l : LineEntry) : l.front.length = 14 := by
  simp only [LineEntry.front, List.length_append, leBytes_length]

theorem Entry.body_line (l : LineEntry) :
    (Entry.line l).body = l.front ++ l.points.flatMap fun p => leBytes 2 p.toNat := rfl

theorem Entry.body_line_length (l : LineEntry) : (Entry.line l).body.length = 14 + 2 * l.points.length := by
  rw [Entry.body_line, List.length_append, LineEntry.front_length, points_length]

theorem Entry.body_length_le (e : Entry) : 14 + e.body.length ≤ e.length := by
  cases e with
  | line l =>
    rw [Entry.body_line_length]
    simp only [Entry.length, roundUp4]
    omega
  | stop p =>
    obtain ⟨chainage, runTime, ended⟩ := p
    rcases ended with _ | ⟨duration, cause⟩ <;> simp [Entry.body, Entry.length]
  | mark chainage runTime code source => cases source <;> simp [Entry.body, Entry.length, MarkSource.bytes]
  | gap chainage runTime lost missed reason => simp [Entry.body, Entry.length]

theorem Entry.length_bounds {e : Entry} (h : e.Bounded) : e.length % 4 = 0 ∧ 28 ≤ e.length ∧ e.length ≤ 156 := by
  cases e with
  | line l =>
    have hpoints := h l rfl
    simp only [Entry.length, roundUp4]
    omega
  | stop _ | mark _ _ _ _ | gap _ _ _ _ _ => simp [Entry.length]

theorem Entry.filled_length (e : Entry) : e.filled.length = e.length - 14 := by
  have := e.body_length_le
  simp only [Entry.filled, List.length_append, List.length_replicate]
  omega

section Layout
variable (e : Entry) (sequence : Word)

/-- R173: the CRC an entry carries. -/
def Entry.crc : Half := crc16 (e.header sequence ++ e.filled)

theorem Entry.bytes_eq :
    e.bytes sequence = e.header sequence ++ (leBytes 2 (e.crc sequence).toNat ++ e.filled) := List.append_assoc ..

theorem Entry.bytes_length : (e.bytes sequence).length = e.length := by
  have := e.body_length_le
  rw [Entry.bytes_eq, List.length_append, List.length_append, leBytes_length, Entry.header_length, Entry.filled_length]
  omega

theorem Entry.bytes_take : (e.bytes sequence).take 12 = e.header sequence := by
  rw [Entry.bytes_eq, List.take_left' (e.header_length sequence)]

theorem Entry.bytes_drop : (e.bytes sequence).drop 14 = e.filled := by
  have hfront : (e.header sequence ++ leBytes 2 (e.crc sequence).toNat).length = 14 := by simp
  rw [Entry.bytes_eq, ← List.append_assoc, List.drop_left' hfront]

theorem Entry.bytes_crc : leNat (((e.bytes sequence).drop 12).take 2) = (e.crc sequence).toNat := by
  rw [Entry.bytes_eq, List.drop_left' (e.header_length sequence), List.take_left' (leBytes_length 2 _),
    leNat_leBytes_half]

variable {offset length : Nat}

theorem Entry.field_of_header (h : offset + length ≤ 12) :
    e.field sequence offset length = leNat (((e.header sequence).drop offset).take length) :=
  e.field_header sequence offset length h

theorem Entry.field_of_filled (h : 14 ≤ offset) :
    e.field sequence offset length = leNat ((e.filled.drop (offset - 14)).take length) :=
  e.field_body sequence offset length h

/-! ## What the first 12 bytes hold -/

theorem Entry.field_first : e.field sequence 0 1 = e.firstByte.toNat :=
  e.field_of_header sequence (by decide)

theorem Entry.field_third : e.field sequence 3 1 = e.thirdByte.toNat :=
  e.field_of_header sequence (by decide)

/-- 12.6: the fields every entry has alike. -/
theorem Entry.field_common {e : Entry} (h : e.Bounded) (sequence : Word) :
    e.field sequence 1 1 = e.length ∧ e.field sequence 2 1 = sequence.toNat % 2 ^ 8 ∧
      e.field sequence 4 4 = e.chainage.toNat ∧ e.field sequence 8 4 = e.runTime.toNat := by
  obtain ⟨_, _, hlength⟩ := Entry.length_bounds h
  refine ⟨?_, ?_, ?_, ?_⟩
  · rw [e.field_of_header sequence (by decide)]
    exact leNat_code (by omega)
  · rw [e.field_of_header sequence (by decide)]
    exact BitVec.toNat_setWidth ..
  all_goals
    rw [e.field_of_header sequence (by decide)]
    simp only [Entry.header, List.cons_append, List.nil_append, List.drop_succ_cons]
    simp only [leNat_behind_le, Nat.reduceLeDiff, Nat.reduceSub, leNat_word_first, leNat_word_last]

end Layout

/-! ## LINE -/

theorem toNat_mod_half (x : Half) : x.toNat % 65536 = x.toNat := Nat.mod_eq_of_lt x.isLt

theorem toNat_mod_word (x : Word) : x.toNat % 4294967296 = x.toNat := Nat.mod_eq_of_lt x.isLt

theorem entryFlagByte_toNat {kind flags : Nat} (h : kind + 4 * flags < 256) :
    (entryFlagByte kind flags).toNat = kind + 4 * flags := Nat.mod_eq_of_lt h

theorem LineEntry.flagByte (l : LineEntry) : (entryFlagByte 0 l.flags).toNat =
    4 * l.line.afterStop.toNat + 8 * l.line.stale.toNat + 16 * l.line.unplaced.toNat + 32 * l.cold.toNat +
      64 * l.spread.toNat := by
  have hafter := l.line.afterStop.toNat_le
  have hstale := l.line.stale.toNat_le
  have hunplaced := l.line.unplaced.toNat_le
  have hcold := l.cold.toNat_le
  have hspread := l.spread.toNat_le
  rw [entryFlagByte_toNat (by unfold LineEntry.flags; omega), LineEntry.flags]
  omega

/-- 12.6: the points of a LINE, two bytes each. -/
theorem leNat_points {points : List Half} {i : Nat} {p : Half} (h : points[i]? = some p) (after : List Byte) :
    leNat (((points.flatMap (fun p => leBytes 2 p.toNat) ++ after).drop (2 * i)).take 2) = p.toNat := by
  induction points generalizing i with
  | nil => cases h
  | cons q points ih =>
    rw [List.flatMap_cons, List.append_assoc]
    cases i with
    | zero =>
      obtain rfl : q = p := by simpa using h
      exact (leNat_first _ 2 q.toNat).trans (Nat.mod_eq_of_lt q.isLt)
    | succ i =>
      rw [leNat_behind_le 2 _ _ _ (by omega), show 2 * (i + 1) - 2 = 2 * i by omega]
      exact ih (by simpa using h)

section Line
variable (l : LineEntry) (sequence : Word)

theorem LineEntry.field_point {i : Nat} {p : Half} (h : l.points[i]? = some p) :
    (Entry.line l).field sequence (28 + 2 * i) 2 = p.toNat := by
  have hfront := l.front_length
  rw [Entry.field_of_filled _ _ (by omega), Entry.filled, Entry.body_line, List.append_assoc,
    leNat_behind _ _ _ _ (by omega), hfront, show 28 + 2 * i - 14 - 14 = 2 * i by omega]
  exact leNat_points h _

/-- 12.6: the numbers of a LINE. -/
theorem LineEntry.field_numbers :
    let e : Entry := .line l
    e.field sequence 14 1 = l.line.windowFirst % 2 ^ 8 ∧ e.field sequence 15 1 = l.line.windowCount % 2 ^ 8 ∧
    e.field sequence 16 2 = l.line.halfLeft % 2 ^ 16 ∧ e.field sequence 18 2 = l.line.halfRight % 2 ^ 16 ∧
    e.field sequence 20 2 = (BitVec.ofInt 16 l.mean).toNat ∧ e.field sequence 22 1 = l.minIndex % 2 ^ 8 ∧
    e.field sequence 23 1 = l.maxIndex % 2 ^ 8 ∧ e.field sequence 24 4 = l.line.sequence.toNat := by
  dsimp only
  refine ⟨?_, ?_, ?_, ?_, ?_, ?_, ?_, ?_⟩
  all_goals
    rw [Entry.field_of_filled _ _ (by decide), Entry.filled, Entry.body_line, LineEntry.front]
    simp only [List.append_assoc, leNat_behind_le, Nat.reduceLeDiff, Nat.reduceSub, leNat_first, Nat.reducePow,
      toNat_mod_half, toNat_mod_word]

end Line

/-! ## STOP, MARK and GAP -/

theorem PauseCause.code_lt (cause : PauseCause) : cause.code < 256 := by cases cause <;> decide

theorem GapReason.code_lt (reason : GapReason) : reason.code < 256 := by cases reason <;> decide

theorem ClosedBy.code_lt (closedBy : ClosedBy) : closedBy.code < 256 := by cases closedBy <;> decide

/-- A code in the byte at a block's front. -/
theorem leNat_code_first {v : Nat} (h : v < 256) (after : List Byte) :
    leNat (((BitVec.ofNat 8 v :: after).drop 0).take 1) = v := leNat_code h

section Others
variable (sequence : Word)

/-- 12.6: the fields of a STOP that has ended. -/
theorem Entry.field_stop (chainage runTime duration : Word) (cause : PauseCause) :
    let e : Entry := .stop ⟨chainage, runTime, some (duration, cause)⟩
    e.field sequence 14 4 = duration.toNat ∧ e.field sequence 18 1 = cause.code := by
  dsimp only
  refine ⟨?_, ?_⟩
  all_goals
    rw [Entry.field_of_filled _ _ (by decide), Entry.filled, Entry.body]
    simp only [List.append_assoc, List.cons_append, leNat_behind_le, Nat.reduceLeDiff, Nat.reduceSub, leNat_word_first,
      leNat_code_first cause.code_lt]

theorem Entry.body_stop_length (p : StopEntry) : (Entry.stop p).body.length ≤ 5 := by
  obtain ⟨chainage, runTime, ended⟩ := p
  rcases ended with _ | ⟨duration, cause⟩ <;> simp [Entry.body]

theorem Entry.body_mark_length (chainage runTime : Word) (code : Half) (source : MarkSource) :
    (Entry.mark chainage runTime code source).body.length = 6 := by
  cases source <;> simp [Entry.body, MarkSource.bytes]

theorem leNat_half_first (v : Half) (after : List Byte) :
    leNat (((leBytes 2 v.toNat ++ after).drop 0).take 2) = v.toNat :=
  (leNat_first after 2 v.toNat).trans (Nat.mod_eq_of_lt v.isLt)

/-- 12.6: the code of a MARK, and where its source stands. -/
theorem Entry.field_mark (chainage runTime : Word) (code : Half) (source : MarkSource) :
    let e : Entry := .mark chainage runTime code source
    e.field sequence 14 2 = code.toNat ∧ ∃ after, ∀ k length,
      e.field sequence (16 + k) length = leNat (((source.bytes ++ after).drop k).take length) := by
  let zeros : List Byte := List.replicate (32 - 14 - (Entry.mark chainage runTime code source).body.length) 0
  have hfilled : (Entry.mark chainage runTime code source).filled = leBytes 2 code.toNat ++ (source.bytes ++ zeros) :=
    List.append_assoc ..
  refine ⟨?_, zeros, fun k length => ?_⟩
  · rw [Entry.field_of_filled _ _ (by decide), hfilled]
    exact leNat_half_first code _
  · rw [Entry.field_of_filled _ _ (by omega), hfilled, leNat_behind_le _ _ _ _ (by omega),
      show 16 + k - 14 - 2 = k by omega]

theorem Entry.body_gap_length (chainage runTime lost missed : Word) (reason : GapReason) :
    (Entry.gap chainage runTime lost missed reason).body.length = 9 := by simp [Entry.body]

/-- 12.6: the fields of a GAP. -/
theorem Entry.field_gap (chainage runTime lost missed : Word) (reason : GapReason) :
    let e : Entry := .gap chainage runTime lost missed reason
    e.field sequence 14 4 = lost.toNat ∧ e.field sequence 18 4 = missed.toNat ∧
      e.field sequence 22 1 = reason.code := by
  dsimp only
  refine ⟨?_, ?_, ?_⟩
  all_goals
    rw [Entry.field_of_filled _ _ (by decide), Entry.filled, Entry.body]
    simp only [List.append_assoc, List.cons_append, leNat_behind_le, Nat.reduceLeDiff, Nat.reduceSub, leNat_word_first,
      leNat_code_first reason.code_lt]

end Others

/-! ## The page's header -/

theorem OpenPage.headerBody_length (p : OpenPage) (closedBy : ClosedBy) : (p.headerBody closedBy).length = 21 := by
  simp [OpenPage.headerBody]

/-- 12.6: the fields of a page's header, its owner first. -/
theorem OpenPage.header_fields (p : OpenPage) (closedBy : ClosedBy) :
    let page : List Byte := 2 :: p.header closedBy
    let field (offset length : Nat) : Nat := leNat ((page.drop offset).take length)
    page.length = 32 ∧ field 1 1 = closedBy.code ∧ field 2 2 = p.entryCount % 2 ^ 16 ∧
    field 4 4 = p.pageSequence.toNat ∧ field 8 4 = p.firstSequence.toNat ∧ field 12 4 = p.firstChainage.toNat ∧
    field 16 4 = p.lastChainage.toNat ∧ field 20 2 = p.area.length % 2 ^ 16 ∧
    field 22 2 = (crc16 ((page.drop 1).take 21 ++ p.area)).toNat ∧ field 24 8 = 0 := by
  have hbody : ((2 :: p.header closedBy).drop 1).take 21 = p.headerBody closedBy := by
    rw [List.drop_succ_cons, List.drop_zero, OpenPage.header, List.append_assoc,
      List.take_left' (p.headerBody_length closedBy)]
  have hzeros : leNat ((List.replicate 8 (0 : Byte)).drop 0 |>.take 8) = 0 := rfl
  have hlength : (2 :: p.header closedBy).length = 32 := congrArg (· + 1) (p.header_length closedBy)
  dsimp only
  rw [hbody]
  refine ⟨hlength, leNat_code closedBy.code_lt, ?_, ?_, ?_, ?_, ?_, ?_, ?_, ?_⟩
  all_goals
    rw [OpenPage.header]
    generalize crc16 (p.headerBody closedBy ++ p.area) = crc
    simp only [OpenPage.headerBody, List.append_assoc, List.cons_append, List.nil_append, List.drop_succ_cons]
    simp only [leNat_behind_le, Nat.reduceLeDiff, Nat.reduceSub, leNat_first, Nat.reducePow, toNat_mod_half,
      toNat_mod_word, hzeros]

end Sys2Proof.Machine

/-! PROOF. Pages are found, filled and handed to the host (R155, R161 to R164, R166). -/
namespace Sys2Proof.Machine

theorem Entry.isOpenStop_iff (e : Entry) : e.isOpenStop = true ↔ ∃ c t, e = .stop ⟨c, t, none⟩ := by
  cases e with
  | stop p =>
    obtain ⟨chainage, runTime, ended⟩ := p
    cases ended <;> simp [Entry.isOpenStop]
  | line _ | mark _ _ _ _ | gap _ _ _ _ _ => simp [Entry.isOpenStop]

section Marks
variable (m : Mru) (now : Word) {left : PeriodEnd} {g : PendingGap}

theorem Mru.gapAtMark_closeMark (h : m.pendingGap = some g) :
    m.gapAtMark now .closeMark = some (g.entry m.chainageSeen now) := by
  rw [Mru.gapAtMark, h]
  rfl

theorem Mru.gapAtMark_closePast (h : left.gap = some g) :
    m.gapAtMark now (.closePast left) = some (g.entry left.chainage left.runTime) := by
  rw [Mru.gapAtMark, h]
  rfl

theorem Mru.joinAtMark_closeMark (gap : Entry) (rest : List QueueItem) : m.joinAtMark .closeMark gap rest =
    { m with pendingGap := none, queue := .entry gap :: .closeDue :: rest } := by
  rw [Mru.joinAtMark, if_pos rfl]

theorem Mru.joinAtMark_closePast (gap : Entry) (rest : List QueueItem) : m.joinAtMark (.closePast left) gap rest =
    { m with queue := .entry gap :: .closeDue :: rest } := by
  rw [Mru.joinAtMark, if_neg fun h => nomatch h]

theorem Mru.leaveMark_of_none (rest : List QueueItem) (h : left.gap = none) :
    m.leaveMark (.closePast left) rest = { m with queue := rest } := by
  obtain ⟨gap, chainage, runTime⟩ := left
  subst h
  rfl

theorem Mru.leaveMark_of_some (rest : List QueueItem) (h : left.gap = some g) :
    m.leaveMark (.closePast left) rest = Mru.carryGap { m with queue := rest } g := by
  obtain ⟨gap, chainage, runTime⟩ := left
  subst h
  rfl

end Marks

/-- R164: the marks of the queue that are passed or close the page, with what their leaving makes of the records. -/
theorem Mru.passes_cases {m : Mru} (now : Word) {tail : List QueueItem}
    (h : m.queue = .closeDue :: tail ∨ (∃ left, m.queue = .closePast left :: tail ∧ left.gap = none) ∨
      m.queue = .closeMark :: tail ∧ (m.pendingGap = none ∨ 16 ≤ m.entriesQueued)) :
    ∃ mark, m.queue = mark :: tail ∧ mark.isMark = true ∧
      (m.gapAtMark now mark = none ∨ 16 ≤ m.entriesQueued) ∧ m.leaveMark mark tail = { m with queue := tail } := by
  rcases h with hq | ⟨left, hq, hgap⟩ | ⟨hq, hgap⟩
  · exact ⟨.closeDue, hq, rfl, .inl rfl, rfl⟩
  · exact ⟨.closePast left, hq, rfl, .inl (by rw [Mru.gapAtMark, hgap]; rfl), m.leaveMark_of_none tail hgap⟩
  · exact ⟨.closeMark, hq, rfl, hgap.imp (fun hgap => by rw [Mru.gapAtMark, hgap]; rfl) id, rfl⟩

/-- Settles O51. -/
theorem pagesAreFoundFilledAndHanded : Obligations.PagesAreFoundFilledAndHanded := by
  refine ⟨fun s host i hop => ?_, fun s sequence e tail p hop hq hpage => ?_, fun s closedBy p hop hpage => ?_,
    fun s rest => exec_sweepExpiryAtMru_of_first, fun s o ho => ?_, fun s search => ?_, fun m g => ?_,
    fun e sequence hbounded => ?_, fun e sequence hbounded => ?_, fun p closedBy => ?_⟩
  · intro u m forPart
    have hexec := exec_pageSearchReadDone_of_search host hop
    have hu : { u with mru := m } = (s.hostWrite host).modMru fun m => { m with op := .none } := by
      have hmru : u.mru = s.mru := by simp [u]
      simp only [m, ← hmru]
      rfl
    refine ⟨fun hpart => ?_, fun hpart hrun => ?_, fun hpart hrun => ?_⟩
    · refine hexec.trans (congrArg _ ((if_pos hpart).trans ?_))
      rw [← hu]
      rfl
    · refine hexec.trans (congrArg _ ((if_neg hpart).trans ((if_neg hrun).trans ?_)))
      exact hu.symm
    · refine hexec.trans (congrArg _ ((if_neg hpart).trans ((if_pos hrun).trans ?_)))
      rw [← hu, State.modMru, Mru.endDrain_eq m (fun i => ?_)]
      · rfl
      · cases i <;> rfl
  · intro u page written m
    have hwritten : s.mru.writtenAfter e = written e := by cases e <;> rfl
    have hexec : exec .entryWriteDone s = .next (State.drive { u with mru := m.admitStop } false) := by
      rw [exec_entryWriteDone_of_write hop hq hpage, hwritten]
      rfl
    refine ⟨fun h => ?_, fun stop hstop hroom => ?_⟩
    · rw [hexec, Mru.admitStop_of_none (m := m) h]
    · rw [hexec, Mru.admitStop_of_some (m := m) hstop hroom]
  · intro u
    have hexec := exec_pageCloseDone_of_close hop hpage
    exact ⟨fun hflush => hexec.trans (congrArg _ (State.closed_of_plain p hflush)),
      fun hflush => hexec.trans (congrArg _ (State.closed_of_flush p hflush))⟩
  · refine ⟨fun p hpage hcount => ?_, fun p hpage hcount => ?_, fun hpage hop => ?_, exec_flushRecords_of_search ho⟩
    · exact exec_flushRecords_of_holds ho ((Mru.pageHolds_of_some hpage).trans (decide_eq_true hcount))
    · refine exec_flushRecords_of_waits ho ((Mru.pageHolds_of_some hpage).trans (decide_eq_false (by omega))) ?_
      simp [hpage]
    · exact exec_flushRecords_of_waits ho (Mru.pageHolds_of_none hpage) fun h => hop h.2
  · intro put page close holds
    have hclose (m : Mru) (closedBy : ClosedBy) : s.beginClose m closedBy = close m closedBy :=
      State.beginClose_eq s m closedBy
    have hholds : s.mru.pageHolds = true ↔ holds := s.mru.pageHolds_iff
    refine ⟨State.drive_of_busy, fun hop hflush => (State.drive_of_flush hop hflush).trans (hclose ..),
      fun hop hflush => ⟨fun i tail hq hi => ?_, fun e tail hq hready => ?_, fun tail hq g hgap hroom => ?_,
        fun tail left g hq hgap hroom => ?_, fun tail => ?_, fun hq => ?_⟩⟩
    · rcases hi with hi | hi | ⟨c, t, rfl⟩
      · exact State.drive_of_still hop hflush (Mru.runWriter_of_place hq (.inl hi)) (by simp [hq])
      · exact State.drive_of_still hop hflush (Mru.runWriter_of_place hq (.inr hi)) (by simp [hq])
      · exact State.drive_of_open_stop hop hflush hq rfl
    · have hstop : ¬ e.isOpenStop = true := fun h =>
        let ⟨c, t, he⟩ := e.isOpenStop_iff.mp h
        hready c t he
      refine ⟨fun p hpage => ⟨State.drive_of_fits hop hflush hq hstop hpage, fun hfull => ?_⟩,
        fun hpage => ⟨fun hdue => ?_, fun hsearch hrun => ?_⟩⟩
      · exact (State.drive_of_full hop hflush hq hstop hpage hfull).trans (hclose ..)
      · exact (State.drive_of_no_page hop hflush hq hstop hpage).trans (if_pos hdue)
      · refine (State.drive_of_no_page hop hflush hq hstop hpage).trans (if_neg fun h => ?_)
        exact h.elim (fun h => Bool.noConfusion (hsearch.symm.trans h)) hrun
    · rw [State.drive_of_join hop hflush hq rfl (s.mru.gapAtMark_closeMark s.now hgap) hroom, Mru.joinAtMark_closeMark]
      rfl
    · rw [State.drive_of_join hop hflush hq rfl (s.mru.gapAtMark_closePast s.now hgap) hroom, Mru.joinAtMark_closePast]
      rfl
    · intro passes
      have hpasses {mark : QueueItem} (hq : s.mru.queue = mark :: tail) (hmark : mark.isMark = true)
          (hgap : s.mru.gapAtMark s.now mark = none ∨ 16 ≤ s.mru.entriesQueued) :
          passes (s.mru.leaveMark mark tail) :=
        ⟨fun h => (State.drive_of_close hop hflush hq hmark hgap (hholds.mpr h)).trans (hclose ..),
          fun h => State.drive_of_pass hop hflush hq hmark hgap (hholds.not.mpr h)⟩
      refine ⟨fun h => ?_, fun left g hq hgap hfull => ?_⟩
      · obtain ⟨mark, hq, hmark, hgap, hleave⟩ := Mru.passes_cases s.now h
        exact hleave ▸ hpasses hq hmark hgap
      · exact s.mru.leaveMark_of_some tail hgap ▸ hpasses hq rfl (.inr hfull)
    · intro quiet
      have hquiet : s.mru.drained = true ↔ quiet := Mru.drained_iff hop hflush hq
      exact ⟨fun h => State.drive_of_undrained hop hflush hq (hquiet.not.mpr h),
        fun h hheld => (State.drive_of_drained_close hop hflush hq (hquiet.mpr h) (hholds.mpr hheld)).trans (hclose ..),
        fun h hheld => State.drive_of_quiet hop hflush hq (hquiet.mpr h) (hholds.not.mpr hheld)⟩
  · intro joined noneLeft
    have hjoined (later : Option PendingGap) : g.before later = joined later := by cases later <;> rfl
    refine ⟨fun hnone => ?_, fun pre left rest hq hpre => ?_⟩
    · rw [Mru.carryGap_of_none g hnone, hjoined]
    · rw [Mru.carryGap_of_left g hq hpre, hjoined]
  · obtain ⟨hfour, hlow, hhigh⟩ := Entry.length_bounds hbounded
    refine ⟨e.bytes_length sequence, hfour, hlow, hhigh, e.bytes_take sequence, ?_⟩
    rw [e.bytes_crc sequence, e.bytes_take sequence, e.bytes_drop sequence]
    rfl
  · intro field zerosFrom common
    have hzeros (n : Nat) (h : 14 + e.body.length ≤ n) : zerosFrom n := fun i hn hi =>
      e.bytes_padding sequence i (Nat.le_trans h hn) hi
    have hcommon : common e.chainage e.runTime := Entry.field_common hbounded sequence
    have hfirst : field 0 1 = e.firstByte.toNat := e.field_first sequence
    have hthird : field 3 1 = e.thirdByte.toNat := e.field_third sequence
    refine ⟨?_, ?_, ?_, ?_⟩
    · rintro l rfl
      obtain ⟨h14, h15, h16, h18, h20, h22, h23, h24⟩ := l.field_numbers sequence
      exact ⟨hcommon, rfl, hfirst.trans l.flagByte, hthird.trans (BitVec.toNat_ofNat ..), h14, h15, h16, h18, h20, h22, h23,
        h24, fun i p hp => l.field_point sequence hp, hzeros _ (by rw [Entry.body_line_length]; omega)⟩
    · rintro ⟨chainage, runTime, ended⟩ rfl
      have hlength := Entry.body_stop_length ⟨chainage, runTime, ended⟩
      refine ⟨hcommon, rfl, hfirst, hthird, hzeros 19 (by omega), ?_, ?_⟩
      · rintro duration cause rfl
        obtain ⟨hduration, hcause⟩ := Entry.field_stop sequence chainage runTime duration cause
        exact ⟨hduration, hcause.trans (by cases cause <;> rfl)⟩
      · rintro rfl
        exact hzeros 14 (Nat.le_refl _)
    · rintro chainage runTime code source rfl
      obtain ⟨hcode, after, hsource⟩ := Entry.field_mark sequence chainage runTime code source
      have hlength := Entry.body_mark_length chainage runTime code source
      refine ⟨hcommon, rfl, hfirst, hthird, hzeros 20 (by omega), hcode, ?_, ?_, ?_⟩
      · refine (hsource 1 1).trans ?_
        cases source <;> rfl
      · rintro stamp rfl
        exact ⟨hsource 0 1, (hsource 2 2).trans (leNat_half_first stamp after)⟩
      · rintro rfl
        exact ⟨hsource 0 1, hsource 2 2⟩
    · rintro chainage runTime lost missed reason rfl
      obtain ⟨hlost, hmissed, hreason⟩ := Entry.field_gap sequence chainage runTime lost missed reason
      have hlength := Entry.body_gap_length chainage runTime lost missed reason
      exact ⟨hcommon, rfl, hfirst, hthird, hzeros 23 (by omega), hlost, hmissed, hreason.trans (by cases reason <;> rfl)⟩
  · intro page field
    obtain ⟨hlength, hcode, hrest⟩ := p.header_fields closedBy
    exact ⟨hlength, hcode.trans (by cases closedBy <;> rfl), hrest⟩

end Sys2Proof.Machine
